-- ==== Sys2Proof/Word.lean ====
section
/-! DEFINITION. The word type of the Z940 and its plainest arithmetic. -/

namespace Sys2Proof

/-- An instruction word (03 R46). -/
abbrev Word := BitVec 32

/-- One byte of memory. -/
abbrev Byte := BitVec 8

/-- One doubleword: a scalar register, an address, a lane's captured operand. -/
abbrev DWord := BitVec 64

end Sys2Proof
end

