-- ==== Sys2Proof/Config.lean ====
section
/-! DEFINITION. What the spec leaves to the part or leaves open: constants without a body, so that no proof can use a
value of one. Each is named in a log entry. -/

namespace Sys2Proof.Config

/-- The cycle count of a core at a step: the spec fixes no cycle of any event (DESIGN CHOICE, log 6). -/
opaque cycleCount : Nat → Nat → BitVec 64

/-- The form of the part, in `ident` [39:32]: false Z940-M, true Z940-P (25 R374; DESIGN CHOICE, log 15). -/
opaque isP : Bool

/-- Whether an engine operation that fails at element k has written an element above k: by operation and element
(06 R117; DESIGN CHOICE, log 10). -/
opaque landed : Nat → Nat → Bool

/-- Whether element k of an engine operation, where its source meets what the operation itself writes, is read as it wrote it, or as
it stood before: by operation and element (06 R131; DESIGN CHOICE, log 10). -/
opaque ownSeen : Nat → Nat → Bool

/-- Byte i of the device identity public key (25 R379; PRESUMED, log 12). -/
opaque identityKey : Nat → Byte

/-- The identity key's signature over a message (25 R379; PRESUMED, log 12). -/
opaque identitySign : List Byte → List Byte

/-- Byte i of the vendor's signature over the identity key (25 R379; PRESUMED, log 12). -/
opaque vendorSignature : Nat → Byte

/-- A value that the spec leaves unstated: by case and operands. Case 1: `floor` and `ceil` of a binary8 element whose
integral value the format cannot hold (09 R181; DESIGN CHOICE, log 16). -/
opaque freeElement : Nat → Nat → Nat → Nat

/-- The frame that the device gives a page that is to move, by a number and the page; none when it has none to give (04
R73, 06 R122; DESIGN CHOICE, log 22). -/
opaque migrationFrame : Nat → Nat → Option Nat

/-- The controller image that the part was made with, and the Admiral's base program (25 R378, R379; PRESUMED, log 12). -/
opaque controllerImage : List Byte
opaque admiralProgram : List Byte

/-- Whether a translation at a step still uses the old value of a table entry that the host has changed and not yet
invalidated: by step and entry address (04 R70; DESIGN CHOICE, log 27). -/
opaque keepsOld : Nat → Nat → Bool

/-- The digest of the image key that is fused into the part (25 R378; DESIGN CHOICE, log 12). -/
opaque fusedDigest : List Byte

/-- The step from which a reader (a group or an engine operation) observes a write of another that nothing orders before it: by the
write's age, the reader, and the place of an item that it reads apart from its others (24 R363, 17 R319; DESIGN CHOICE, log 4). -/
opaque observedFrom : Nat → Nat → Nat → Nat

/-- The step from which every reader observes a write, by its age: a write takes its place within a finite time (17 R319, 24
R363; DESIGN CHOICE, log 4). -/
opaque observedBy : Nat → Nat

/-- Whether a store goes before an earlier one that its group does not observe, in the order of writes: by step and the earlier
one's age (13 R262, 24 R363; DESIGN CHOICE, log 4). -/
opaque goesBefore : Nat → Nat → Bool

/-- The key and the signature that a controller image carries, and whether a signature of an image by a key verifies (25
R378; DESIGN CHOICE, log 12). -/
opaque imageKey : List Byte → List Byte
opaque imageSignature : List Byte → List Byte
opaque signatureOk : List Byte → List Byte → List Byte → Bool

/-- The package's own virtual route identifier in a context, by which a member list names it (13 R266; DESIGN CHOICE, log 23). -/
opaque routeId : Nat → BitVec 32

end Sys2Proof.Config
end

