-- ==== Sys2Proof/Syntax.lean ====
section
/-! DEFINITION. The instruction syntax of the Z940: operand fields (03 R51) and `Instr`, one constructor for each row of
spec/opcode_table.json. A row that has a word (03 R46 to R49) carries the fields of that word; a row without a word is a
step of the device, and carries what the environment or the schedule chooses in it. -/

namespace Sys2Proof

/-- An 8-bit register operand field (03 R51). -/
inductive Opnd where
  | v (n : Fin 192)    -- 0x00 to 0xBF
  | s (n : Fin 56)     -- 0xC0 to 0xF7
  | rsv (n : Fin 4)    -- 0xF8 to 0xFB, reserved
  | na                 -- 0xFC
  | b (n : Fin 3)      -- 0xFD to 0xFF
  deriving DecidableEq, Repr

/-- The field code of an operand (03 R51). -/
def Opnd.code : Opnd → BitVec 8
  | .v n => BitVec.ofNat 8 n.val
  | .s n => BitVec.ofNat 8 (0xC0 + n.val)
  | .rsv n => BitVec.ofNat 8 (0xF8 + n.val)
  | .na => 0xFC
  | .b n => BitVec.ofNat 8 (0xFD + n.val)

/-- Where an uncorrectable error arises (21 R361, 25 R382): in logic that works for contexts, in the part of memory at a
physical address, in the part of a team's memory at an offset, in a lane element of a register of a group by field code, or
in a structure of a die that contexts share: the packet queue, the fault buffer, and the queues of the Skipper, the task scheduler,
Luna, the index unit and the copy engines. -/
inductive ErrorPlace where
  | logic (contexts : List Nat)
  | phys (a : Nat)
  | team (t off : Nat)
  | reg (group code lane : Nat)
  | packets (die : Nat)
  | buffer (die : Nat)
  | items (die : Nat)
  | tasks (die : Nat)
  | luna (die : Nat)
  | index (die : Nat)
  | copies (die : Nat)
  deriving DecidableEq, Repr

/-- The end of a reform: its operation, and the peers' lists in the new rank order (13 R271). -/
structure ReformEnd where
  op : Nat
  peers : List (List (BitVec 8))
  deriving DecidableEq, Repr

/-- The routing of a die's batch, with the place in the Admiral's memory where a program's scores stand (18 R337, 25 R380). -/
structure BatchTurn where
  die : Nat
  place : Nat
  deriving DecidableEq, Repr

/-- A flit sent again over a link, and whether it arrived (13 R264). -/
structure FlitResend where
  link : Nat
  ok : Bool
  deriving DecidableEq, Repr

/-- The instructions: the 180 words and the 87 steps without a word, those without a field last. -/
inductive Instr where
  /-- ADD (R171). -/
  | add (e : Bool) (t : Bool) (d : Opnd) (a : Opnd) (b : Opnd)
  /-- SUB (R171). -/
  | sub (e : Bool) (t : Bool) (d : Opnd) (a : Opnd) (b : Opnd)
  /-- MUL (R171). -/
  | mul (e : Bool) (t : Bool) (d : Opnd) (a : Opnd) (b : Opnd)
  /-- FMA (R173). -/
  | fma (e : Bool) (t : Bool) (d : Opnd) (a : Opnd) (b : Opnd)
  /-- FMS (R173). -/
  | fms (e : Bool) (t : Bool) (d : Opnd) (a : Opnd) (b : Opnd)
  /-- MIN (R172). -/
  | min (e : Bool) (t : Bool) (d : Opnd) (a : Opnd) (b : Opnd)
  /-- MAX (R172). -/
  | max (e : Bool) (t : Bool) (d : Opnd) (a : Opnd) (b : Opnd)
  /-- DIV (R171). -/
  | div (e : Bool) (t : Bool) (d : Opnd) (a : Opnd) (b : Opnd)
  /-- AND (R175). -/
  | and (e : Bool) (t : Bool) (d : Opnd) (a : Opnd) (b : Opnd)
  /-- OR (R175). -/
  | or (e : Bool) (t : Bool) (d : Opnd) (a : Opnd) (b : Opnd)
  /-- XOR (R175). -/
  | xor (e : Bool) (t : Bool) (d : Opnd) (a : Opnd) (b : Opnd)
  /-- SHL (R175). -/
  | shl (e : Bool) (t : Bool) (d : Opnd) (a : Opnd) (b : Opnd)
  /-- SHR (R175). -/
  | shr (e : Bool) (t : Bool) (d : Opnd) (a : Opnd) (b : Opnd)
  /-- SAR (R175). -/
  | sar (e : Bool) (t : Bool) (d : Opnd) (a : Opnd) (b : Opnd)
  /-- COAL (R183). -/
  | coal (e : Bool) (t : Bool) (d : Opnd) (a : Opnd) (b : Opnd)
  /-- CMP (R185). -/
  | cmp (e : Bool) (r : BitVec 5) (q : BitVec 3) (a : Opnd) (b : Opnd)
  /-- SEL (R186). -/
  | sel (e : Bool) (t : Bool) (d : Opnd) (a : Opnd) (b : Opnd)
  /-- MULHI (R174). -/
  | mulhi (e : Bool) (t : Bool) (d : Opnd) (a : Opnd) (b : Opnd)
  /-- DOT (R195). -/
  | dot (e : Bool) (d : Opnd) (a : Opnd) (b : Opnd)
  /-- LRD (R193). -/
  | lrd (e : Bool) (t : Bool) (d : Opnd) (a : Opnd) (b : Opnd)
  /-- LD (R142). -/
  | ld (e : Bool) (t : Bool) (d : Opnd) (a : Opnd) (b : Opnd)
  /-- ST (R142). -/
  | st (e : Bool) (d : Opnd) (a : Opnd) (b : Opnd)
  /-- LDFE (R144). -/
  | ldfe (d : Opnd) (a : Opnd) (c : BitVec 1)
  /-- STFE (R143). -/
  | stfe (e : Bool) (d : Opnd) (a : Opnd) (b : Opnd)
  /-- LDO (R253). -/
  | ldo (e : Bool) (t : Bool) (d : Opnd) (a : Opnd) (o : BitVec 2) (m : BitVec 6)
  /-- STO (R253). -/
  | sto (e : Bool) (d : Opnd) (a : Opnd) (o : BitVec 2) (m : BitVec 6)
  /-- LI (R176). -/
  | li (e : Bool) (t : Bool) (d : Opnd) (i : BitVec 16)
  /-- LIH (R176). -/
  | lih (e : Bool) (t : Bool) (d : Opnd) (i : BitVec 16)
  /-- ADDI (R176). -/
  | addi (e : Bool) (t : Bool) (d : Opnd) (i : BitVec 16)
  /-- MODE (R57). -/
  | mode (e : Bool) (p : BitVec 25)
  /-- CVT (R177). -/
  | cvt (e : Bool) (t : Bool) (d : Opnd) (a : Opnd) (f : BitVec 8)
  /-- FENCE (R261). -/
  | fence (e : Bool) (o : BitVec 2) (m : BitVec 6)
  /-- BRA (R280). -/
  | bra (e : Bool) (c : BitVec 4) (q : BitVec 3) (x : BitVec 17)
  /-- CALL (R281). -/
  | call (e : Bool) (x : BitVec 24)
  /-- IFT (R277). -/
  | ift (e : Bool) (q : BitVec 3) (s : BitVec 2) (x : BitVec 19)
  /-- ELS (R278). -/
  | els (e : Bool) (x : BitVec 19)
  /-- UARM (R278). -/
  | uarm (e : Bool) (x : BitVec 19)
  /-- ENDIF (R278). -/
  | endif (e : Bool)
  /-- JMP (R281). -/
  | jmp (e : Bool) (a : Opnd)
  /-- EXIT (R282). -/
  | exit (e : Bool)
  /-- AADD (R253). -/
  | aadd (e : Bool) (t : Bool) (d : Opnd) (a : Opnd) (o : BitVec 2) (m : BitVec 6)
  /-- AMIN (R253). -/
  | amin (e : Bool) (t : Bool) (d : Opnd) (a : Opnd) (o : BitVec 2) (m : BitVec 6)
  /-- AMAX (R253). -/
  | amax (e : Bool) (t : Bool) (d : Opnd) (a : Opnd) (o : BitVec 2) (m : BitVec 6)
  /-- AAND (R253). -/
  | aand (e : Bool) (t : Bool) (d : Opnd) (a : Opnd) (o : BitVec 2) (m : BitVec 6)
  /-- AOR (R253). -/
  | aor (e : Bool) (t : Bool) (d : Opnd) (a : Opnd) (o : BitVec 2) (m : BitVec 6)
  /-- AXCH (R253). -/
  | axch (e : Bool) (t : Bool) (d : Opnd) (a : Opnd) (o : BitVec 2) (m : BitVec 6)
  /-- ACAS (R253). -/
  | acas (e : Bool) (t : Bool) (d : Opnd) (a : Opnd) (o : BitVec 2) (m : BitVec 6)
  /-- AXOR (R253). -/
  | axor (e : Bool) (t : Bool) (d : Opnd) (a : Opnd) (o : BitVec 2) (m : BitVec 6)
  /-- COPY_IN (R114). -/
  | copyIn (e : Bool) (d : BitVec 4) (s : BitVec 4) (l : BitVec 3)
  /-- COPY_OUT (R114). -/
  | copyOut (e : Bool) (d : BitVec 4) (s : BitVec 4) (l : BitVec 3)
  /-- COPY_OUTZ (R123). -/
  | copyOutz (e : Bool) (d : BitVec 4) (s : BitVec 4) (l : BitVec 3)
  /-- COPY_NN (R114). -/
  | copyNn (e : Bool) (d : BitVec 4) (s : BitVec 4) (l : BitVec 3)
  /-- COPY_RD_ADD (R120). -/
  | copyRdAdd (e : Bool) (d : BitVec 4) (s : BitVec 4) (l : BitVec 3)
  /-- COPY_RD_MIN (R120). -/
  | copyRdMin (e : Bool) (d : BitVec 4) (s : BitVec 4) (l : BitVec 3)
  /-- COPY_RD_MAX (R120). -/
  | copyRdMax (e : Bool) (d : BitVec 4) (s : BitVec 4) (l : BitVec 3)
  /-- COPY_GTH (R119). -/
  | copyGth (e : Bool) (d : BitVec 4) (s : BitVec 4) (l : BitVec 3) (n : BitVec 5)
  /-- COPY_SCT (R119). -/
  | copySct (e : Bool) (d : BitVec 4) (s : BitVec 4) (l : BitVec 3) (n : BitVec 5)
  /-- COPY_BLK (R119). -/
  | copyBlk (e : Bool) (d : BitVec 4) (s : BitVec 4) (l : BitVec 3) (n : BitVec 5)
  /-- COPY_DNS (R121). -/
  | copyDns (e : Bool) (d : BitVec 4) (s : BitVec 4) (l : BitVec 3)
  /-- COPY_MIG (R122). -/
  | copyMig (e : Bool) (s : BitVec 4) (l : BitVec 3) (n : BitVec 5)
  /-- FETCH (R125). -/
  | fetch (e : Bool) (d : BitVec 4) (s : BitVec 4) (l : BitVec 3) (n : BitVec 5)
  /-- FETCH_LST (R125). -/
  | fetchLst (e : Bool) (d : BitVec 4) (s : BitVec 4) (l : BitVec 3) (n : BitVec 5)
  /-- TLBIND (R129). -/
  | tlbind (d : Opnd) (l : BitVec 3) (n : BitVec 5)
  /-- TLWAIT (R129). -/
  | tlwait (l : BitVec 3) (n : BitVec 5)
  /-- TLREAD (R130). -/
  | tlread (e : Bool) (d : Opnd) (l : BitVec 3)
  /-- RED_ADD (R195). -/
  | redAdd (e : Bool) (d : Opnd) (a : Opnd)
  /-- RED_MIN (R195). -/
  | redMin (e : Bool) (d : Opnd) (a : Opnd)
  /-- RED_MAX (R195). -/
  | redMax (e : Bool) (d : Opnd) (a : Opnd)
  /-- RED_AND (R195). -/
  | redAnd (e : Bool) (d : Opnd) (a : Opnd)
  /-- RED_OR (R195). -/
  | redOr (e : Bool) (d : Opnd) (a : Opnd)
  /-- RED_CNT (R196). -/
  | redCnt (e : Bool) (d : Opnd) (a : Opnd)
  /-- SCAN_ADD (R197). -/
  | scanAdd (e : Bool) (t : Bool) (d : Opnd) (a : Opnd)
  /-- SCAN_ADDX (R197). -/
  | scanAddx (e : Bool) (t : Bool) (d : Opnd) (a : Opnd)
  /-- SCAN_MAX (R197). -/
  | scanMax (e : Bool) (t : Bool) (d : Opnd) (a : Opnd)
  /-- MATCH (R199). -/
  | matchLanes (e : Bool) (d : Opnd) (a : Opnd)
  /-- VOTE_T (R200). -/
  | voteT (e : Bool) (t : Bool) (d : Opnd) (q : BitVec 3)
  /-- VOTE_F (R200). -/
  | voteF (e : Bool) (t : Bool) (d : Opnd) (q : BitVec 3)
  /-- VOTE_U (R200). -/
  | voteU (e : Bool) (t : Bool) (d : Opnd) (q : BitVec 3)
  /-- LIDX (R194). -/
  | lidx (e : Bool) (t : Bool) (d : Opnd)
  /-- BCAST (R194). -/
  | bcast (e : Bool) (t : Bool) (d : Opnd) (a : Opnd) (L : BitVec 6)
  /-- MOV (R179). -/
  | mov (e : Bool) (t : Bool) (d : Opnd) (a : Opnd)
  /-- NEG (R179). -/
  | neg (e : Bool) (t : Bool) (d : Opnd) (a : Opnd)
  /-- ABS (R179). -/
  | abs (e : Bool) (t : Bool) (d : Opnd) (a : Opnd)
  /-- ISNA (R184). -/
  | isna (e : Bool) (d : BitVec 3) (a : Opnd)
  /-- MKNA (R184). -/
  | mkna (e : Bool) (t : Bool) (d : Opnd) (a : Opnd)
  /-- SQRT (R180). -/
  | sqrt (e : Bool) (t : Bool) (d : Opnd) (a : Opnd)
  /-- RSQRT (R180). -/
  | rsqrt (e : Bool) (t : Bool) (d : Opnd) (a : Opnd)
  /-- RECIP (R180). -/
  | recip (e : Bool) (t : Bool) (d : Opnd) (a : Opnd)
  /-- EXP2 (R180). -/
  | exp2 (e : Bool) (t : Bool) (d : Opnd) (a : Opnd)
  /-- LOG2 (R180). -/
  | log2 (e : Bool) (t : Bool) (d : Opnd) (a : Opnd)
  /-- SIN (R180). -/
  | sin (e : Bool) (t : Bool) (d : Opnd) (a : Opnd)
  /-- COS (R180). -/
  | cos (e : Bool) (t : Bool) (d : Opnd) (a : Opnd)
  /-- TANH (R180). -/
  | tanh (e : Bool) (t : Bool) (d : Opnd) (a : Opnd)
  /-- SIGM (R180). -/
  | sigm (e : Bool) (t : Bool) (d : Opnd) (a : Opnd)
  /-- FLOOR (R181). -/
  | floor (e : Bool) (t : Bool) (d : Opnd) (a : Opnd)
  /-- CEIL (R181). -/
  | ceil (e : Bool) (t : Bool) (d : Opnd) (a : Opnd)
  /-- TRUNC (R181). -/
  | trunc (e : Bool) (t : Bool) (d : Opnd) (a : Opnd)
  /-- RINT (R181). -/
  | rint (e : Bool) (t : Bool) (d : Opnd) (a : Opnd)
  /-- FRAC (R181). -/
  | frac (e : Bool) (t : Bool) (d : Opnd) (a : Opnd)
  /-- POPC (R182). -/
  | popc (e : Bool) (t : Bool) (d : Opnd) (a : Opnd)
  /-- CLZ (R182). -/
  | clz (e : Bool) (t : Bool) (d : Opnd) (a : Opnd)
  /-- NOT (R182). -/
  | not (e : Bool) (t : Bool) (d : Opnd) (a : Opnd)
  /-- SLOTC (R212). -/
  | slotc (s : BitVec 4) (l : BitVec 2) (f : BitVec 1) (a : BitVec 8)
  /-- SLOTR (R212). -/
  | slotr (e : Bool) (s : BitVec 4)
  /-- SLOTW (R213). -/
  | slotw (e : Bool) (s : BitVec 4) (a : Opnd)
  /-- SLOTL (R214). -/
  | slotl (e : Bool) (s : BitVec 4) (h : BitVec 4) (a : Opnd)
  /-- SLOTT (R214). -/
  | slott (e : Bool) (s : BitVec 4) (h : BitVec 4) (a : Opnd)
  /-- PRUNE (R220). -/
  | prune (e : Bool) (d : BitVec 4) (s : BitVec 4) (p : BitVec 3)
  /-- ACCZ (R219). -/
  | accz (e : Bool) (f : BitVec 1) (k : BitVec 1) (z : BitVec 2)
  /-- MMA_S (R217). -/
  | mmaS (e : Bool) (a : BitVec 4) (b : BitVec 4) (z : BitVec 2)
  /-- MMA_X (R217). -/
  | mmaX (e : Bool) (a : BitVec 4) (b : BitVec 4) (z : BitVec 2)
  /-- MMA_SP (R221). -/
  | mmaSp (e : Bool) (a : BitVec 4) (b : BitVec 4) (x : BitVec 1) (z : BitVec 2)
  /-- MMAV (R222). -/
  | mmav (e : Bool) (v : BitVec 4) (w : BitVec 4) (l : BitVec 3) (c : BitVec 3) (x : BitVec 1) (z : BitVec 2)
  /-- ACCR (R223). -/
  | accr (e : Bool) (t : Bool) (d : Opnd) (a : Opnd) (z : BitVec 2)
  /-- ACCW (R224). -/
  | accw (e : Bool) (d : Opnd) (a : Opnd) (z : BitVec 2)
  /-- TOPK_R (R323). -/
  | topkR (e : Bool) (i : BitVec 4) (s : BitVec 4) (l : BitVec 3) (n : BitVec 5)
  /-- TOPK_C (R323). -/
  | topkC (e : Bool) (i : BitVec 4) (s : BitVec 4) (l : BitVec 3) (n : BitVec 5)
  /-- RQPUSH (R330). -/
  | rqpush (e : Bool) (d : Opnd) (a : Opnd) (r : BitVec 3)
  /-- RQWAIT (R338). -/
  | rqwait (t : Bool) (d : Opnd) (a : Opnd) (r : BitVec 3)
  /-- SPLD (R102). -/
  | spld (e : Bool) (t : Bool) (d : Opnd) (a : Opnd) (h : BitVec 3)
  /-- SPST (R103). -/
  | spst (e : Bool) (d : Opnd) (a : Opnd) (h : BitVec 3)
  /-- SPADD (R104). -/
  | spadd (e : Bool) (d : Opnd) (a : Opnd) (h : BitVec 3)
  /-- SPIT (R105). -/
  | spit (e : Bool) (d : Opnd) (a : Opnd) (h : BitVec 3)
  /-- SPCNT (R106). -/
  | spcnt (e : Bool) (d : Opnd) (h : BitVec 3)
  /-- SPGROW (R107). -/
  | spgrow (e : Bool) (t : Bool) (d : Opnd) (a : Opnd) (h : BitVec 3)
  /-- TNEW (R235). -/
  | tnew (e : Bool) (t : Bool) (d : Opnd) (r : BitVec 3)
  /-- TDESC (R238). -/
  | tdesc (e : Bool) (t : Bool) (d : Opnd) (r : BitVec 3)
  /-- TEXP (R239). -/
  | texp (e : Bool) (t : Bool) (d : Opnd) (a : Opnd) (r : BitVec 3)
  /-- TBACK (R240). -/
  | tback (e : Bool) (d : Opnd) (l : BitVec 3) (r : BitVec 3)
  /-- TREUSE (R241). -/
  | treuse (e : Bool) (l : BitVec 3) (a : Opnd) (r : BitVec 3)
  /-- TRD (R242). -/
  | trd (e : Bool) (d : Opnd) (a : Opnd) (r : BitVec 3)
  /-- TGROW (R236). -/
  | tgrow (e : Bool) (t : Bool) (d : Opnd) (a : Opnd) (r : BitVec 3)
  /-- BAR (R311). -/
  | bar (a : Opnd)
  /-- BAR_ARR (R311). -/
  | barArr (e : Bool) (t : Bool) (d : Opnd) (a : Opnd)
  /-- BAR_WT (R311). -/
  | barWt (a : Opnd)
  /-- GBAR (R312). -/
  | gbar (d : Opnd)
  /-- WFE_FULL (R145). -/
  | wfeFull (a : Opnd)
  /-- WFE_EMPTY (R145). -/
  | wfeEmpty (a : Opnd)
  /-- COLL_AR_ADD (R267). -/
  | collArAdd (e : Bool) (d : BitVec 4) (s : BitVec 4) (l : BitVec 3) (n : BitVec 5)
  /-- COLL_AR_MIN (R267). -/
  | collArMin (e : Bool) (d : BitVec 4) (s : BitVec 4) (l : BitVec 3) (n : BitVec 5)
  /-- COLL_AR_MAX (R267). -/
  | collArMax (e : Bool) (d : BitVec 4) (s : BitVec 4) (l : BitVec 3) (n : BitVec 5)
  /-- COLL_RS_ADD (R267). -/
  | collRsAdd (e : Bool) (d : BitVec 4) (s : BitVec 4) (l : BitVec 3) (n : BitVec 5)
  /-- COLL_RS_MIN (R267). -/
  | collRsMin (e : Bool) (d : BitVec 4) (s : BitVec 4) (l : BitVec 3) (n : BitVec 5)
  /-- COLL_RS_MAX (R267). -/
  | collRsMax (e : Bool) (d : BitVec 4) (s : BitVec 4) (l : BitVec 3) (n : BitVec 5)
  /-- COLL_AG (R267). -/
  | collAg (e : Bool) (d : BitVec 4) (s : BitVec 4) (l : BitVec 3) (n : BitVec 5)
  /-- COLL_A2A (R267). -/
  | collA2a (e : Bool) (d : BitVec 4) (s : BitVec 4) (l : BitVec 3) (n : BitVec 5)
  /-- PSET_REFORM (R271). -/
  | psetReform (e : Bool) (l : BitVec 3) (n : BitVec 5)
  /-- PSET_STATUS (R272). -/
  | psetStatus (e : Bool) (t : Bool) (d : Opnd) (a : Opnd)
  /-- XACQ (R155). -/
  | xacq (u : BitVec 2)
  /-- XREL (R155). -/
  | xrel (e : Bool) (u : BitVec 2)
  /-- RTAG (R158). -/
  | rtag (e : Bool) (d : Opnd) (c : BitVec 3)
  /-- RDROP (R156). -/
  | rdrop (e : Bool) (d : Opnd)
  /-- RFREE (R157). -/
  | rfree (e : Bool) (d : Opnd)
  /-- SEAL (R162). -/
  | sealRange (e : Bool) (t : Bool) (d : Opnd) (a : Opnd)
  /-- UNSEAL (R162). -/
  | unsealRange (e : Bool) (a : Opnd)
  /-- LAUNCH (R302). -/
  | launch (e : Bool) (l : BitVec 3) (a : Opnd)
  /-- ITEM (R304). -/
  | item (e : Bool) (d : Opnd) (a : Opnd)
  /-- TASK (R307). -/
  | task (e : Bool) (t : Bool) (d : Opnd) (a : Opnd)
  /-- DEP_DEC (R308). -/
  | depDec (e : Bool) (d : Opnd) (a : Opnd)
  /-- GID (R317). -/
  | gid (e : Bool) (t : Bool) (d : Opnd) (s : BitVec 4)
  /-- SPLIT (R288). -/
  | split (d : Opnd)
  /-- SHLD (R86). -/
  | shld (e : Bool) (h : BitVec 4) (a : Opnd)
  /-- SHST (R86). -/
  | shst (e : Bool) (h : BitVec 4) (a : Opnd)
  /-- SHSET (R86). -/
  | shset (e : Bool) (k : BitVec 4) (h : BitVec 4) (a : Opnd)
  /-- QAND (R188). -/
  | qand (e : Bool) (d : BitVec 3) (b : BitVec 3) (a : BitVec 3)
  /-- QOR (R188). -/
  | qor (e : Bool) (d : BitVec 3) (b : BitVec 3) (a : BitVec 3)
  /-- QNOT (R188). -/
  | qnot (e : Bool) (d : BitVec 3) (a : BitVec 3)
  /-- QIS_T (R188). -/
  | qisT (e : Bool) (d : BitVec 3) (a : BitVec 3)
  /-- QIS_U (R188). -/
  | qisU (e : Bool) (d : BitVec 3) (a : BitVec 3)
  /-- QIS_F (R188). -/
  | qisF (e : Bool) (d : BitVec 3) (a : BitVec 3)
  /-- QMOV (R188). -/
  | qmov (e : Bool) (d : BitVec 3) (a : BitVec 3)
  /-- NOP (R348). -/
  | nop (e : Bool)
  /-- TRAP (R348). -/
  | trap (e : Bool) (c : BitVec 8)
  /-- CSRR (R374). -/
  | csrr (e : Bool) (t : Bool) (d : Opnd) (a : BitVec 8)
  /-- CSRW (R374). -/
  | csrw (e : Bool) (d : BitVec 8) (a : Opnd)
  /-- SNAP (R375). -/
  | snap (e : Bool)
  /-- CREATE_CONTEXT (R370). -/
  | createContext (num : BitVec 16) (scratch spill : List Nat)
  /-- RE_PROVISION (R378). -/
  | reProvision (verified : Bool)
  /-- DOORBELL (R369). -/
  | doorbell (queue : Nat) (tail : BitVec 32)
  /-- APERTURE_BASE_WRITE (R368). -/
  | apertureBaseWrite (value : BitVec 64)
  /-- SNAPSHOT_TRIGGER (R376). -/
  | snapshotTrigger (value : BitVec 32)
  /-- REGISTER_WRITE (R367). -/
  | registerWrite (offset : Nat) (value : BitVec 64)
  /-- HOST_BAR2_READ (R368). -/
  | hostBar2Read (offset count : Nat)
  /-- HOST_BAR2_WRITE (R368). -/
  | hostBar2Write (offset : Nat) (bytes : List (BitVec 8))
  /-- IMAGE_VERIFIED (R378). -/
  | imageVerified (verified : Bool)
  /-- LAUNCH_RECORD_DISPATCH (R293). -/
  | launchRecordDispatch (queue : Nat)
  /-- TEAM_PLACEMENT (R295). -/
  | teamPlacement (core : Nat)
  /-- GANG_PLACEMENT (R296). -/
  | gangPlacement (grid : Nat)
  /-- GANG_LAUNCH_COMMIT (R297). -/
  | gangLaunchCommit (grid : Nat)
  /-- GANG_LAUNCH_ABORT (R297). -/
  | gangLaunchAbort (grid : Nat)
  /-- TASK_PLACEMENT (R309). -/
  | taskPlacement (core : Nat)
  /-- ITEM_GROUP_FORM (R305). -/
  | itemGroupForm (die queue : Nat)
  /-- ITEM_WAIT_EXPIRY (R305). -/
  | itemWaitExpiry (die queue : Nat)
  /-- ITEM_GROUP_PLACEMENT (R305). -/
  | itemGroupPlacement (core : Nat)
  /-- TEAM_RESUME (R360). -/
  | teamResume (team core : Nat)
  /-- GRID_RETIREMENT (R298). -/
  | gridRetirement (grid : Nat)
  /-- TEAM_FREE (R355). -/
  | teamFree (team : Nat)
  /-- ISSUE_ARBITRATION (R315). -/
  | issueArbitration (core slot : Nat)
  /-- ISSUE_AGING (R315). -/
  | issueAging (group : Nat)
  /-- FAULT_BUFFER_GRANT (R72). -/
  | faultBufferGrant (die : Nat)
  /-- TIMELINE_WAIT_END (R129). -/
  | timelineWaitEnd (group : Nat)
  /-- TIMELINE_LIMIT_EXPIRY (R129). -/
  | timelineLimitExpiry (group : Nat)
  /-- WAIT_LIMIT_EXPIRY (R146). -/
  | waitLimitExpiry (group : Nat)
  /-- FULL_EMPTY_WAKE (R144). -/
  | fullEmptyWake (group : Nat)
  /-- FRAME_GRANT (R151). -/
  | frameGrant (core : Nat)
  /-- REGISTER_STARVATION (R166). -/
  | registerStarvation (core : Nat)
  /-- SLOT_CLAIM_GRANT (R212). -/
  | slotClaimGrant (core : Nat)
  /-- TASK_TABLE_ROOM (R307). -/
  | taskTableRoom (group : Nat)
  /-- ITEM_QUEUE_ROOM (R304). -/
  | itemQueueRoom (group : Nat)
  /-- PACKET_QUEUE_ROOM (R330). -/
  | packetQueueRoom (group : Nat)
  /-- BATCH_WAIT_END (R338). -/
  | batchWaitEnd (group : Nat)
  /-- RELEASE_WAIT_END (R259). -/
  | releaseWaitEnd (group : Nat)
  /-- BARRIER_PHASE_COMPLETE (R311). -/
  | barrierPhaseComplete (team barrier : Nat)
  /-- GBAR_COMPLETE (R312). -/
  | gbarComplete (grid : Nat)
  /-- FUSE_RENDEZVOUS (R287). -/
  | fuseRendezvous (group : Nat)
  /-- COPY_OPERATION_COMPLETE (R127). -/
  | copyOperationComplete (op : Nat)
  /-- FETCH_OPERATION_COMPLETE (R125). -/
  | fetchOperationComplete (op : Nat)
  /-- SELECT_OPERATION_COMPLETE (R323). -/
  | selectOperationComplete (op : Nat)
  /-- MMAV_COMPLETE (R222). -/
  | mmavComplete (op : Nat)
  /-- LUNA_OPERATION_COMPLETE (R240). -/
  | lunaOperationComplete (op : Nat)
  /-- ENGINE_OPERATION_FAULT (R117). -/
  | engineOperationFault (op : Nat) (cause : BitVec 8) (element : BitVec 64)
  /-- COLLECTIVE_COMPLETE (R269). -/
  | collectiveComplete (op : Nat) (peers : List (List (BitVec 8)))
  /-- PSET_REFORM_COMPLETE (R271). -/
  | psetReformComplete (reform : ReformEnd)
  /-- PEER_MEMBER_LOSS (R269). -/
  | peerMemberLoss (context set rank : Nat)
  /-- ADMIRAL_PACKET (R331). -/
  | admiralPacket (die : Nat)
  /-- BATCH_ROUTING (R337). -/
  | batchRouting (batch : BatchTurn)
  /-- ROUTING_PROGRAM_TIMEOUT (R380). -/
  | routingProgramTimeout (die : Nat)
  /-- TRAP_ENTRY (R343). -/
  | trapEntry (group : Nat)
  /-- FAULT_ESCALATION (R354). -/
  | faultEscalation (group : Nat)
  /-- CHRYSALIS_SAVE (R357). -/
  | chrysalisSave (team : Nat)
  /-- MIGRATION_COMPLETE (R70). -/
  | migrationComplete (page : Nat)
  /-- LOGIC_SOFT_ERROR (R382). -/
  | logicSoftError (place : ErrorPlace)
  /-- FLIT_RETRY (R264). -/
  | flitRetry (retry : FlitResend)
  /-- LINK_OUT_OF_SERVICE (R264). -/
  | linkOutOfService (link : Nat)
  /-- LINK_RECALIBRATION (R381). -/
  | linkRecalibration (link : Nat)
  /-- HOP_TIMEOUT (R265). -/
  | hopTimeout (transaction : Nat)
  /-- TRANSACTION_TIMEOUT (R265). -/
  | transactionTimeout (op : Nat)
  /-- VOLTAGE_DROOP (R381). -/
  | voltageDroop (core : Nat)
  /-- POWER_LIMIT (R383). -/
  | powerLimit (core : Nat)
  /-- THERMAL_STRETCH (R383). -/
  | thermalStretch (core : Nat)
  /-- ISSUED_WORD_FINISHED (R152). -/
  | issuedWordFinished (group : Nat)
  /-- MATRIX_OPERATION_COMPLETE (R209). -/
  | matrixOperationComplete (core : Nat)
  /-- SPARSE_OPERATION_ANSWER (R98). -/
  | sparseOperationAnswer (group : Nat)
  /-- LUNA_ANSWER (R247). -/
  | lunaAnswer (group : Nat)
  /-- LINK_RETURN_TO_SERVICE (R264). -/
  | linkReturnToService (link : Nat)
  /-- YIELD (R316). -/
  | yield
  /-- FUSE (R287). -/
  | fuse
  /-- RTH (R349). -/
  | rth
  /-- KILL (R353). -/
  | kill
  /-- DESTROY_CONTEXT (R370). -/
  | destroyContext
  /-- INVALIDATE (R70). -/
  | invalidate
  /-- PAGE_ANSWER (R71). -/
  | pageAnswer
  /-- PRE_EMPT (R357). -/
  | preEmpt
  /-- RETURN_CORES (R370). -/
  | returnCores
  /-- DEFINE_PEER_SET (R266). -/
  | definePeerSet
  /-- KILL_GRID (R370). -/
  | killGrid
  /-- LOAD_ROUTING_PROGRAM (R380). -/
  | loadRoutingProgram
  /-- CONFIGURE_QUEUE (R369). -/
  | configureQueue
  /-- EPOCH_LENGTH (R381). -/
  | epochLength
  /-- RELEASE_SNAPSHOT (R376). -/
  | releaseSnapshot
  /-- ATTEST (R379). -/
  | attest
  /-- SET_FULL_EMPTY (R139). -/
  | setFullEmpty
  /-- DEVICE_RESET (R370). -/
  | deviceReset
  /-- EPOCH_END (R73). -/
  | epochEnd
  /-- PATROL_SCRUB (R381). -/
  | patrolScrub
  /-- TELEMETRY_TICK (R381). -/
  | telemetryTick
  /-- THERMAL_SHUTDOWN (R383). -/
  | thermalShutdown
  deriving DecidableEq, Repr

end Sys2Proof
end

