-- ==== Sys2Proof/WellFormed.lean ====
section
/-! DEFINITION. Well-formed instructions: the legality of a word's fields that needs no state (03 R50, R51, R63 and the
tables of the instructions' own rules). A word that fails raises 0x01 when it is issued. `Instr.form` says of each word
what its register operand fields are. -/

namespace Sys2Proof

/-- How an instruction uses a register operand field. -/
inductive Role where
  | src     -- a source: any register, `na` or a latch
  | sreg    -- a scalar register
  | vsrc    -- a vector register, or a latch
  | dst     -- a destination register
  | sdst    -- a scalar destination
  | vdst    -- a vector destination
  | rw      -- a destination that is also read
  | reg     -- a vector or scalar register that is read
  | ext     -- a register of an extended unit, v64 to v191
  deriving DecidableEq, Repr

/-- The operand may stand in a field of the role. -/
def Role.admits (r : Role) (o : Opnd) : Bool :=
  match o with
  | .rsv _ => false
  | .v n => (match r with | .sreg => false | .sdst => false | .ext => decide (64 ≤ n.val) | _ => true)
  | .s _ => (match r with | .vsrc => false | .vdst => false | .ext => false | _ => true)
  | .na => (match r with | .src => true | _ => false)
  | .b _ => (match r with | .src => true | .vsrc => true | _ => false)

/-- The register operand fields of a word, its `t` bit, and whether it produces a register result (03 R54). -/
structure Form where
  d : Option (Role × Opnd) := none
  a : Option (Role × Opnd) := none
  b : Option (Role × Opnd) := none
  t : Bool := false
  result : Bool := false
  deriving DecidableEq, Repr

/-- The form of each word; a step without a word has none. -/
def Instr.form : Instr → Form
  | .add _ t d a b => { d := some (.dst, d), a := some (.src, a), b := some (.src, b), t := t, result := true }
  | .sub _ t d a b => { d := some (.dst, d), a := some (.src, a), b := some (.src, b), t := t, result := true }
  | .mul _ t d a b => { d := some (.dst, d), a := some (.src, a), b := some (.src, b), t := t, result := true }
  | .fma _ t d a b => { d := some (.rw, d), a := some (.src, a), b := some (.src, b), t := t, result := true }
  | .fms _ t d a b => { d := some (.rw, d), a := some (.src, a), b := some (.src, b), t := t, result := true }
  | .min _ t d a b => { d := some (.dst, d), a := some (.src, a), b := some (.src, b), t := t, result := true }
  | .max _ t d a b => { d := some (.dst, d), a := some (.src, a), b := some (.src, b), t := t, result := true }
  | .div _ t d a b => { d := some (.dst, d), a := some (.src, a), b := some (.src, b), t := t, result := true }
  | .and _ t d a b => { d := some (.dst, d), a := some (.src, a), b := some (.src, b), t := t, result := true }
  | .or _ t d a b => { d := some (.dst, d), a := some (.src, a), b := some (.src, b), t := t, result := true }
  | .xor _ t d a b => { d := some (.dst, d), a := some (.src, a), b := some (.src, b), t := t, result := true }
  | .shl _ t d a b => { d := some (.dst, d), a := some (.src, a), b := some (.src, b), t := t, result := true }
  | .shr _ t d a b => { d := some (.dst, d), a := some (.src, a), b := some (.src, b), t := t, result := true }
  | .sar _ t d a b => { d := some (.dst, d), a := some (.src, a), b := some (.src, b), t := t, result := true }
  | .coal _ t d a b => { d := some (.dst, d), a := some (.src, a), b := some (.src, b), t := t, result := true }
  | .cmp _ _ _ a b => { a := some (.src, a), b := some (.src, b) }
  | .sel _ t d a b => { d := some (.dst, d), a := some (.src, a), b := some (.src, b), t := t, result := true }
  | .mulhi _ t d a b => { d := some (.dst, d), a := some (.src, a), b := some (.src, b), t := t, result := true }
  | .dot _ d a b => { d := some (.sdst, d), a := some (.src, a), b := some (.src, b), result := true }
  | .lrd _ t d a b => { d := some (.dst, d), a := some (.vsrc, a), b := some (.src, b), t := t, result := true }
  | .ld _ t d a b => { d := some (.dst, d), a := some (.src, a), b := some (.src, b), t := t, result := true }
  | .st _ d a b => { d := some (.src, d), a := some (.src, a), b := some (.src, b) }
  | .ldfe d a _ => { d := some (.dst, d), a := some (.src, a), result := true }
  | .stfe _ d a b => { d := some (.src, d), a := some (.src, a), b := some (.src, b) }
  | .ldo _ t d a _ _ => { d := some (.dst, d), a := some (.src, a), t := t, result := true }
  | .sto _ d a _ _ => { d := some (.src, d), a := some (.src, a) }
  | .li _ t d _ => { d := some (.dst, d), t := t, result := true }
  | .lih _ t d _ => { d := some (.rw, d), t := t, result := true }
  | .addi _ t d _ => { d := some (.rw, d), t := t, result := true }
  | .mode _ _ => {}
  | .cvt _ t d a _ => { d := some (.dst, d), a := some (.src, a), t := t, result := true }
  | .fence _ _ _ => {}
  | .bra _ _ _ _ => {}
  | .call _ _ => {}
  | .ift _ _ _ _ => {}
  | .els _ _ => {}
  | .uarm _ _ => {}
  | .endif _ => {}
  | .jmp _ a => { a := some (.src, a) }
  | .exit _ => {}
  | .aadd _ t d a _ _ => { d := some (.rw, d), a := some (.src, a), t := t, result := true }
  | .amin _ t d a _ _ => { d := some (.rw, d), a := some (.src, a), t := t, result := true }
  | .amax _ t d a _ _ => { d := some (.rw, d), a := some (.src, a), t := t, result := true }
  | .aand _ t d a _ _ => { d := some (.rw, d), a := some (.src, a), t := t, result := true }
  | .aor _ t d a _ _ => { d := some (.rw, d), a := some (.src, a), t := t, result := true }
  | .axch _ t d a _ _ => { d := some (.rw, d), a := some (.src, a), t := t, result := true }
  | .acas _ t d a _ _ => { d := some (.rw, d), a := some (.src, a), t := t, result := true }
  | .axor _ t d a _ _ => { d := some (.rw, d), a := some (.src, a), t := t, result := true }
  | .copyIn _ _ _ _ => {}
  | .copyOut _ _ _ _ => {}
  | .copyOutz _ _ _ _ => {}
  | .copyNn _ _ _ _ => {}
  | .copyRdAdd _ _ _ _ => {}
  | .copyRdMin _ _ _ _ => {}
  | .copyRdMax _ _ _ _ => {}
  | .copyGth _ _ _ _ _ => {}
  | .copySct _ _ _ _ _ => {}
  | .copyBlk _ _ _ _ _ => {}
  | .copyDns _ _ _ _ => {}
  | .copyMig _ _ _ _ => {}
  | .fetch _ _ _ _ _ => {}
  | .fetchLst _ _ _ _ _ => {}
  | .tlbind d _ _ => { d := some (.sreg, d) }
  | .tlwait _ _ => {}
  | .tlread _ d _ => { d := some (.sdst, d), result := true }
  | .redAdd _ d a => { d := some (.sdst, d), a := some (.vsrc, a), result := true }
  | .redMin _ d a => { d := some (.sdst, d), a := some (.vsrc, a), result := true }
  | .redMax _ d a => { d := some (.sdst, d), a := some (.vsrc, a), result := true }
  | .redAnd _ d a => { d := some (.sdst, d), a := some (.vsrc, a), result := true }
  | .redOr _ d a => { d := some (.sdst, d), a := some (.vsrc, a), result := true }
  | .redCnt _ d a => { d := some (.sdst, d), a := some (.vsrc, a), result := true }
  | .scanAdd _ t d a => { d := some (.vdst, d), a := some (.vsrc, a), t := t, result := true }
  | .scanAddx _ t d a => { d := some (.vdst, d), a := some (.vsrc, a), t := t, result := true }
  | .scanMax _ t d a => { d := some (.vdst, d), a := some (.vsrc, a), t := t, result := true }
  | .matchLanes _ d a => { d := some (.vdst, d), a := some (.vsrc, a), result := true }
  | .voteT _ t d _ => { d := some (.sdst, d), t := t, result := true }
  | .voteF _ t d _ => { d := some (.sdst, d), t := t, result := true }
  | .voteU _ t d _ => { d := some (.sdst, d), t := t, result := true }
  | .lidx _ t d => { d := some (.vdst, d), t := t, result := true }
  | .bcast _ t d a _ => { d := some (.vdst, d), a := some (.vsrc, a), t := t, result := true }
  | .mov _ t d a => { d := some (.dst, d), a := some (.src, a), t := t, result := true }
  | .neg _ t d a => { d := some (.dst, d), a := some (.src, a), t := t, result := true }
  | .abs _ t d a => { d := some (.dst, d), a := some (.src, a), t := t, result := true }
  | .isna _ _ a => { a := some (.src, a) }
  | .mkna _ t d a => { d := some (.dst, d), a := some (.src, a), t := t, result := true }
  | .sqrt _ t d a => { d := some (.dst, d), a := some (.src, a), t := t, result := true }
  | .rsqrt _ t d a => { d := some (.dst, d), a := some (.src, a), t := t, result := true }
  | .recip _ t d a => { d := some (.dst, d), a := some (.src, a), t := t, result := true }
  | .exp2 _ t d a => { d := some (.dst, d), a := some (.src, a), t := t, result := true }
  | .log2 _ t d a => { d := some (.dst, d), a := some (.src, a), t := t, result := true }
  | .sin _ t d a => { d := some (.dst, d), a := some (.src, a), t := t, result := true }
  | .cos _ t d a => { d := some (.dst, d), a := some (.src, a), t := t, result := true }
  | .tanh _ t d a => { d := some (.dst, d), a := some (.src, a), t := t, result := true }
  | .sigm _ t d a => { d := some (.dst, d), a := some (.src, a), t := t, result := true }
  | .floor _ t d a => { d := some (.dst, d), a := some (.src, a), t := t, result := true }
  | .ceil _ t d a => { d := some (.dst, d), a := some (.src, a), t := t, result := true }
  | .trunc _ t d a => { d := some (.dst, d), a := some (.src, a), t := t, result := true }
  | .rint _ t d a => { d := some (.dst, d), a := some (.src, a), t := t, result := true }
  | .frac _ t d a => { d := some (.dst, d), a := some (.src, a), t := t, result := true }
  | .popc _ t d a => { d := some (.dst, d), a := some (.src, a), t := t, result := true }
  | .clz _ t d a => { d := some (.dst, d), a := some (.src, a), t := t, result := true }
  | .not _ t d a => { d := some (.dst, d), a := some (.src, a), t := t, result := true }
  | .slotc _ _ _ _ => {}
  | .slotr _ _ => {}
  | .slotw _ _ a => { a := some (.sreg, a) }
  | .slotl _ _ _ a => { a := some (.sreg, a) }
  | .slott _ _ _ a => { a := some (.sreg, a) }
  | .prune _ _ _ _ => {}
  | .accz _ _ _ _ => {}
  | .mmaS _ _ _ _ => {}
  | .mmaX _ _ _ _ => {}
  | .mmaSp _ _ _ _ _ => {}
  | .mmav _ _ _ _ _ _ _ => {}
  | .accr _ t d a _ => { d := some (.vdst, d), a := some (.sreg, a), t := t, result := true }
  | .accw _ d a _ => { d := some (.sreg, d), a := some (.vsrc, a) }
  | .topkR _ _ _ _ _ => {}
  | .topkC _ _ _ _ _ => {}
  | .rqpush _ d a _ => { d := some (.src, d), a := some (.src, a) }
  | .rqwait t d a _ => { d := some (.sdst, d), a := some (.sreg, a), t := t, result := true }
  | .spld _ t d a _ => { d := some (.dst, d), a := some (.reg, a), t := t, result := true }
  | .spst _ d a _ => { d := some (.src, d), a := some (.reg, a) }
  | .spadd _ d a _ => { d := some (.src, d), a := some (.reg, a) }
  | .spit _ d a _ => { d := some (.dst, d), a := some (.sreg, a), result := true }
  | .spcnt _ d _ => { d := some (.sdst, d), result := true }
  | .spgrow _ t d a _ => { d := some (.sdst, d), a := some (.sreg, a), t := t, result := true }
  | .tnew _ t d _ => { d := some (.sdst, d), t := t, result := true }
  | .tdesc _ t d _ => { d := some (.dst, d), t := t, result := true }
  | .texp _ t d a _ => { d := some (.rw, d), a := some (.src, a), t := t, result := true }
  | .tback _ d _ _ => { d := some (.reg, d) }
  | .treuse _ _ a _ => { a := some (.sreg, a) }
  | .trd _ d a _ => { d := some (.dst, d), a := some (.src, a), result := true }
  | .tgrow _ t d a _ => { d := some (.sdst, d), a := some (.sreg, a), t := t, result := true }
  | .bar a => { a := some (.src, a) }
  | .barArr _ t d a => { d := some (.sdst, d), a := some (.src, a), t := t, result := true }
  | .barWt a => { a := some (.sreg, a) }
  | .gbar d => { d := some (.sdst, d), result := true }
  | .wfeFull a => { a := some (.src, a) }
  | .wfeEmpty a => { a := some (.src, a) }
  | .collArAdd _ _ _ _ _ => {}
  | .collArMin _ _ _ _ _ => {}
  | .collArMax _ _ _ _ _ => {}
  | .collRsAdd _ _ _ _ _ => {}
  | .collRsMin _ _ _ _ _ => {}
  | .collRsMax _ _ _ _ _ => {}
  | .collAg _ _ _ _ _ => {}
  | .collA2a _ _ _ _ _ => {}
  | .psetReform _ _ _ => {}
  | .psetStatus _ t d a => { d := some (.sdst, d), a := some (.sreg, a), t := t, result := true }
  | .xacq _ => {}
  | .xrel _ _ => {}
  | .rtag _ d _ => { d := some (.ext, d) }
  | .rdrop _ d => { d := some (.ext, d) }
  | .rfree _ d => { d := some (.ext, d) }
  | .sealRange _ t d a => { d := some (.sdst, d), a := some (.sreg, a), t := t, result := true }
  | .unsealRange _ a => { a := some (.sreg, a) }
  | .launch _ _ a => { a := some (.sreg, a) }
  | .item _ d a => { d := some (.src, d), a := some (.src, a) }
  | .task _ t d a => { d := some (.sdst, d), a := some (.sreg, a), t := t, result := true }
  | .depDec _ d a => { d := some (.src, d), a := some (.src, a) }
  | .yield => {}
  | .gid _ t d _ => { d := some (.sdst, d), t := t, result := true }
  | .fuse => {}
  | .split d => { d := some (.sdst, d) }
  | .shld _ _ a => { a := some (.sreg, a) }
  | .shst _ _ a => { a := some (.sreg, a) }
  | .shset _ _ _ a => { a := some (.sreg, a) }
  | .qand _ _ _ _ => {}
  | .qor _ _ _ _ => {}
  | .qnot _ _ _ => {}
  | .qisT _ _ _ => {}
  | .qisU _ _ _ => {}
  | .qisF _ _ _ => {}
  | .qmov _ _ _ => {}
  | .nop _ => {}
  | .trap _ _ => {}
  | .rth => {}
  | .kill => {}
  | .csrr _ t d _ => { d := some (.sdst, d), t := t, result := true }
  | .csrw _ _ a => { a := some (.sreg, a) }
  | .snap _ => {}
  | .createContext _ _ _ => {}
  | .destroyContext => {}
  | .invalidate => {}
  | .pageAnswer => {}
  | .preEmpt => {}
  | .returnCores => {}
  | .definePeerSet => {}
  | .killGrid => {}
  | .loadRoutingProgram => {}
  | .configureQueue => {}
  | .epochLength => {}
  | .releaseSnapshot => {}
  | .attest => {}
  | .reProvision _ => {}
  | .setFullEmpty => {}
  | .doorbell _ _ => {}
  | .apertureBaseWrite _ => {}
  | .snapshotTrigger _ => {}
  | .registerWrite _ _ => {}
  | .hostBar2Read _ _ => {}
  | .hostBar2Write _ _ => {}
  | .deviceReset => {}
  | .imageVerified _ => {}
  | .launchRecordDispatch _ => {}
  | .teamPlacement _ => {}
  | .gangPlacement _ => {}
  | .gangLaunchCommit _ => {}
  | .gangLaunchAbort _ => {}
  | .taskPlacement _ => {}
  | .itemGroupForm _ _ => {}
  | .itemWaitExpiry _ _ => {}
  | .itemGroupPlacement _ => {}
  | .teamResume _ _ => {}
  | .gridRetirement _ => {}
  | .teamFree _ => {}
  | .issueArbitration _ _ => {}
  | .issueAging _ => {}
  | .faultBufferGrant _ => {}
  | .timelineWaitEnd _ => {}
  | .timelineLimitExpiry _ => {}
  | .waitLimitExpiry _ => {}
  | .fullEmptyWake _ => {}
  | .frameGrant _ => {}
  | .registerStarvation _ => {}
  | .slotClaimGrant _ => {}
  | .taskTableRoom _ => {}
  | .itemQueueRoom _ => {}
  | .packetQueueRoom _ => {}
  | .batchWaitEnd _ => {}
  | .releaseWaitEnd _ => {}
  | .barrierPhaseComplete _ _ => {}
  | .gbarComplete _ => {}
  | .fuseRendezvous _ => {}
  | .copyOperationComplete _ => {}
  | .fetchOperationComplete _ => {}
  | .selectOperationComplete _ => {}
  | .mmavComplete _ => {}
  | .lunaOperationComplete _ => {}
  | .engineOperationFault _ _ _ => {}
  | .collectiveComplete _ _ => {}
  | .psetReformComplete _ => {}
  | .peerMemberLoss _ _ _ => {}
  | .admiralPacket _ => {}
  | .batchRouting _ => {}
  | .routingProgramTimeout _ => {}
  | .trapEntry _ => {}
  | .faultEscalation _ => {}
  | .chrysalisSave _ => {}
  | .epochEnd => {}
  | .migrationComplete _ => {}
  | .logicSoftError _ => {}
  | .patrolScrub => {}
  | .telemetryTick => {}
  | .flitRetry _ => {}
  | .linkOutOfService _ => {}
  | .linkRecalibration _ => {}
  | .hopTimeout _ => {}
  | .transactionTimeout _ => {}
  | .voltageDroop _ => {}
  | .powerLimit _ => {}
  | .thermalStretch _ => {}
  | .thermalShutdown => {}
  | .issuedWordFinished _ => {}
  | .matrixOperationComplete _ => {}
  | .sparseOperationAnswer _ => {}
  | .lunaAnswer _ => {}
  | .linkReturnToService _ => {}

/-- A vector operand that holds a 64-bit value names an even register (03 R51). -/
def Opnd.evenV : Opnd → Bool | .v n => n.val % 2 == 0 | _ => true

/-- The operand is not `s55`. -/
def Opnd.notLast : Opnd → Bool | .s n => n.val != 55 | _ => true

/-- An ordering and its observer mask agree: relaxed with a zero mask, any other with a non-zero one (13 R251). -/
def scopeOk (o : BitVec 2) (m : BitVec 6) : Bool := (o == 0) == (m == 0)

/-- The system registers that 25 R374 defines. -/
def sysDefined (n : BitVec 8) : Bool := n == 0 || n == 1 || n == 2 || n == 3 || n == 4 || n == 0x10 || n == 0x11

/-- What each word's own table asks of its other fields. -/
def Instr.fieldsOk : Instr → Bool
  | .add _ _ _ _ _ => true
  | .sub _ _ _ _ _ => true
  | .mul _ _ _ _ _ => true
  | .fma _ _ _ _ _ => true
  | .fms _ _ _ _ _ => true
  | .min _ _ _ _ _ => true
  | .max _ _ _ _ _ => true
  | .div _ _ _ _ _ => true
  | .and _ _ _ _ _ => true
  | .or _ _ _ _ _ => true
  | .xor _ _ _ _ _ => true
  | .shl _ _ _ _ _ => true
  | .shr _ _ _ _ _ => true
  | .sar _ _ _ _ _ => true
  | .coal _ _ _ _ _ => true
  | .cmp _ r _ _ _ => decide (r.toNat ≤ 8)
  | .sel _ _ _ _ _ => true
  | .mulhi _ _ _ _ _ => true
  | .dot _ d _ _ => d.notLast
  | .lrd _ _ _ _ _ => true
  | .ld _ _ _ a _ => a.evenV
  | .st _ _ a _ => a.evenV
  | .ldfe _ a _ => a.evenV
  | .stfe _ _ a _ => a.evenV
  | .ldo _ _ _ a o m => scopeOk o m && (o == 0 || o == 1) && a.evenV
  | .sto _ _ a o m => scopeOk o m && (o == 0 || o == 2) && a.evenV
  | .li _ _ _ _ => true
  | .lih _ _ _ _ => true
  | .addi _ _ _ _ => true
  | .mode _ _ => true
  | .cvt _ _ _ _ _ => true
  | .fence _ o m => o != 0 && m != 0
  | .bra _ c q _ => decide (c.toNat ≤ 6) && (c != 6 || q == 0)
  | .call _ _ => true
  | .ift _ _ s _ => s != 3
  | .els _ _ => true
  | .uarm _ _ => true
  | .endif _ => true
  | .jmp _ a => a.evenV
  | .exit _ => true
  | .aadd _ _ _ a o m => scopeOk o m && a.evenV
  | .amin _ _ _ a o m => scopeOk o m && a.evenV
  | .amax _ _ _ a o m => scopeOk o m && a.evenV
  | .aand _ _ _ a o m => scopeOk o m && a.evenV
  | .aor _ _ _ a o m => scopeOk o m && a.evenV
  | .axch _ _ _ a o m => scopeOk o m && a.evenV
  | .acas _ _ d a o m => scopeOk o m && a.evenV && d.notLast
  | .axor _ _ _ a o m => scopeOk o m && a.evenV
  | .copyIn _ _ _ _ => true
  | .copyOut _ _ _ _ => true
  | .copyOutz _ _ _ _ => true
  | .copyNn _ _ _ _ => true
  | .copyRdAdd _ _ _ _ => true
  | .copyRdMin _ _ _ _ => true
  | .copyRdMax _ _ _ _ => true
  | .copyGth _ _ _ _ _ => true
  | .copySct _ _ _ _ _ => true
  | .copyBlk _ _ _ _ _ => true
  | .copyDns _ _ _ _ => true
  | .copyMig _ _ _ _ => true
  | .fetch _ _ _ _ _ => true
  | .fetchLst _ _ _ _ _ => true
  | .tlbind _ _ _ => true
  | .tlwait _ _ => true
  | .tlread _ d _ => d.notLast
  | .redAdd _ d _ => d.notLast
  | .redMin _ d _ => d.notLast
  | .redMax _ d _ => d.notLast
  | .redAnd _ d _ => d.notLast
  | .redOr _ d _ => d.notLast
  | .redCnt _ d _ => d.notLast
  | .scanAdd _ _ _ _ => true
  | .scanAddx _ _ _ _ => true
  | .scanMax _ _ _ _ => true
  | .matchLanes _ d _ => d.evenV
  | .voteT _ _ _ _ => true
  | .voteF _ _ _ _ => true
  | .voteU _ _ _ _ => true
  | .lidx _ _ _ => true
  | .bcast _ _ _ _ _ => true
  | .mov _ _ _ _ => true
  | .neg _ _ _ _ => true
  | .abs _ _ _ _ => true
  | .isna _ _ _ => true
  | .mkna _ _ _ _ => true
  | .sqrt _ _ _ _ => true
  | .rsqrt _ _ _ _ => true
  | .recip _ _ _ _ => true
  | .exp2 _ _ _ _ => true
  | .log2 _ _ _ _ => true
  | .sin _ _ _ _ => true
  | .cos _ _ _ _ => true
  | .tanh _ _ _ _ => true
  | .sigm _ _ _ _ => true
  | .floor _ _ _ _ => true
  | .ceil _ _ _ _ => true
  | .trunc _ _ _ _ => true
  | .rint _ _ _ _ => true
  | .frac _ _ _ _ => true
  | .popc _ _ _ _ => true
  | .clz _ _ _ _ => true
  | .not _ _ _ _ => true
  | .slotc _ l f _ => l != 3 && !(l == 2 && f == 1)
  | .slotr _ _ => true
  | .slotw _ _ _ => true
  | .slotl _ _ _ _ => true
  | .slott _ _ _ _ => true
  | .prune _ _ _ p => decide (1 ≤ p.toNat) && decide (p.toNat ≤ 4)
  | .accz _ _ _ _ => true
  | .mmaS _ _ _ _ => true
  | .mmaX _ _ _ _ => true
  | .mmaSp _ _ _ _ _ => true
  | .mmav _ _ _ _ _ _ _ => true
  | .accr _ _ _ _ _ => true
  | .accw _ _ _ _ => true
  | .topkR _ i _ _ _ => i != 15
  | .topkC _ i _ _ _ => i != 15
  | .rqpush _ d a _ => d.evenV && a.evenV
  | .rqwait _ _ _ _ => true
  | .spld _ _ _ _ _ => true
  | .spst _ _ _ _ => true
  | .spadd _ _ _ _ => true
  | .spit _ _ _ _ => true
  | .spcnt _ d _ => d.notLast
  | .spgrow _ _ _ _ _ => true
  | .tnew _ _ _ _ => true
  | .tdesc _ _ _ _ => true
  | .texp _ _ _ a _ => a.evenV
  | .tback _ d _ _ => (match d with | .v n => n.val % 2 == 0 | .s n => n.val % 2 == 0 | _ => true)
  | .treuse _ _ _ _ => true
  | .trd _ d _ _ => (match d with | .v n => decide (n.val ≤ 188) | .s n => decide (n.val ≤ 52) | _ => true)
  | .tgrow _ _ _ _ _ => true
  | .bar a => a.evenV
  | .barArr _ _ _ a => a.evenV
  | .barWt _ => true
  | .gbar _ => true
  | .wfeFull a => a.evenV
  | .wfeEmpty a => a.evenV
  | .collArAdd _ _ _ _ _ => true
  | .collArMin _ _ _ _ _ => true
  | .collArMax _ _ _ _ _ => true
  | .collRsAdd _ _ _ _ _ => true
  | .collRsMin _ _ _ _ _ => true
  | .collRsMax _ _ _ _ _ => true
  | .collAg _ _ _ _ _ => true
  | .collA2a _ _ _ _ _ => true
  | .psetReform _ _ _ => true
  | .psetStatus _ _ _ _ => true
  | .xacq _ => true
  | .xrel _ _ => true
  | .rtag _ _ c => decide (1 ≤ c.toNat) && decide (c.toNat ≤ 4)
  | .rdrop _ _ => true
  | .rfree _ _ => true
  | .sealRange _ _ _ a => a.notLast
  | .unsealRange _ _ => true
  | .launch _ _ _ => true
  | .item _ d a => d.evenV && a.evenV
  | .task _ _ _ _ => true
  | .depDec _ _ _ => true
  | .yield => true
  | .gid _ _ _ s => s != 15
  | .fuse => true
  | .split _ => true
  | .shld _ _ _ => true
  | .shst _ _ _ => true
  | .shset _ _ _ _ => true
  | .qand _ _ _ _ => true
  | .qor _ _ _ _ => true
  | .qnot _ _ _ => true
  | .qisT _ _ _ => true
  | .qisU _ _ _ => true
  | .qisF _ _ _ => true
  | .qmov _ _ _ => true
  | .nop _ => true
  | .trap _ _ => true
  | .rth => true
  | .kill => true
  | .csrr _ _ _ a => sysDefined a
  | .csrw _ d _ => sysDefined d
  | .snap _ => true
  | .createContext _ _ _ => true
  | .destroyContext => true
  | .invalidate => true
  | .pageAnswer => true
  | .preEmpt => true
  | .returnCores => true
  | .definePeerSet => true
  | .killGrid => true
  | .loadRoutingProgram => true
  | .configureQueue => true
  | .epochLength => true
  | .releaseSnapshot => true
  | .attest => true
  | .reProvision _ => true
  | .setFullEmpty => true
  | .doorbell _ _ => true
  | .apertureBaseWrite _ => true
  | .snapshotTrigger _ => true
  | .registerWrite _ _ => true
  | .hostBar2Read _ _ => true
  | .hostBar2Write _ _ => true
  | .deviceReset => true
  | .imageVerified _ => true
  | .launchRecordDispatch _ => true
  | .teamPlacement _ => true
  | .gangPlacement _ => true
  | .gangLaunchCommit _ => true
  | .gangLaunchAbort _ => true
  | .taskPlacement _ => true
  | .itemGroupForm _ _ => true
  | .itemWaitExpiry _ _ => true
  | .itemGroupPlacement _ => true
  | .teamResume _ _ => true
  | .gridRetirement _ => true
  | .teamFree _ => true
  | .issueArbitration _ _ => true
  | .issueAging _ => true
  | .faultBufferGrant _ => true
  | .timelineWaitEnd _ => true
  | .timelineLimitExpiry _ => true
  | .waitLimitExpiry _ => true
  | .fullEmptyWake _ => true
  | .frameGrant _ => true
  | .registerStarvation _ => true
  | .slotClaimGrant _ => true
  | .taskTableRoom _ => true
  | .itemQueueRoom _ => true
  | .packetQueueRoom _ => true
  | .batchWaitEnd _ => true
  | .releaseWaitEnd _ => true
  | .barrierPhaseComplete _ _ => true
  | .gbarComplete _ => true
  | .fuseRendezvous _ => true
  | .copyOperationComplete _ => true
  | .fetchOperationComplete _ => true
  | .selectOperationComplete _ => true
  | .mmavComplete _ => true
  | .lunaOperationComplete _ => true
  | .engineOperationFault _ _ _ => true
  | .collectiveComplete _ _ => true
  | .psetReformComplete _ => true
  | .peerMemberLoss _ _ _ => true
  | .admiralPacket _ => true
  | .batchRouting _ => true
  | .routingProgramTimeout _ => true
  | .trapEntry _ => true
  | .faultEscalation _ => true
  | .chrysalisSave _ => true
  | .epochEnd => true
  | .migrationComplete _ => true
  | .logicSoftError _ => true
  | .patrolScrub => true
  | .telemetryTick => true
  | .flitRetry _ => true
  | .linkOutOfService _ => true
  | .linkRecalibration _ => true
  | .hopTimeout _ => true
  | .transactionTimeout _ => true
  | .voltageDroop _ => true
  | .powerLimit _ => true
  | .thermalStretch _ => true
  | .thermalShutdown => true
  | .issuedWordFinished _ => true
  | .matrixOperationComplete _ => true
  | .sparseOperationAnswer _ => true
  | .lunaAnswer _ => true
  | .linkReturnToService _ => true

/-- A field of the form holds an operand that its role admits. -/
def fieldOk : Option (Role × Opnd) → Bool
  | some (r, o) => r.admits o
  | none => true

/-- The legality of a word's fields that needs no state. -/
def Instr.wf (i : Instr) : Bool :=
  fieldOk i.form.d && fieldOk i.form.a && fieldOk i.form.b && i.fieldsOk

end Sys2Proof
end

