-- ==== Sys2Proof/Decode.lean ====
section
/-! DEFINITION. Decoding of the Z940's 32-bit words (03 R46 to R51, R61 to R63) by a table of rows, one for each word of
spec/opcode_table.json: the bits a row fixes (its mask and their value) and the instruction it builds. A word that no row
matches is rejected by name, and raises 0x01 when it is issued (03 R63). The encoder stands after the decoder. -/

namespace Sys2Proof

/-- The operand that a field code names (03 R51). -/
def Opnd.ofCode (c : BitVec 8) : Opnd :=
  if h : c.toNat < 192 then .v ⟨c.toNat, h⟩
  else if h : c.toNat < 248 then .s ⟨c.toNat - 192, by omega⟩
  else if h : c.toNat < 252 then .rsv ⟨c.toNat - 248, by omega⟩
  else if h : c.toNat = 252 then .na
  else .b ⟨c.toNat - 253, by have := c.isLt; omega⟩

/-- One row of the opcode table: a word belongs to it when its bits under `mask` are `bits`. -/
structure Row where
  mask : Word
  bits : Word
  build : Word → Instr

/-- Why a word is no instruction; each raises 0x01 (03 R63). -/
inductive Reject where
  | reservedMajor (op : BitVec 6)     -- 0x00 and 0x39 to 0x3F (03 R61)
  | reservedWord (w : Word)           -- a reserved function code, or a non-zero unused field (03 R50, R62)
  deriving DecidableEq, Repr

/-- Rows 0 to 14 of the words. -/
def rows0 : List Row :=
  [⟨0xFC000000, 0xE0000000, fun w => .add (w.getLsbD 25) (w.getLsbD 24) (Opnd.ofCode (w.extractLsb' 16 8)) (Opnd.ofCode (w.extractLsb' 8 8)) (Opnd.ofCode (w.extractLsb' 0 8))⟩,
   ⟨0xFC000000, 0x04000000, fun w => .sub (w.getLsbD 25) (w.getLsbD 24) (Opnd.ofCode (w.extractLsb' 16 8)) (Opnd.ofCode (w.extractLsb' 8 8)) (Opnd.ofCode (w.extractLsb' 0 8))⟩,
   ⟨0xFC000000, 0x08000000, fun w => .mul (w.getLsbD 25) (w.getLsbD 24) (Opnd.ofCode (w.extractLsb' 16 8)) (Opnd.ofCode (w.extractLsb' 8 8)) (Opnd.ofCode (w.extractLsb' 0 8))⟩,
   ⟨0xFC000000, 0x0C000000, fun w => .fma (w.getLsbD 25) (w.getLsbD 24) (Opnd.ofCode (w.extractLsb' 16 8)) (Opnd.ofCode (w.extractLsb' 8 8)) (Opnd.ofCode (w.extractLsb' 0 8))⟩,
   ⟨0xFC000000, 0x10000000, fun w => .fms (w.getLsbD 25) (w.getLsbD 24) (Opnd.ofCode (w.extractLsb' 16 8)) (Opnd.ofCode (w.extractLsb' 8 8)) (Opnd.ofCode (w.extractLsb' 0 8))⟩,
   ⟨0xFC000000, 0x14000000, fun w => .min (w.getLsbD 25) (w.getLsbD 24) (Opnd.ofCode (w.extractLsb' 16 8)) (Opnd.ofCode (w.extractLsb' 8 8)) (Opnd.ofCode (w.extractLsb' 0 8))⟩,
   ⟨0xFC000000, 0x18000000, fun w => .max (w.getLsbD 25) (w.getLsbD 24) (Opnd.ofCode (w.extractLsb' 16 8)) (Opnd.ofCode (w.extractLsb' 8 8)) (Opnd.ofCode (w.extractLsb' 0 8))⟩,
   ⟨0xFC000000, 0x1C000000, fun w => .div (w.getLsbD 25) (w.getLsbD 24) (Opnd.ofCode (w.extractLsb' 16 8)) (Opnd.ofCode (w.extractLsb' 8 8)) (Opnd.ofCode (w.extractLsb' 0 8))⟩,
   ⟨0xFC000000, 0x20000000, fun w => .and (w.getLsbD 25) (w.getLsbD 24) (Opnd.ofCode (w.extractLsb' 16 8)) (Opnd.ofCode (w.extractLsb' 8 8)) (Opnd.ofCode (w.extractLsb' 0 8))⟩,
   ⟨0xFC000000, 0x24000000, fun w => .or (w.getLsbD 25) (w.getLsbD 24) (Opnd.ofCode (w.extractLsb' 16 8)) (Opnd.ofCode (w.extractLsb' 8 8)) (Opnd.ofCode (w.extractLsb' 0 8))⟩,
   ⟨0xFC000000, 0x28000000, fun w => .xor (w.getLsbD 25) (w.getLsbD 24) (Opnd.ofCode (w.extractLsb' 16 8)) (Opnd.ofCode (w.extractLsb' 8 8)) (Opnd.ofCode (w.extractLsb' 0 8))⟩,
   ⟨0xFC000000, 0x2C000000, fun w => .shl (w.getLsbD 25) (w.getLsbD 24) (Opnd.ofCode (w.extractLsb' 16 8)) (Opnd.ofCode (w.extractLsb' 8 8)) (Opnd.ofCode (w.extractLsb' 0 8))⟩,
   ⟨0xFC000000, 0x30000000, fun w => .shr (w.getLsbD 25) (w.getLsbD 24) (Opnd.ofCode (w.extractLsb' 16 8)) (Opnd.ofCode (w.extractLsb' 8 8)) (Opnd.ofCode (w.extractLsb' 0 8))⟩,
   ⟨0xFC000000, 0x34000000, fun w => .sar (w.getLsbD 25) (w.getLsbD 24) (Opnd.ofCode (w.extractLsb' 16 8)) (Opnd.ofCode (w.extractLsb' 8 8)) (Opnd.ofCode (w.extractLsb' 0 8))⟩,
   ⟨0xFC000000, 0x38000000, fun w => .coal (w.getLsbD 25) (w.getLsbD 24) (Opnd.ofCode (w.extractLsb' 16 8)) (Opnd.ofCode (w.extractLsb' 8 8)) (Opnd.ofCode (w.extractLsb' 0 8))⟩]

/-- Rows 15 to 29 of the words. -/
def rows1 : List Row :=
  [⟨0xFD000000, 0x3C000000, fun w => .cmp (w.getLsbD 25) (w.extractLsb' 19 5) (w.extractLsb' 16 3) (Opnd.ofCode (w.extractLsb' 8 8)) (Opnd.ofCode (w.extractLsb' 0 8))⟩,
   ⟨0xFC000000, 0x40000000, fun w => .sel (w.getLsbD 25) (w.getLsbD 24) (Opnd.ofCode (w.extractLsb' 16 8)) (Opnd.ofCode (w.extractLsb' 8 8)) (Opnd.ofCode (w.extractLsb' 0 8))⟩,
   ⟨0xFC000000, 0x44000000, fun w => .mulhi (w.getLsbD 25) (w.getLsbD 24) (Opnd.ofCode (w.extractLsb' 16 8)) (Opnd.ofCode (w.extractLsb' 8 8)) (Opnd.ofCode (w.extractLsb' 0 8))⟩,
   ⟨0xFD000000, 0x48000000, fun w => .dot (w.getLsbD 25) (Opnd.ofCode (w.extractLsb' 16 8)) (Opnd.ofCode (w.extractLsb' 8 8)) (Opnd.ofCode (w.extractLsb' 0 8))⟩,
   ⟨0xFC000000, 0x4C000000, fun w => .lrd (w.getLsbD 25) (w.getLsbD 24) (Opnd.ofCode (w.extractLsb' 16 8)) (Opnd.ofCode (w.extractLsb' 8 8)) (Opnd.ofCode (w.extractLsb' 0 8))⟩,
   ⟨0xFC000000, 0x50000000, fun w => .ld (w.getLsbD 25) (w.getLsbD 24) (Opnd.ofCode (w.extractLsb' 16 8)) (Opnd.ofCode (w.extractLsb' 8 8)) (Opnd.ofCode (w.extractLsb' 0 8))⟩,
   ⟨0xFD000000, 0x54000000, fun w => .st (w.getLsbD 25) (Opnd.ofCode (w.extractLsb' 16 8)) (Opnd.ofCode (w.extractLsb' 8 8)) (Opnd.ofCode (w.extractLsb' 0 8))⟩,
   ⟨0xFF0000FE, 0x5A000000, fun w => .ldfe (Opnd.ofCode (w.extractLsb' 16 8)) (Opnd.ofCode (w.extractLsb' 8 8)) (w.extractLsb' 0 1)⟩,
   ⟨0xFD000000, 0x5C000000, fun w => .stfe (w.getLsbD 25) (Opnd.ofCode (w.extractLsb' 16 8)) (Opnd.ofCode (w.extractLsb' 8 8)) (Opnd.ofCode (w.extractLsb' 0 8))⟩,
   ⟨0xFC000000, 0x60000000, fun w => .ldo (w.getLsbD 25) (w.getLsbD 24) (Opnd.ofCode (w.extractLsb' 16 8)) (Opnd.ofCode (w.extractLsb' 8 8)) (w.extractLsb' 6 2) (w.extractLsb' 0 6)⟩,
   ⟨0xFD000000, 0x64000000, fun w => .sto (w.getLsbD 25) (Opnd.ofCode (w.extractLsb' 16 8)) (Opnd.ofCode (w.extractLsb' 8 8)) (w.extractLsb' 6 2) (w.extractLsb' 0 6)⟩,
   ⟨0xFC000000, 0x68000000, fun w => .li (w.getLsbD 25) (w.getLsbD 24) (Opnd.ofCode (w.extractLsb' 16 8)) (w.extractLsb' 0 16)⟩,
   ⟨0xFC000000, 0x6C000000, fun w => .lih (w.getLsbD 25) (w.getLsbD 24) (Opnd.ofCode (w.extractLsb' 16 8)) (w.extractLsb' 0 16)⟩,
   ⟨0xFC000000, 0x70000000, fun w => .addi (w.getLsbD 25) (w.getLsbD 24) (Opnd.ofCode (w.extractLsb' 16 8)) (w.extractLsb' 0 16)⟩,
   ⟨0xFC000000, 0x74000000, fun w => .mode (w.getLsbD 25) (w.extractLsb' 0 25)⟩]

/-- Rows 30 to 44 of the words. -/
def rows2 : List Row :=
  [⟨0xFC000000, 0x78000000, fun w => .cvt (w.getLsbD 25) (w.getLsbD 24) (Opnd.ofCode (w.extractLsb' 16 8)) (Opnd.ofCode (w.extractLsb' 8 8)) (w.extractLsb' 0 8)⟩,
   ⟨0xFDFFFF00, 0x7C000000, fun w => .fence (w.getLsbD 25) (w.extractLsb' 6 2) (w.extractLsb' 0 6)⟩,
   ⟨0xFD000000, 0x80000000, fun w => .bra (w.getLsbD 25) (w.extractLsb' 20 4) (w.extractLsb' 17 3) (w.extractLsb' 0 17)⟩,
   ⟨0xFD000000, 0x84000000, fun w => .call (w.getLsbD 25) (w.extractLsb' 0 24)⟩,
   ⟨0xFD000000, 0x88000000, fun w => .ift (w.getLsbD 25) (w.extractLsb' 21 3) (w.extractLsb' 19 2) (w.extractLsb' 0 19)⟩,
   ⟨0xFDF80000, 0x8C000000, fun w => .els (w.getLsbD 25) (w.extractLsb' 0 19)⟩,
   ⟨0xFDF80000, 0x90000000, fun w => .uarm (w.getLsbD 25) (w.extractLsb' 0 19)⟩,
   ⟨0xFDFFFFFF, 0x94000000, fun w => .endif (w.getLsbD 25)⟩,
   ⟨0xFDFF00FF, 0x98000000, fun w => .jmp (w.getLsbD 25) (Opnd.ofCode (w.extractLsb' 8 8))⟩,
   ⟨0xFDFFFFFF, 0x9C000000, fun w => .exit (w.getLsbD 25)⟩,
   ⟨0xFC000000, 0xA0000000, fun w => .aadd (w.getLsbD 25) (w.getLsbD 24) (Opnd.ofCode (w.extractLsb' 16 8)) (Opnd.ofCode (w.extractLsb' 8 8)) (w.extractLsb' 6 2) (w.extractLsb' 0 6)⟩,
   ⟨0xFC000000, 0xA4000000, fun w => .amin (w.getLsbD 25) (w.getLsbD 24) (Opnd.ofCode (w.extractLsb' 16 8)) (Opnd.ofCode (w.extractLsb' 8 8)) (w.extractLsb' 6 2) (w.extractLsb' 0 6)⟩,
   ⟨0xFC000000, 0xA8000000, fun w => .amax (w.getLsbD 25) (w.getLsbD 24) (Opnd.ofCode (w.extractLsb' 16 8)) (Opnd.ofCode (w.extractLsb' 8 8)) (w.extractLsb' 6 2) (w.extractLsb' 0 6)⟩,
   ⟨0xFC000000, 0xAC000000, fun w => .aand (w.getLsbD 25) (w.getLsbD 24) (Opnd.ofCode (w.extractLsb' 16 8)) (Opnd.ofCode (w.extractLsb' 8 8)) (w.extractLsb' 6 2) (w.extractLsb' 0 6)⟩,
   ⟨0xFC000000, 0xB0000000, fun w => .aor (w.getLsbD 25) (w.getLsbD 24) (Opnd.ofCode (w.extractLsb' 16 8)) (Opnd.ofCode (w.extractLsb' 8 8)) (w.extractLsb' 6 2) (w.extractLsb' 0 6)⟩]

/-- Rows 45 to 59 of the words. -/
def rows3 : List Row :=
  [⟨0xFC000000, 0xB4000000, fun w => .axch (w.getLsbD 25) (w.getLsbD 24) (Opnd.ofCode (w.extractLsb' 16 8)) (Opnd.ofCode (w.extractLsb' 8 8)) (w.extractLsb' 6 2) (w.extractLsb' 0 6)⟩,
   ⟨0xFC000000, 0xB8000000, fun w => .acas (w.getLsbD 25) (w.getLsbD 24) (Opnd.ofCode (w.extractLsb' 16 8)) (Opnd.ofCode (w.extractLsb' 8 8)) (w.extractLsb' 6 2) (w.extractLsb' 0 6)⟩,
   ⟨0xFC000000, 0xBC000000, fun w => .axor (w.getLsbD 25) (w.getLsbD 24) (Opnd.ofCode (w.extractLsb' 16 8)) (Opnd.ofCode (w.extractLsb' 8 8)) (w.extractLsb' 6 2) (w.extractLsb' 0 6)⟩,
   ⟨0xFD001FFF, 0xC0000000, fun w => .copyIn (w.getLsbD 25) (w.extractLsb' 20 4) (w.extractLsb' 16 4) (w.extractLsb' 13 3)⟩,
   ⟨0xFD001FFF, 0xC0000001, fun w => .copyOut (w.getLsbD 25) (w.extractLsb' 20 4) (w.extractLsb' 16 4) (w.extractLsb' 13 3)⟩,
   ⟨0xFD001FFF, 0xC0000002, fun w => .copyOutz (w.getLsbD 25) (w.extractLsb' 20 4) (w.extractLsb' 16 4) (w.extractLsb' 13 3)⟩,
   ⟨0xFD001FFF, 0xC0000003, fun w => .copyNn (w.getLsbD 25) (w.extractLsb' 20 4) (w.extractLsb' 16 4) (w.extractLsb' 13 3)⟩,
   ⟨0xFD001FFF, 0xC0000004, fun w => .copyRdAdd (w.getLsbD 25) (w.extractLsb' 20 4) (w.extractLsb' 16 4) (w.extractLsb' 13 3)⟩,
   ⟨0xFD001FFF, 0xC0000005, fun w => .copyRdMin (w.getLsbD 25) (w.extractLsb' 20 4) (w.extractLsb' 16 4) (w.extractLsb' 13 3)⟩,
   ⟨0xFD001FFF, 0xC0000006, fun w => .copyRdMax (w.getLsbD 25) (w.extractLsb' 20 4) (w.extractLsb' 16 4) (w.extractLsb' 13 3)⟩,
   ⟨0xFD0000FF, 0xC0000008, fun w => .copyGth (w.getLsbD 25) (w.extractLsb' 20 4) (w.extractLsb' 16 4) (w.extractLsb' 13 3) (w.extractLsb' 8 5)⟩,
   ⟨0xFD0000FF, 0xC0000009, fun w => .copySct (w.getLsbD 25) (w.extractLsb' 20 4) (w.extractLsb' 16 4) (w.extractLsb' 13 3) (w.extractLsb' 8 5)⟩,
   ⟨0xFD0000FF, 0xC000000A, fun w => .copyBlk (w.getLsbD 25) (w.extractLsb' 20 4) (w.extractLsb' 16 4) (w.extractLsb' 13 3) (w.extractLsb' 8 5)⟩,
   ⟨0xFD001FFF, 0xC000000B, fun w => .copyDns (w.getLsbD 25) (w.extractLsb' 20 4) (w.extractLsb' 16 4) (w.extractLsb' 13 3)⟩,
   ⟨0xFDF000FF, 0xC000000C, fun w => .copyMig (w.getLsbD 25) (w.extractLsb' 16 4) (w.extractLsb' 13 3) (w.extractLsb' 8 5)⟩]

/-- Rows 60 to 74 of the words. -/
def rows4 : List Row :=
  [⟨0xFD0000FF, 0xC0000040, fun w => .fetch (w.getLsbD 25) (w.extractLsb' 20 4) (w.extractLsb' 16 4) (w.extractLsb' 13 3) (w.extractLsb' 8 5)⟩,
   ⟨0xFD0000FF, 0xC0000041, fun w => .fetchLst (w.getLsbD 25) (w.extractLsb' 20 4) (w.extractLsb' 16 4) (w.extractLsb' 13 3) (w.extractLsb' 8 5)⟩,
   ⟨0xFF0000FF, 0xC2000060, fun w => .tlbind (Opnd.ofCode (w.extractLsb' 16 8)) (w.extractLsb' 13 3) (w.extractLsb' 8 5)⟩,
   ⟨0xFFFF00FF, 0xC2000061, fun w => .tlwait (w.extractLsb' 13 3) (w.extractLsb' 8 5)⟩,
   ⟨0xFD001FFF, 0xC0000062, fun w => .tlread (w.getLsbD 25) (Opnd.ofCode (w.extractLsb' 16 8)) (w.extractLsb' 13 3)⟩,
   ⟨0xFD0000FF, 0xC4000000, fun w => .redAdd (w.getLsbD 25) (Opnd.ofCode (w.extractLsb' 16 8)) (Opnd.ofCode (w.extractLsb' 8 8))⟩,
   ⟨0xFD0000FF, 0xC4000001, fun w => .redMin (w.getLsbD 25) (Opnd.ofCode (w.extractLsb' 16 8)) (Opnd.ofCode (w.extractLsb' 8 8))⟩,
   ⟨0xFD0000FF, 0xC4000002, fun w => .redMax (w.getLsbD 25) (Opnd.ofCode (w.extractLsb' 16 8)) (Opnd.ofCode (w.extractLsb' 8 8))⟩,
   ⟨0xFD0000FF, 0xC4000003, fun w => .redAnd (w.getLsbD 25) (Opnd.ofCode (w.extractLsb' 16 8)) (Opnd.ofCode (w.extractLsb' 8 8))⟩,
   ⟨0xFD0000FF, 0xC4000004, fun w => .redOr (w.getLsbD 25) (Opnd.ofCode (w.extractLsb' 16 8)) (Opnd.ofCode (w.extractLsb' 8 8))⟩,
   ⟨0xFD0000FF, 0xC4000005, fun w => .redCnt (w.getLsbD 25) (Opnd.ofCode (w.extractLsb' 16 8)) (Opnd.ofCode (w.extractLsb' 8 8))⟩,
   ⟨0xFC0000FF, 0xC4000008, fun w => .scanAdd (w.getLsbD 25) (w.getLsbD 24) (Opnd.ofCode (w.extractLsb' 16 8)) (Opnd.ofCode (w.extractLsb' 8 8))⟩,
   ⟨0xFC0000FF, 0xC4000009, fun w => .scanAddx (w.getLsbD 25) (w.getLsbD 24) (Opnd.ofCode (w.extractLsb' 16 8)) (Opnd.ofCode (w.extractLsb' 8 8))⟩,
   ⟨0xFC0000FF, 0xC400000A, fun w => .scanMax (w.getLsbD 25) (w.getLsbD 24) (Opnd.ofCode (w.extractLsb' 16 8)) (Opnd.ofCode (w.extractLsb' 8 8))⟩,
   ⟨0xFD0000FF, 0xC4000010, fun w => .matchLanes (w.getLsbD 25) (Opnd.ofCode (w.extractLsb' 16 8)) (Opnd.ofCode (w.extractLsb' 8 8))⟩]

/-- Rows 75 to 89 of the words. -/
def rows5 : List Row :=
  [⟨0xFC00F8FF, 0xC4000018, fun w => .voteT (w.getLsbD 25) (w.getLsbD 24) (Opnd.ofCode (w.extractLsb' 16 8)) (w.extractLsb' 8 3)⟩,
   ⟨0xFC00F8FF, 0xC4000019, fun w => .voteF (w.getLsbD 25) (w.getLsbD 24) (Opnd.ofCode (w.extractLsb' 16 8)) (w.extractLsb' 8 3)⟩,
   ⟨0xFC00F8FF, 0xC400001A, fun w => .voteU (w.getLsbD 25) (w.getLsbD 24) (Opnd.ofCode (w.extractLsb' 16 8)) (w.extractLsb' 8 3)⟩,
   ⟨0xFC00FFFF, 0xC4000020, fun w => .lidx (w.getLsbD 25) (w.getLsbD 24) (Opnd.ofCode (w.extractLsb' 16 8))⟩,
   ⟨0xFC0000C0, 0xC4000040, fun w => .bcast (w.getLsbD 25) (w.getLsbD 24) (Opnd.ofCode (w.extractLsb' 16 8)) (Opnd.ofCode (w.extractLsb' 8 8)) (w.extractLsb' 0 6)⟩,
   ⟨0xFC0000FF, 0xC8000000, fun w => .mov (w.getLsbD 25) (w.getLsbD 24) (Opnd.ofCode (w.extractLsb' 16 8)) (Opnd.ofCode (w.extractLsb' 8 8))⟩,
   ⟨0xFC0000FF, 0xC8000001, fun w => .neg (w.getLsbD 25) (w.getLsbD 24) (Opnd.ofCode (w.extractLsb' 16 8)) (Opnd.ofCode (w.extractLsb' 8 8))⟩,
   ⟨0xFC0000FF, 0xC8000002, fun w => .abs (w.getLsbD 25) (w.getLsbD 24) (Opnd.ofCode (w.extractLsb' 16 8)) (Opnd.ofCode (w.extractLsb' 8 8))⟩,
   ⟨0xFDF800FF, 0xC8000003, fun w => .isna (w.getLsbD 25) (w.extractLsb' 16 3) (Opnd.ofCode (w.extractLsb' 8 8))⟩,
   ⟨0xFC0000FF, 0xC8000004, fun w => .mkna (w.getLsbD 25) (w.getLsbD 24) (Opnd.ofCode (w.extractLsb' 16 8)) (Opnd.ofCode (w.extractLsb' 8 8))⟩,
   ⟨0xFC0000FF, 0xC8000008, fun w => .sqrt (w.getLsbD 25) (w.getLsbD 24) (Opnd.ofCode (w.extractLsb' 16 8)) (Opnd.ofCode (w.extractLsb' 8 8))⟩,
   ⟨0xFC0000FF, 0xC8000009, fun w => .rsqrt (w.getLsbD 25) (w.getLsbD 24) (Opnd.ofCode (w.extractLsb' 16 8)) (Opnd.ofCode (w.extractLsb' 8 8))⟩,
   ⟨0xFC0000FF, 0xC800000A, fun w => .recip (w.getLsbD 25) (w.getLsbD 24) (Opnd.ofCode (w.extractLsb' 16 8)) (Opnd.ofCode (w.extractLsb' 8 8))⟩,
   ⟨0xFC0000FF, 0xC800000B, fun w => .exp2 (w.getLsbD 25) (w.getLsbD 24) (Opnd.ofCode (w.extractLsb' 16 8)) (Opnd.ofCode (w.extractLsb' 8 8))⟩,
   ⟨0xFC0000FF, 0xC800000C, fun w => .log2 (w.getLsbD 25) (w.getLsbD 24) (Opnd.ofCode (w.extractLsb' 16 8)) (Opnd.ofCode (w.extractLsb' 8 8))⟩]

/-- Rows 90 to 104 of the words. -/
def rows6 : List Row :=
  [⟨0xFC0000FF, 0xC800000D, fun w => .sin (w.getLsbD 25) (w.getLsbD 24) (Opnd.ofCode (w.extractLsb' 16 8)) (Opnd.ofCode (w.extractLsb' 8 8))⟩,
   ⟨0xFC0000FF, 0xC800000E, fun w => .cos (w.getLsbD 25) (w.getLsbD 24) (Opnd.ofCode (w.extractLsb' 16 8)) (Opnd.ofCode (w.extractLsb' 8 8))⟩,
   ⟨0xFC0000FF, 0xC800000F, fun w => .tanh (w.getLsbD 25) (w.getLsbD 24) (Opnd.ofCode (w.extractLsb' 16 8)) (Opnd.ofCode (w.extractLsb' 8 8))⟩,
   ⟨0xFC0000FF, 0xC8000010, fun w => .sigm (w.getLsbD 25) (w.getLsbD 24) (Opnd.ofCode (w.extractLsb' 16 8)) (Opnd.ofCode (w.extractLsb' 8 8))⟩,
   ⟨0xFC0000FF, 0xC8000018, fun w => .floor (w.getLsbD 25) (w.getLsbD 24) (Opnd.ofCode (w.extractLsb' 16 8)) (Opnd.ofCode (w.extractLsb' 8 8))⟩,
   ⟨0xFC0000FF, 0xC8000019, fun w => .ceil (w.getLsbD 25) (w.getLsbD 24) (Opnd.ofCode (w.extractLsb' 16 8)) (Opnd.ofCode (w.extractLsb' 8 8))⟩,
   ⟨0xFC0000FF, 0xC800001A, fun w => .trunc (w.getLsbD 25) (w.getLsbD 24) (Opnd.ofCode (w.extractLsb' 16 8)) (Opnd.ofCode (w.extractLsb' 8 8))⟩,
   ⟨0xFC0000FF, 0xC800001B, fun w => .rint (w.getLsbD 25) (w.getLsbD 24) (Opnd.ofCode (w.extractLsb' 16 8)) (Opnd.ofCode (w.extractLsb' 8 8))⟩,
   ⟨0xFC0000FF, 0xC800001C, fun w => .frac (w.getLsbD 25) (w.getLsbD 24) (Opnd.ofCode (w.extractLsb' 16 8)) (Opnd.ofCode (w.extractLsb' 8 8))⟩,
   ⟨0xFC0000FF, 0xC8000020, fun w => .popc (w.getLsbD 25) (w.getLsbD 24) (Opnd.ofCode (w.extractLsb' 16 8)) (Opnd.ofCode (w.extractLsb' 8 8))⟩,
   ⟨0xFC0000FF, 0xC8000021, fun w => .clz (w.getLsbD 25) (w.getLsbD 24) (Opnd.ofCode (w.extractLsb' 16 8)) (Opnd.ofCode (w.extractLsb' 8 8))⟩,
   ⟨0xFC0000FF, 0xC8000022, fun w => .not (w.getLsbD 25) (w.getLsbD 24) (Opnd.ofCode (w.extractLsb' 16 8)) (Opnd.ofCode (w.extractLsb' 8 8))⟩,
   ⟨0xFF0100FF, 0xCE000000, fun w => .slotc (w.extractLsb' 20 4) (w.extractLsb' 18 2) (w.extractLsb' 17 1) (w.extractLsb' 8 8)⟩,
   ⟨0xFD0FFFFF, 0xCC000001, fun w => .slotr (w.getLsbD 25) (w.extractLsb' 20 4)⟩,
   ⟨0xFD0F00FF, 0xCC000002, fun w => .slotw (w.getLsbD 25) (w.extractLsb' 20 4) (Opnd.ofCode (w.extractLsb' 8 8))⟩]

/-- Rows 105 to 119 of the words. -/
def rows7 : List Row :=
  [⟨0xFD0000FF, 0xCC000004, fun w => .slotl (w.getLsbD 25) (w.extractLsb' 20 4) (w.extractLsb' 16 4) (Opnd.ofCode (w.extractLsb' 8 8))⟩,
   ⟨0xFD0000FF, 0xCC000005, fun w => .slott (w.getLsbD 25) (w.extractLsb' 20 4) (w.extractLsb' 16 4) (Opnd.ofCode (w.extractLsb' 8 8))⟩,
   ⟨0xFD00F8FF, 0xCC000008, fun w => .prune (w.getLsbD 25) (w.extractLsb' 20 4) (w.extractLsb' 16 4) (w.extractLsb' 8 3)⟩,
   ⟨0xFDFCFFFC, 0xCC000010, fun w => .accz (w.getLsbD 25) (w.extractLsb' 17 1) (w.extractLsb' 16 1) (w.extractLsb' 0 2)⟩,
   ⟨0xFD00FFFC, 0xCC000020, fun w => .mmaS (w.getLsbD 25) (w.extractLsb' 20 4) (w.extractLsb' 16 4) (w.extractLsb' 0 2)⟩,
   ⟨0xFD00FFFC, 0xCC000024, fun w => .mmaX (w.getLsbD 25) (w.extractLsb' 20 4) (w.extractLsb' 16 4) (w.extractLsb' 0 2)⟩,
   ⟨0xFD00FEFC, 0xCC000028, fun w => .mmaSp (w.getLsbD 25) (w.extractLsb' 20 4) (w.extractLsb' 16 4) (w.extractLsb' 8 1) (w.extractLsb' 0 2)⟩,
   ⟨0xFD0001FC, 0xCC000030, fun w => .mmav (w.getLsbD 25) (w.extractLsb' 20 4) (w.extractLsb' 16 4) (w.extractLsb' 13 3) (w.extractLsb' 10 3) (w.extractLsb' 9 1) (w.extractLsb' 0 2)⟩,
   ⟨0xFC0000FC, 0xCC000040, fun w => .accr (w.getLsbD 25) (w.getLsbD 24) (Opnd.ofCode (w.extractLsb' 16 8)) (Opnd.ofCode (w.extractLsb' 8 8)) (w.extractLsb' 0 2)⟩,
   ⟨0xFD0000FC, 0xCC000044, fun w => .accw (w.getLsbD 25) (Opnd.ofCode (w.extractLsb' 16 8)) (Opnd.ofCode (w.extractLsb' 8 8)) (w.extractLsb' 0 2)⟩,
   ⟨0xFD0000FF, 0xCC000080, fun w => .topkR (w.getLsbD 25) (w.extractLsb' 20 4) (w.extractLsb' 16 4) (w.extractLsb' 13 3) (w.extractLsb' 8 5)⟩,
   ⟨0xFD0000FF, 0xCC000081, fun w => .topkC (w.getLsbD 25) (w.extractLsb' 20 4) (w.extractLsb' 16 4) (w.extractLsb' 13 3) (w.extractLsb' 8 5)⟩,
   ⟨0xFD0000F8, 0xCC0000A0, fun w => .rqpush (w.getLsbD 25) (Opnd.ofCode (w.extractLsb' 16 8)) (Opnd.ofCode (w.extractLsb' 8 8)) (w.extractLsb' 0 3)⟩,
   ⟨0xFE0000F8, 0xCE0000A8, fun w => .rqwait (w.getLsbD 24) (Opnd.ofCode (w.extractLsb' 16 8)) (Opnd.ofCode (w.extractLsb' 8 8)) (w.extractLsb' 0 3)⟩,
   ⟨0xFC0000F8, 0xD0000000, fun w => .spld (w.getLsbD 25) (w.getLsbD 24) (Opnd.ofCode (w.extractLsb' 16 8)) (Opnd.ofCode (w.extractLsb' 8 8)) (w.extractLsb' 0 3)⟩]

/-- Rows 120 to 134 of the words. -/
def rows8 : List Row :=
  [⟨0xFD0000F8, 0xD0000008, fun w => .spst (w.getLsbD 25) (Opnd.ofCode (w.extractLsb' 16 8)) (Opnd.ofCode (w.extractLsb' 8 8)) (w.extractLsb' 0 3)⟩,
   ⟨0xFD0000F8, 0xD0000010, fun w => .spadd (w.getLsbD 25) (Opnd.ofCode (w.extractLsb' 16 8)) (Opnd.ofCode (w.extractLsb' 8 8)) (w.extractLsb' 0 3)⟩,
   ⟨0xFD0000F8, 0xD0000018, fun w => .spit (w.getLsbD 25) (Opnd.ofCode (w.extractLsb' 16 8)) (Opnd.ofCode (w.extractLsb' 8 8)) (w.extractLsb' 0 3)⟩,
   ⟨0xFD00FFF8, 0xD0000020, fun w => .spcnt (w.getLsbD 25) (Opnd.ofCode (w.extractLsb' 16 8)) (w.extractLsb' 0 3)⟩,
   ⟨0xFC0000F8, 0xD0000028, fun w => .spgrow (w.getLsbD 25) (w.getLsbD 24) (Opnd.ofCode (w.extractLsb' 16 8)) (Opnd.ofCode (w.extractLsb' 8 8)) (w.extractLsb' 0 3)⟩,
   ⟨0xFC00FFF8, 0xD0000040, fun w => .tnew (w.getLsbD 25) (w.getLsbD 24) (Opnd.ofCode (w.extractLsb' 16 8)) (w.extractLsb' 0 3)⟩,
   ⟨0xFC00FFF8, 0xD0000048, fun w => .tdesc (w.getLsbD 25) (w.getLsbD 24) (Opnd.ofCode (w.extractLsb' 16 8)) (w.extractLsb' 0 3)⟩,
   ⟨0xFC0000F8, 0xD0000050, fun w => .texp (w.getLsbD 25) (w.getLsbD 24) (Opnd.ofCode (w.extractLsb' 16 8)) (Opnd.ofCode (w.extractLsb' 8 8)) (w.extractLsb' 0 3)⟩,
   ⟨0xFD00F8F8, 0xD0000058, fun w => .tback (w.getLsbD 25) (Opnd.ofCode (w.extractLsb' 16 8)) (w.extractLsb' 8 3) (w.extractLsb' 0 3)⟩,
   ⟨0xFDF800F8, 0xD0000060, fun w => .treuse (w.getLsbD 25) (w.extractLsb' 16 3) (Opnd.ofCode (w.extractLsb' 8 8)) (w.extractLsb' 0 3)⟩,
   ⟨0xFD0000F8, 0xD0000068, fun w => .trd (w.getLsbD 25) (Opnd.ofCode (w.extractLsb' 16 8)) (Opnd.ofCode (w.extractLsb' 8 8)) (w.extractLsb' 0 3)⟩,
   ⟨0xFC0000F8, 0xD0000070, fun w => .tgrow (w.getLsbD 25) (w.getLsbD 24) (Opnd.ofCode (w.extractLsb' 16 8)) (Opnd.ofCode (w.extractLsb' 8 8)) (w.extractLsb' 0 3)⟩,
   ⟨0xFFFF00FF, 0xD6000000, fun w => .bar (Opnd.ofCode (w.extractLsb' 8 8))⟩,
   ⟨0xFC0000FF, 0xD4000001, fun w => .barArr (w.getLsbD 25) (w.getLsbD 24) (Opnd.ofCode (w.extractLsb' 16 8)) (Opnd.ofCode (w.extractLsb' 8 8))⟩,
   ⟨0xFFFF00FF, 0xD6000002, fun w => .barWt (Opnd.ofCode (w.extractLsb' 8 8))⟩]

/-- Rows 135 to 149 of the words. -/
def rows9 : List Row :=
  [⟨0xFF00FFFF, 0xD6000003, fun w => .gbar (Opnd.ofCode (w.extractLsb' 16 8))⟩,
   ⟨0xFFFF00FF, 0xD6000090, fun w => .wfeFull (Opnd.ofCode (w.extractLsb' 8 8))⟩,
   ⟨0xFFFF00FF, 0xD6000091, fun w => .wfeEmpty (Opnd.ofCode (w.extractLsb' 8 8))⟩,
   ⟨0xFD0000FF, 0xD40000A0, fun w => .collArAdd (w.getLsbD 25) (w.extractLsb' 20 4) (w.extractLsb' 16 4) (w.extractLsb' 13 3) (w.extractLsb' 8 5)⟩,
   ⟨0xFD0000FF, 0xD40000A1, fun w => .collArMin (w.getLsbD 25) (w.extractLsb' 20 4) (w.extractLsb' 16 4) (w.extractLsb' 13 3) (w.extractLsb' 8 5)⟩,
   ⟨0xFD0000FF, 0xD40000A2, fun w => .collArMax (w.getLsbD 25) (w.extractLsb' 20 4) (w.extractLsb' 16 4) (w.extractLsb' 13 3) (w.extractLsb' 8 5)⟩,
   ⟨0xFD0000FF, 0xD40000A4, fun w => .collRsAdd (w.getLsbD 25) (w.extractLsb' 20 4) (w.extractLsb' 16 4) (w.extractLsb' 13 3) (w.extractLsb' 8 5)⟩,
   ⟨0xFD0000FF, 0xD40000A5, fun w => .collRsMin (w.getLsbD 25) (w.extractLsb' 20 4) (w.extractLsb' 16 4) (w.extractLsb' 13 3) (w.extractLsb' 8 5)⟩,
   ⟨0xFD0000FF, 0xD40000A6, fun w => .collRsMax (w.getLsbD 25) (w.extractLsb' 20 4) (w.extractLsb' 16 4) (w.extractLsb' 13 3) (w.extractLsb' 8 5)⟩,
   ⟨0xFD0000FF, 0xD40000A8, fun w => .collAg (w.getLsbD 25) (w.extractLsb' 20 4) (w.extractLsb' 16 4) (w.extractLsb' 13 3) (w.extractLsb' 8 5)⟩,
   ⟨0xFD0000FF, 0xD40000A9, fun w => .collA2a (w.getLsbD 25) (w.extractLsb' 20 4) (w.extractLsb' 16 4) (w.extractLsb' 13 3) (w.extractLsb' 8 5)⟩,
   ⟨0xFDFF00FF, 0xD40000B0, fun w => .psetReform (w.getLsbD 25) (w.extractLsb' 13 3) (w.extractLsb' 8 5)⟩,
   ⟨0xFC0000FF, 0xD40000B1, fun w => .psetStatus (w.getLsbD 25) (w.getLsbD 24) (Opnd.ofCode (w.extractLsb' 16 8)) (Opnd.ofCode (w.extractLsb' 8 8))⟩,
   ⟨0xFFFFFCFF, 0xDA000000, fun w => .xacq (w.extractLsb' 8 2)⟩,
   ⟨0xFDFFFCFF, 0xD8000001, fun w => .xrel (w.getLsbD 25) (w.extractLsb' 8 2)⟩]

/-- Rows 150 to 164 of the words. -/
def rows10 : List Row :=
  [⟨0xFD00F8FF, 0xD8000002, fun w => .rtag (w.getLsbD 25) (Opnd.ofCode (w.extractLsb' 16 8)) (w.extractLsb' 8 3)⟩,
   ⟨0xFD00FFFF, 0xD8000003, fun w => .rdrop (w.getLsbD 25) (Opnd.ofCode (w.extractLsb' 16 8))⟩,
   ⟨0xFD00FFFF, 0xD8000004, fun w => .rfree (w.getLsbD 25) (Opnd.ofCode (w.extractLsb' 16 8))⟩,
   ⟨0xFC0000FF, 0xD8000005, fun w => .sealRange (w.getLsbD 25) (w.getLsbD 24) (Opnd.ofCode (w.extractLsb' 16 8)) (Opnd.ofCode (w.extractLsb' 8 8))⟩,
   ⟨0xFDFF00FF, 0xD8000006, fun w => .unsealRange (w.getLsbD 25) (Opnd.ofCode (w.extractLsb' 8 8))⟩,
   ⟨0xFDF800FF, 0xD8000020, fun w => .launch (w.getLsbD 25) (w.extractLsb' 16 3) (Opnd.ofCode (w.extractLsb' 8 8))⟩,
   ⟨0xFD0000FF, 0xD8000021, fun w => .item (w.getLsbD 25) (Opnd.ofCode (w.extractLsb' 16 8)) (Opnd.ofCode (w.extractLsb' 8 8))⟩,
   ⟨0xFC0000FF, 0xD8000022, fun w => .task (w.getLsbD 25) (w.getLsbD 24) (Opnd.ofCode (w.extractLsb' 16 8)) (Opnd.ofCode (w.extractLsb' 8 8))⟩,
   ⟨0xFD0000FF, 0xD8000023, fun w => .depDec (w.getLsbD 25) (Opnd.ofCode (w.extractLsb' 16 8)) (Opnd.ofCode (w.extractLsb' 8 8))⟩,
   ⟨0xFFFFFFFF, 0xDA000024, fun _ => .yield⟩,
   ⟨0xFC00F0FF, 0xD8000025, fun w => .gid (w.getLsbD 25) (w.getLsbD 24) (Opnd.ofCode (w.extractLsb' 16 8)) (w.extractLsb' 8 4)⟩,
   ⟨0xFFFFFFFF, 0xDA000028, fun _ => .fuse⟩,
   ⟨0xFF00FFFF, 0xDA000029, fun w => .split (Opnd.ofCode (w.extractLsb' 16 8))⟩,
   ⟨0xFDF000FF, 0xD8000060, fun w => .shld (w.getLsbD 25) (w.extractLsb' 16 4) (Opnd.ofCode (w.extractLsb' 8 8))⟩,
   ⟨0xFDF000FF, 0xD8000061, fun w => .shst (w.getLsbD 25) (w.extractLsb' 16 4) (Opnd.ofCode (w.extractLsb' 8 8))⟩]

/-- Rows 165 to 179 of the words. -/
def rows11 : List Row :=
  [⟨0xFD0000FF, 0xD8000062, fun w => .shset (w.getLsbD 25) (w.extractLsb' 20 4) (w.extractLsb' 16 4) (Opnd.ofCode (w.extractLsb' 8 8))⟩,
   ⟨0xFDF8C0FF, 0xD8000070, fun w => .qand (w.getLsbD 25) (w.extractLsb' 16 3) (w.extractLsb' 11 3) (w.extractLsb' 8 3)⟩,
   ⟨0xFDF8C0FF, 0xD8000071, fun w => .qor (w.getLsbD 25) (w.extractLsb' 16 3) (w.extractLsb' 11 3) (w.extractLsb' 8 3)⟩,
   ⟨0xFDF8F8FF, 0xD8000072, fun w => .qnot (w.getLsbD 25) (w.extractLsb' 16 3) (w.extractLsb' 8 3)⟩,
   ⟨0xFDF8F8FF, 0xD8000073, fun w => .qisT (w.getLsbD 25) (w.extractLsb' 16 3) (w.extractLsb' 8 3)⟩,
   ⟨0xFDF8F8FF, 0xD8000074, fun w => .qisU (w.getLsbD 25) (w.extractLsb' 16 3) (w.extractLsb' 8 3)⟩,
   ⟨0xFDF8F8FF, 0xD8000075, fun w => .qisF (w.getLsbD 25) (w.extractLsb' 16 3) (w.extractLsb' 8 3)⟩,
   ⟨0xFDF8F8FF, 0xD8000076, fun w => .qmov (w.getLsbD 25) (w.extractLsb' 16 3) (w.extractLsb' 8 3)⟩,
   ⟨0xFDFFFFFF, 0xDC000000, fun w => .nop (w.getLsbD 25)⟩,
   ⟨0xFDFF00FF, 0xDC000001, fun w => .trap (w.getLsbD 25) (w.extractLsb' 8 8)⟩,
   ⟨0xFFFFFFFF, 0xDE000002, fun _ => .rth⟩,
   ⟨0xFFFFFFFF, 0xDE000003, fun _ => .kill⟩,
   ⟨0xFC0000FF, 0xDC000020, fun w => .csrr (w.getLsbD 25) (w.getLsbD 24) (Opnd.ofCode (w.extractLsb' 16 8)) (w.extractLsb' 8 8)⟩,
   ⟨0xFD0000FF, 0xDC000021, fun w => .csrw (w.getLsbD 25) (w.extractLsb' 16 8) (Opnd.ofCode (w.extractLsb' 8 8))⟩,
   ⟨0xFDFFFFFF, 0xDC000030, fun w => .snap (w.getLsbD 25)⟩]

/-- Every row that has a word. -/
def rows : List Row :=
  rows0 ++ rows1 ++ rows2 ++ rows3 ++ rows4 ++ rows5 ++ rows6 ++ rows7 ++ rows8 ++ rows9 ++ rows10 ++ rows11

/-- The word belongs to the row. -/
def Row.hits (r : Row) (w : Word) : Bool := (w &&& r.mask) == r.bits

/-- The instruction that a word holds, or why it holds none. -/
def decode (w : Word) : Except Reject Instr :=
  match rows.find? (·.hits w) with
  | some r => .ok (r.build w)
  | none =>
    let op := w.extractLsb' 26 6
    if op = 0 ∨ 0x39 ≤ op.toNat then .error (.reservedMajor op) else .error (.reservedWord w)

/-- A field of a word, at its lowest bit. -/
def put {n : Nat} (lo : Nat) (x : BitVec n) : Word := x.setWidth 32 <<< lo

/-- A one-bit field of a word. -/
def putBit (lo : Nat) (x : Bool) : Word := (BitVec.ofBool x).setWidth 32 <<< lo

/-- The word of an instruction; a step that has no word has none. -/
def encode : Instr → Option Word
  | .add e t d a b => some (0xE0000000#32 ||| putBit 25 e ||| putBit 24 t ||| put 16 d.code ||| put 8 a.code ||| put 0 b.code)
  | .sub e t d a b => some (0x04000000#32 ||| putBit 25 e ||| putBit 24 t ||| put 16 d.code ||| put 8 a.code ||| put 0 b.code)
  | .mul e t d a b => some (0x08000000#32 ||| putBit 25 e ||| putBit 24 t ||| put 16 d.code ||| put 8 a.code ||| put 0 b.code)
  | .fma e t d a b => some (0x0C000000#32 ||| putBit 25 e ||| putBit 24 t ||| put 16 d.code ||| put 8 a.code ||| put 0 b.code)
  | .fms e t d a b => some (0x10000000#32 ||| putBit 25 e ||| putBit 24 t ||| put 16 d.code ||| put 8 a.code ||| put 0 b.code)
  | .min e t d a b => some (0x14000000#32 ||| putBit 25 e ||| putBit 24 t ||| put 16 d.code ||| put 8 a.code ||| put 0 b.code)
  | .max e t d a b => some (0x18000000#32 ||| putBit 25 e ||| putBit 24 t ||| put 16 d.code ||| put 8 a.code ||| put 0 b.code)
  | .div e t d a b => some (0x1C000000#32 ||| putBit 25 e ||| putBit 24 t ||| put 16 d.code ||| put 8 a.code ||| put 0 b.code)
  | .and e t d a b => some (0x20000000#32 ||| putBit 25 e ||| putBit 24 t ||| put 16 d.code ||| put 8 a.code ||| put 0 b.code)
  | .or e t d a b => some (0x24000000#32 ||| putBit 25 e ||| putBit 24 t ||| put 16 d.code ||| put 8 a.code ||| put 0 b.code)
  | .xor e t d a b => some (0x28000000#32 ||| putBit 25 e ||| putBit 24 t ||| put 16 d.code ||| put 8 a.code ||| put 0 b.code)
  | .shl e t d a b => some (0x2C000000#32 ||| putBit 25 e ||| putBit 24 t ||| put 16 d.code ||| put 8 a.code ||| put 0 b.code)
  | .shr e t d a b => some (0x30000000#32 ||| putBit 25 e ||| putBit 24 t ||| put 16 d.code ||| put 8 a.code ||| put 0 b.code)
  | .sar e t d a b => some (0x34000000#32 ||| putBit 25 e ||| putBit 24 t ||| put 16 d.code ||| put 8 a.code ||| put 0 b.code)
  | .coal e t d a b => some (0x38000000#32 ||| putBit 25 e ||| putBit 24 t ||| put 16 d.code ||| put 8 a.code ||| put 0 b.code)
  | .cmp e r q a b => some (0x3C000000#32 ||| putBit 25 e ||| put 19 r ||| put 16 q ||| put 8 a.code ||| put 0 b.code)
  | .sel e t d a b => some (0x40000000#32 ||| putBit 25 e ||| putBit 24 t ||| put 16 d.code ||| put 8 a.code ||| put 0 b.code)
  | .mulhi e t d a b => some (0x44000000#32 ||| putBit 25 e ||| putBit 24 t ||| put 16 d.code ||| put 8 a.code ||| put 0 b.code)
  | .dot e d a b => some (0x48000000#32 ||| putBit 25 e ||| put 16 d.code ||| put 8 a.code ||| put 0 b.code)
  | .lrd e t d a b => some (0x4C000000#32 ||| putBit 25 e ||| putBit 24 t ||| put 16 d.code ||| put 8 a.code ||| put 0 b.code)
  | .ld e t d a b => some (0x50000000#32 ||| putBit 25 e ||| putBit 24 t ||| put 16 d.code ||| put 8 a.code ||| put 0 b.code)
  | .st e d a b => some (0x54000000#32 ||| putBit 25 e ||| put 16 d.code ||| put 8 a.code ||| put 0 b.code)
  | .ldfe d a c => some (0x5A000000#32 ||| put 16 d.code ||| put 8 a.code ||| put 0 c)
  | .stfe e d a b => some (0x5C000000#32 ||| putBit 25 e ||| put 16 d.code ||| put 8 a.code ||| put 0 b.code)
  | .ldo e t d a o m => some (0x60000000#32 ||| putBit 25 e ||| putBit 24 t ||| put 16 d.code ||| put 8 a.code ||| put 6 o ||| put 0 m)
  | .sto e d a o m => some (0x64000000#32 ||| putBit 25 e ||| put 16 d.code ||| put 8 a.code ||| put 6 o ||| put 0 m)
  | .li e t d i => some (0x68000000#32 ||| putBit 25 e ||| putBit 24 t ||| put 16 d.code ||| put 0 i)
  | .lih e t d i => some (0x6C000000#32 ||| putBit 25 e ||| putBit 24 t ||| put 16 d.code ||| put 0 i)
  | .addi e t d i => some (0x70000000#32 ||| putBit 25 e ||| putBit 24 t ||| put 16 d.code ||| put 0 i)
  | .mode e p => some (0x74000000#32 ||| putBit 25 e ||| put 0 p)
  | .cvt e t d a f => some (0x78000000#32 ||| putBit 25 e ||| putBit 24 t ||| put 16 d.code ||| put 8 a.code ||| put 0 f)
  | .fence e o m => some (0x7C000000#32 ||| putBit 25 e ||| put 6 o ||| put 0 m)
  | .bra e c q x => some (0x80000000#32 ||| putBit 25 e ||| put 20 c ||| put 17 q ||| put 0 x)
  | .call e x => some (0x84000000#32 ||| putBit 25 e ||| put 0 x)
  | .ift e q s x => some (0x88000000#32 ||| putBit 25 e ||| put 21 q ||| put 19 s ||| put 0 x)
  | .els e x => some (0x8C000000#32 ||| putBit 25 e ||| put 0 x)
  | .uarm e x => some (0x90000000#32 ||| putBit 25 e ||| put 0 x)
  | .endif e => some (0x94000000#32 ||| putBit 25 e)
  | .jmp e a => some (0x98000000#32 ||| putBit 25 e ||| put 8 a.code)
  | .exit e => some (0x9C000000#32 ||| putBit 25 e)
  | .aadd e t d a o m => some (0xA0000000#32 ||| putBit 25 e ||| putBit 24 t ||| put 16 d.code ||| put 8 a.code ||| put 6 o ||| put 0 m)
  | .amin e t d a o m => some (0xA4000000#32 ||| putBit 25 e ||| putBit 24 t ||| put 16 d.code ||| put 8 a.code ||| put 6 o ||| put 0 m)
  | .amax e t d a o m => some (0xA8000000#32 ||| putBit 25 e ||| putBit 24 t ||| put 16 d.code ||| put 8 a.code ||| put 6 o ||| put 0 m)
  | .aand e t d a o m => some (0xAC000000#32 ||| putBit 25 e ||| putBit 24 t ||| put 16 d.code ||| put 8 a.code ||| put 6 o ||| put 0 m)
  | .aor e t d a o m => some (0xB0000000#32 ||| putBit 25 e ||| putBit 24 t ||| put 16 d.code ||| put 8 a.code ||| put 6 o ||| put 0 m)
  | .axch e t d a o m => some (0xB4000000#32 ||| putBit 25 e ||| putBit 24 t ||| put 16 d.code ||| put 8 a.code ||| put 6 o ||| put 0 m)
  | .acas e t d a o m => some (0xB8000000#32 ||| putBit 25 e ||| putBit 24 t ||| put 16 d.code ||| put 8 a.code ||| put 6 o ||| put 0 m)
  | .axor e t d a o m => some (0xBC000000#32 ||| putBit 25 e ||| putBit 24 t ||| put 16 d.code ||| put 8 a.code ||| put 6 o ||| put 0 m)
  | .copyIn e d s l => some (0xC0000000#32 ||| putBit 25 e ||| put 20 d ||| put 16 s ||| put 13 l)
  | .copyOut e d s l => some (0xC0000001#32 ||| putBit 25 e ||| put 20 d ||| put 16 s ||| put 13 l)
  | .copyOutz e d s l => some (0xC0000002#32 ||| putBit 25 e ||| put 20 d ||| put 16 s ||| put 13 l)
  | .copyNn e d s l => some (0xC0000003#32 ||| putBit 25 e ||| put 20 d ||| put 16 s ||| put 13 l)
  | .copyRdAdd e d s l => some (0xC0000004#32 ||| putBit 25 e ||| put 20 d ||| put 16 s ||| put 13 l)
  | .copyRdMin e d s l => some (0xC0000005#32 ||| putBit 25 e ||| put 20 d ||| put 16 s ||| put 13 l)
  | .copyRdMax e d s l => some (0xC0000006#32 ||| putBit 25 e ||| put 20 d ||| put 16 s ||| put 13 l)
  | .copyGth e d s l n => some (0xC0000008#32 ||| putBit 25 e ||| put 20 d ||| put 16 s ||| put 13 l ||| put 8 n)
  | .copySct e d s l n => some (0xC0000009#32 ||| putBit 25 e ||| put 20 d ||| put 16 s ||| put 13 l ||| put 8 n)
  | .copyBlk e d s l n => some (0xC000000A#32 ||| putBit 25 e ||| put 20 d ||| put 16 s ||| put 13 l ||| put 8 n)
  | .copyDns e d s l => some (0xC000000B#32 ||| putBit 25 e ||| put 20 d ||| put 16 s ||| put 13 l)
  | .copyMig e s l n => some (0xC000000C#32 ||| putBit 25 e ||| put 16 s ||| put 13 l ||| put 8 n)
  | .fetch e d s l n => some (0xC0000040#32 ||| putBit 25 e ||| put 20 d ||| put 16 s ||| put 13 l ||| put 8 n)
  | .fetchLst e d s l n => some (0xC0000041#32 ||| putBit 25 e ||| put 20 d ||| put 16 s ||| put 13 l ||| put 8 n)
  | .tlbind d l n => some (0xC2000060#32 ||| put 16 d.code ||| put 13 l ||| put 8 n)
  | .tlwait l n => some (0xC2000061#32 ||| put 13 l ||| put 8 n)
  | .tlread e d l => some (0xC0000062#32 ||| putBit 25 e ||| put 16 d.code ||| put 13 l)
  | .redAdd e d a => some (0xC4000000#32 ||| putBit 25 e ||| put 16 d.code ||| put 8 a.code)
  | .redMin e d a => some (0xC4000001#32 ||| putBit 25 e ||| put 16 d.code ||| put 8 a.code)
  | .redMax e d a => some (0xC4000002#32 ||| putBit 25 e ||| put 16 d.code ||| put 8 a.code)
  | .redAnd e d a => some (0xC4000003#32 ||| putBit 25 e ||| put 16 d.code ||| put 8 a.code)
  | .redOr e d a => some (0xC4000004#32 ||| putBit 25 e ||| put 16 d.code ||| put 8 a.code)
  | .redCnt e d a => some (0xC4000005#32 ||| putBit 25 e ||| put 16 d.code ||| put 8 a.code)
  | .scanAdd e t d a => some (0xC4000008#32 ||| putBit 25 e ||| putBit 24 t ||| put 16 d.code ||| put 8 a.code)
  | .scanAddx e t d a => some (0xC4000009#32 ||| putBit 25 e ||| putBit 24 t ||| put 16 d.code ||| put 8 a.code)
  | .scanMax e t d a => some (0xC400000A#32 ||| putBit 25 e ||| putBit 24 t ||| put 16 d.code ||| put 8 a.code)
  | .matchLanes e d a => some (0xC4000010#32 ||| putBit 25 e ||| put 16 d.code ||| put 8 a.code)
  | .voteT e t d q => some (0xC4000018#32 ||| putBit 25 e ||| putBit 24 t ||| put 16 d.code ||| put 8 q)
  | .voteF e t d q => some (0xC4000019#32 ||| putBit 25 e ||| putBit 24 t ||| put 16 d.code ||| put 8 q)
  | .voteU e t d q => some (0xC400001A#32 ||| putBit 25 e ||| putBit 24 t ||| put 16 d.code ||| put 8 q)
  | .lidx e t d => some (0xC4000020#32 ||| putBit 25 e ||| putBit 24 t ||| put 16 d.code)
  | .bcast e t d a L => some (0xC4000040#32 ||| putBit 25 e ||| putBit 24 t ||| put 16 d.code ||| put 8 a.code ||| put 0 L)
  | .mov e t d a => some (0xC8000000#32 ||| putBit 25 e ||| putBit 24 t ||| put 16 d.code ||| put 8 a.code)
  | .neg e t d a => some (0xC8000001#32 ||| putBit 25 e ||| putBit 24 t ||| put 16 d.code ||| put 8 a.code)
  | .abs e t d a => some (0xC8000002#32 ||| putBit 25 e ||| putBit 24 t ||| put 16 d.code ||| put 8 a.code)
  | .isna e d a => some (0xC8000003#32 ||| putBit 25 e ||| put 16 d ||| put 8 a.code)
  | .mkna e t d a => some (0xC8000004#32 ||| putBit 25 e ||| putBit 24 t ||| put 16 d.code ||| put 8 a.code)
  | .sqrt e t d a => some (0xC8000008#32 ||| putBit 25 e ||| putBit 24 t ||| put 16 d.code ||| put 8 a.code)
  | .rsqrt e t d a => some (0xC8000009#32 ||| putBit 25 e ||| putBit 24 t ||| put 16 d.code ||| put 8 a.code)
  | .recip e t d a => some (0xC800000A#32 ||| putBit 25 e ||| putBit 24 t ||| put 16 d.code ||| put 8 a.code)
  | .exp2 e t d a => some (0xC800000B#32 ||| putBit 25 e ||| putBit 24 t ||| put 16 d.code ||| put 8 a.code)
  | .log2 e t d a => some (0xC800000C#32 ||| putBit 25 e ||| putBit 24 t ||| put 16 d.code ||| put 8 a.code)
  | .sin e t d a => some (0xC800000D#32 ||| putBit 25 e ||| putBit 24 t ||| put 16 d.code ||| put 8 a.code)
  | .cos e t d a => some (0xC800000E#32 ||| putBit 25 e ||| putBit 24 t ||| put 16 d.code ||| put 8 a.code)
  | .tanh e t d a => some (0xC800000F#32 ||| putBit 25 e ||| putBit 24 t ||| put 16 d.code ||| put 8 a.code)
  | .sigm e t d a => some (0xC8000010#32 ||| putBit 25 e ||| putBit 24 t ||| put 16 d.code ||| put 8 a.code)
  | .floor e t d a => some (0xC8000018#32 ||| putBit 25 e ||| putBit 24 t ||| put 16 d.code ||| put 8 a.code)
  | .ceil e t d a => some (0xC8000019#32 ||| putBit 25 e ||| putBit 24 t ||| put 16 d.code ||| put 8 a.code)
  | .trunc e t d a => some (0xC800001A#32 ||| putBit 25 e ||| putBit 24 t ||| put 16 d.code ||| put 8 a.code)
  | .rint e t d a => some (0xC800001B#32 ||| putBit 25 e ||| putBit 24 t ||| put 16 d.code ||| put 8 a.code)
  | .frac e t d a => some (0xC800001C#32 ||| putBit 25 e ||| putBit 24 t ||| put 16 d.code ||| put 8 a.code)
  | .popc e t d a => some (0xC8000020#32 ||| putBit 25 e ||| putBit 24 t ||| put 16 d.code ||| put 8 a.code)
  | .clz e t d a => some (0xC8000021#32 ||| putBit 25 e ||| putBit 24 t ||| put 16 d.code ||| put 8 a.code)
  | .not e t d a => some (0xC8000022#32 ||| putBit 25 e ||| putBit 24 t ||| put 16 d.code ||| put 8 a.code)
  | .slotc s l f a => some (0xCE000000#32 ||| put 20 s ||| put 18 l ||| put 17 f ||| put 8 a)
  | .slotr e s => some (0xCC000001#32 ||| putBit 25 e ||| put 20 s)
  | .slotw e s a => some (0xCC000002#32 ||| putBit 25 e ||| put 20 s ||| put 8 a.code)
  | .slotl e s h a => some (0xCC000004#32 ||| putBit 25 e ||| put 20 s ||| put 16 h ||| put 8 a.code)
  | .slott e s h a => some (0xCC000005#32 ||| putBit 25 e ||| put 20 s ||| put 16 h ||| put 8 a.code)
  | .prune e d s p => some (0xCC000008#32 ||| putBit 25 e ||| put 20 d ||| put 16 s ||| put 8 p)
  | .accz e f k z => some (0xCC000010#32 ||| putBit 25 e ||| put 17 f ||| put 16 k ||| put 0 z)
  | .mmaS e a b z => some (0xCC000020#32 ||| putBit 25 e ||| put 20 a ||| put 16 b ||| put 0 z)
  | .mmaX e a b z => some (0xCC000024#32 ||| putBit 25 e ||| put 20 a ||| put 16 b ||| put 0 z)
  | .mmaSp e a b x z => some (0xCC000028#32 ||| putBit 25 e ||| put 20 a ||| put 16 b ||| put 8 x ||| put 0 z)
  | .mmav e v w l c x z => some (0xCC000030#32 ||| putBit 25 e ||| put 20 v ||| put 16 w ||| put 13 l ||| put 10 c ||| put 9 x ||| put 0 z)
  | .accr e t d a z => some (0xCC000040#32 ||| putBit 25 e ||| putBit 24 t ||| put 16 d.code ||| put 8 a.code ||| put 0 z)
  | .accw e d a z => some (0xCC000044#32 ||| putBit 25 e ||| put 16 d.code ||| put 8 a.code ||| put 0 z)
  | .topkR e i s l n => some (0xCC000080#32 ||| putBit 25 e ||| put 20 i ||| put 16 s ||| put 13 l ||| put 8 n)
  | .topkC e i s l n => some (0xCC000081#32 ||| putBit 25 e ||| put 20 i ||| put 16 s ||| put 13 l ||| put 8 n)
  | .rqpush e d a r => some (0xCC0000A0#32 ||| putBit 25 e ||| put 16 d.code ||| put 8 a.code ||| put 0 r)
  | .rqwait t d a r => some (0xCE0000A8#32 ||| putBit 24 t ||| put 16 d.code ||| put 8 a.code ||| put 0 r)
  | .spld e t d a h => some (0xD0000000#32 ||| putBit 25 e ||| putBit 24 t ||| put 16 d.code ||| put 8 a.code ||| put 0 h)
  | .spst e d a h => some (0xD0000008#32 ||| putBit 25 e ||| put 16 d.code ||| put 8 a.code ||| put 0 h)
  | .spadd e d a h => some (0xD0000010#32 ||| putBit 25 e ||| put 16 d.code ||| put 8 a.code ||| put 0 h)
  | .spit e d a h => some (0xD0000018#32 ||| putBit 25 e ||| put 16 d.code ||| put 8 a.code ||| put 0 h)
  | .spcnt e d h => some (0xD0000020#32 ||| putBit 25 e ||| put 16 d.code ||| put 0 h)
  | .spgrow e t d a h => some (0xD0000028#32 ||| putBit 25 e ||| putBit 24 t ||| put 16 d.code ||| put 8 a.code ||| put 0 h)
  | .tnew e t d r => some (0xD0000040#32 ||| putBit 25 e ||| putBit 24 t ||| put 16 d.code ||| put 0 r)
  | .tdesc e t d r => some (0xD0000048#32 ||| putBit 25 e ||| putBit 24 t ||| put 16 d.code ||| put 0 r)
  | .texp e t d a r => some (0xD0000050#32 ||| putBit 25 e ||| putBit 24 t ||| put 16 d.code ||| put 8 a.code ||| put 0 r)
  | .tback e d l r => some (0xD0000058#32 ||| putBit 25 e ||| put 16 d.code ||| put 8 l ||| put 0 r)
  | .treuse e l a r => some (0xD0000060#32 ||| putBit 25 e ||| put 16 l ||| put 8 a.code ||| put 0 r)
  | .trd e d a r => some (0xD0000068#32 ||| putBit 25 e ||| put 16 d.code ||| put 8 a.code ||| put 0 r)
  | .tgrow e t d a r => some (0xD0000070#32 ||| putBit 25 e ||| putBit 24 t ||| put 16 d.code ||| put 8 a.code ||| put 0 r)
  | .bar a => some (0xD6000000#32 ||| put 8 a.code)
  | .barArr e t d a => some (0xD4000001#32 ||| putBit 25 e ||| putBit 24 t ||| put 16 d.code ||| put 8 a.code)
  | .barWt a => some (0xD6000002#32 ||| put 8 a.code)
  | .gbar d => some (0xD6000003#32 ||| put 16 d.code)
  | .wfeFull a => some (0xD6000090#32 ||| put 8 a.code)
  | .wfeEmpty a => some (0xD6000091#32 ||| put 8 a.code)
  | .collArAdd e d s l n => some (0xD40000A0#32 ||| putBit 25 e ||| put 20 d ||| put 16 s ||| put 13 l ||| put 8 n)
  | .collArMin e d s l n => some (0xD40000A1#32 ||| putBit 25 e ||| put 20 d ||| put 16 s ||| put 13 l ||| put 8 n)
  | .collArMax e d s l n => some (0xD40000A2#32 ||| putBit 25 e ||| put 20 d ||| put 16 s ||| put 13 l ||| put 8 n)
  | .collRsAdd e d s l n => some (0xD40000A4#32 ||| putBit 25 e ||| put 20 d ||| put 16 s ||| put 13 l ||| put 8 n)
  | .collRsMin e d s l n => some (0xD40000A5#32 ||| putBit 25 e ||| put 20 d ||| put 16 s ||| put 13 l ||| put 8 n)
  | .collRsMax e d s l n => some (0xD40000A6#32 ||| putBit 25 e ||| put 20 d ||| put 16 s ||| put 13 l ||| put 8 n)
  | .collAg e d s l n => some (0xD40000A8#32 ||| putBit 25 e ||| put 20 d ||| put 16 s ||| put 13 l ||| put 8 n)
  | .collA2a e d s l n => some (0xD40000A9#32 ||| putBit 25 e ||| put 20 d ||| put 16 s ||| put 13 l ||| put 8 n)
  | .psetReform e l n => some (0xD40000B0#32 ||| putBit 25 e ||| put 13 l ||| put 8 n)
  | .psetStatus e t d a => some (0xD40000B1#32 ||| putBit 25 e ||| putBit 24 t ||| put 16 d.code ||| put 8 a.code)
  | .xacq u => some (0xDA000000#32 ||| put 8 u)
  | .xrel e u => some (0xD8000001#32 ||| putBit 25 e ||| put 8 u)
  | .rtag e d c => some (0xD8000002#32 ||| putBit 25 e ||| put 16 d.code ||| put 8 c)
  | .rdrop e d => some (0xD8000003#32 ||| putBit 25 e ||| put 16 d.code)
  | .rfree e d => some (0xD8000004#32 ||| putBit 25 e ||| put 16 d.code)
  | .sealRange e t d a => some (0xD8000005#32 ||| putBit 25 e ||| putBit 24 t ||| put 16 d.code ||| put 8 a.code)
  | .unsealRange e a => some (0xD8000006#32 ||| putBit 25 e ||| put 8 a.code)
  | .launch e l a => some (0xD8000020#32 ||| putBit 25 e ||| put 16 l ||| put 8 a.code)
  | .item e d a => some (0xD8000021#32 ||| putBit 25 e ||| put 16 d.code ||| put 8 a.code)
  | .task e t d a => some (0xD8000022#32 ||| putBit 25 e ||| putBit 24 t ||| put 16 d.code ||| put 8 a.code)
  | .depDec e d a => some (0xD8000023#32 ||| putBit 25 e ||| put 16 d.code ||| put 8 a.code)
  | .yield => some (0xDA000024#32)
  | .gid e t d s => some (0xD8000025#32 ||| putBit 25 e ||| putBit 24 t ||| put 16 d.code ||| put 8 s)
  | .fuse => some (0xDA000028#32)
  | .split d => some (0xDA000029#32 ||| put 16 d.code)
  | .shld e h a => some (0xD8000060#32 ||| putBit 25 e ||| put 16 h ||| put 8 a.code)
  | .shst e h a => some (0xD8000061#32 ||| putBit 25 e ||| put 16 h ||| put 8 a.code)
  | .shset e k h a => some (0xD8000062#32 ||| putBit 25 e ||| put 20 k ||| put 16 h ||| put 8 a.code)
  | .qand e d b a => some (0xD8000070#32 ||| putBit 25 e ||| put 16 d ||| put 11 b ||| put 8 a)
  | .qor e d b a => some (0xD8000071#32 ||| putBit 25 e ||| put 16 d ||| put 11 b ||| put 8 a)
  | .qnot e d a => some (0xD8000072#32 ||| putBit 25 e ||| put 16 d ||| put 8 a)
  | .qisT e d a => some (0xD8000073#32 ||| putBit 25 e ||| put 16 d ||| put 8 a)
  | .qisU e d a => some (0xD8000074#32 ||| putBit 25 e ||| put 16 d ||| put 8 a)
  | .qisF e d a => some (0xD8000075#32 ||| putBit 25 e ||| put 16 d ||| put 8 a)
  | .qmov e d a => some (0xD8000076#32 ||| putBit 25 e ||| put 16 d ||| put 8 a)
  | .nop e => some (0xDC000000#32 ||| putBit 25 e)
  | .trap e c => some (0xDC000001#32 ||| putBit 25 e ||| put 8 c)
  | .rth => some (0xDE000002#32)
  | .kill => some (0xDE000003#32)
  | .csrr e t d a => some (0xDC000020#32 ||| putBit 25 e ||| putBit 24 t ||| put 16 d.code ||| put 8 a)
  | .csrw e d a => some (0xDC000021#32 ||| putBit 25 e ||| put 16 d ||| put 8 a.code)
  | .snap e => some (0xDC000030#32 ||| putBit 25 e)
  | .createContext _ _ _ => none
  | .destroyContext => none
  | .invalidate => none
  | .pageAnswer => none
  | .preEmpt => none
  | .returnCores => none
  | .definePeerSet => none
  | .killGrid => none
  | .loadRoutingProgram => none
  | .configureQueue => none
  | .epochLength => none
  | .releaseSnapshot => none
  | .attest => none
  | .reProvision _ => none
  | .setFullEmpty => none
  | .doorbell _ _ => none
  | .apertureBaseWrite _ => none
  | .snapshotTrigger _ => none
  | .registerWrite _ _ => none
  | .hostBar2Read _ _ => none
  | .hostBar2Write _ _ => none
  | .deviceReset => none
  | .imageVerified _ => none
  | .launchRecordDispatch _ => none
  | .teamPlacement _ => none
  | .gangPlacement _ => none
  | .gangLaunchCommit _ => none
  | .gangLaunchAbort _ => none
  | .taskPlacement _ => none
  | .itemGroupForm _ _ => none
  | .itemWaitExpiry _ _ => none
  | .itemGroupPlacement _ => none
  | .teamResume _ _ => none
  | .gridRetirement _ => none
  | .teamFree _ => none
  | .issueArbitration _ _ => none
  | .issueAging _ => none
  | .faultBufferGrant _ => none
  | .timelineWaitEnd _ => none
  | .timelineLimitExpiry _ => none
  | .waitLimitExpiry _ => none
  | .fullEmptyWake _ => none
  | .frameGrant _ => none
  | .registerStarvation _ => none
  | .slotClaimGrant _ => none
  | .taskTableRoom _ => none
  | .itemQueueRoom _ => none
  | .packetQueueRoom _ => none
  | .batchWaitEnd _ => none
  | .releaseWaitEnd _ => none
  | .barrierPhaseComplete _ _ => none
  | .gbarComplete _ => none
  | .fuseRendezvous _ => none
  | .copyOperationComplete _ => none
  | .fetchOperationComplete _ => none
  | .selectOperationComplete _ => none
  | .mmavComplete _ => none
  | .lunaOperationComplete _ => none
  | .engineOperationFault _ _ _ => none
  | .collectiveComplete _ _ => none
  | .psetReformComplete _ => none
  | .peerMemberLoss _ _ _ => none
  | .admiralPacket _ => none
  | .batchRouting _ => none
  | .routingProgramTimeout _ => none
  | .trapEntry _ => none
  | .faultEscalation _ => none
  | .chrysalisSave _ => none
  | .epochEnd => none
  | .migrationComplete _ => none
  | .logicSoftError _ => none
  | .patrolScrub => none
  | .telemetryTick => none
  | .flitRetry _ => none
  | .linkOutOfService _ => none
  | .linkRecalibration _ => none
  | .hopTimeout _ => none
  | .transactionTimeout _ => none
  | .voltageDroop _ => none
  | .powerLimit _ => none
  | .thermalStretch _ => none
  | .thermalShutdown => none
  | .issuedWordFinished _ => none
  | .matrixOperationComplete _ => none
  | .sparseOperationAnswer _ => none
  | .lunaAnswer _ => none
  | .linkReturnToService _ => none

/-- The four bytes of a word, as memory holds them: little-endian (03 R46). -/
def wordBytes (w : Word) : List Byte :=
  [w.extractLsb' 0 8, w.extractLsb' 8 8, w.extractLsb' 16 8, w.extractLsb' 24 8]

/-- The word that four bytes hold: little-endian (03 R46). -/
def wordOfBytes : List Byte → Option Word
  | [a, b, c, d] => some (d ++ c ++ b ++ a)
  | _ => none

/-- The instruction that a list of bytes begins with, and the bytes after it. -/
def decodeBytes : List Byte → Option (Except Reject Instr × List Byte)
  | a :: b :: c :: d :: rest => some (decode (d ++ c ++ b ++ a), rest)
  | _ => none

/-- The instruction read from a table row's word: bit 0 is the least significant bit of the first byte, and the bits above
`nbits`, up to the 32 of every word, are 0. -/
def decodeTableWord (nbits w : Nat) : Option Instr :=
  match decodeBytes (wordBytes (BitVec.ofNat 32 (w % 2 ^ nbits))) with
  | some (.ok i, _) => some i
  | _ => none

end Sys2Proof
end

