-- ==== Sys2Proof/Machine/State.lean ====
section
/-! DEFINITION. The state of the Z940 as plain data: every piece of architectural state that the spec gives the machine,
and the state at the end of PCI Express reset (25 R370). Lists keyed by a number stand for the machine's tables; `Cells`
is the one canonical form of a sparse store (keys strictly rising, no entry equal to zero). -/

namespace Sys2Proof.Machine

/-- A sparse store: pairs of key and value, keys strictly rising, no zero value; an unlisted key reads as zero. -/
abbrev Cells (w : Nat) := List (Nat × BitVec w)

/-- Physical memory: 52-bit addresses and their bytes, in the same canonical form (DESIGN CHOICE, log 1: an unlisted byte reads 0). -/
abbrev Memory := List Host.Cell

/-- A store is in its canonical form. -/
def Cells.wf {w : Nat} : Cells w → Bool
  | [] => true
  | [(_, x)] => x != 0
  | (k, x) :: (k', x') :: rest => x != 0 && decide (k < k') && Cells.wf ((k', x') :: rest)

/-- Physical memory is in its canonical form. -/
abbrev Memory.wf (m : Memory) : Bool := Cells.wf (w := 8) m

/-- Where a byte lives: in a team's memory, or at a physical address of scratchpad or main memory. -/
inductive Loc where
  | team (t off : Nat)
  | phys (a : Nat)
  deriving DecidableEq, Repr

/-- The class of an access (13 R257): a group's, the copy engines', the other engines' of a core or die (Luna's among them, of one
class with theirs), a collective's. -/
inductive AccessClass where
  | group | copy | engine | luna | peer
  deriving DecidableEq, Repr

/-- What a release carries (13 R258, R260): the releasing group with its team, its mask, the arms of conditionals in which it
stands (14 R279), the age before which its own accesses are ordered, and the writes that it has acquired. -/
structure Release where
  group : Nat
  team : Nat
  mask : BitVec 6
  arms : List (Nat × Nat)
  age : Nat
  acquired : List Nat
  deriving DecidableEq, Repr

/-- A write that a group has acquired, by age: the classes of its later accesses that observe it (13 R258), and the arms of
conditionals in which it was acquired (14 R279). -/
structure Gain where
  age : Nat
  classes : BitVec 6
  arms : List (Nat × Nat) := []
  deriving DecidableEq, Repr

/-- A release that a group's scoped accesses have read from, and the arms in which they did (13 R261, 14 R279). -/
structure ReadFrom where
  release : Release
  arms : List (Nat × Nat) := []
  deriving DecidableEq, Repr

/-- A write that some reader may not observe yet (24 R363): its age; its class, issuing group and operation of an engine; the
arms of conditionals that it was made in; its bytes' place, and what stood there before it; whether it is an atomic's (13 R258), or
an update of what stood there, an atomic's or a `copy.rd`'s (06 R120); the releases that it makes, and whether every reader observes
it by now. -/
structure Write where
  age : Nat
  cls : AccessClass
  group : Nat
  op : Nat
  arms : List (Nat × Nat)
  loc : Loc
  old : List Byte
  atomic : Bool
  update : Bool := false
  releases : List Release
  settled : Bool := false
  deriving DecidableEq, Repr

/-- Where something is released that carries no mask (24 R365): an operation's number on a timeline (06 R131); a phase of a team's
barrier and of a gang's (16 R313); the last change of a granule's full/empty bit (07 R149); a grid at its start and at its end, and
the last grid of a queue (16 R293, R299, R303); a task by context, die and entry (16 R308); a batch of a descriptor (18 R339); what
the host has acquired, and what a record of a queue's ring was rung with (25 R369). What each carries: DEDUCED, log 70. -/
inductive Point where
  | number (team tl n : Nat)
  | phase (team barrier : Nat) (phase : BitVec 32)
  | gang (grid : Nat) (phase : BitVec 32)
  | granule (loc : Loc)
  | start (grid : Nat)
  | finish (grid : Nat)
  | queue (q : Nat)
  | task (context die index : Nat)
  | batch (context desc batch : Nat)
  | host
  | rung (q slot : Nat)
  deriving DecidableEq, Repr

/-- What a point carries: the writes that are ordered before whatever acquires there, by age. -/
structure Sync where
  point : Point
  ages : List Nat
  deriving DecidableEq, Repr

/-- A fault to be raised in a group (21 R351): the cause, the frame's data, the inner cause and recipe index of 0x09, the
lane of a fault that stopped at a lane (05 R108), and the element of a timeline's failure (21 R352). -/
structure FaultInfo where
  cause : BitVec 8
  data : DWord
  inner : BitVec 8 := 0
  recipe : BitVec 16 := 0xFFFF
  lane : BitVec 32 := 0xFFFFFFFF
  elem : DWord := 0x8000000000000000
  deriving DecidableEq, Repr

/-- A bypass latch (03 R54): empty; a result with its kind (`vec` for a vector result), 64 bits a lane, a scalar in
lane 0; or pending on the queued word that has the tag (21 R344). -/
inductive Latch where
  | empty
  | full (vec : Bool) (vals : Cells 64)
  | pending (vec : Bool) (tag : Nat)
  deriving DecidableEq, Repr

/-- An entry of the replay queue (21 R345). `vec` is the kind (03 R52) the word was issued with; `tag` names the latch
that waits for it; `held` is true once `rth` or a suspension has put it in the queue with its operands captured. -/
structure Entry where
  word : Word
  addr : DWord
  valid : Bool := true
  faulting : Bool := false
  captured : BitVec 3 := 0
  active : BitVec 64
  mode : BitVec 25
  first : Nat := 0
  cond0 : BitVec 128 := 0
  cond1 : BitVec 128 := 0
  slotA : Cells 64 := []
  slotB : Cells 64 := []
  slotD : Cells 64 := []
  vec : Bool := false
  bcast : BitVec 3 := 0          -- the slots that hold a scalar latch read by a vector word
  whole : BitVec 64 := 0         -- as a word is executed: the set `active`, its lanes below the first one included
  tag : Nat := 0
  lanesDone : BitVec 64 := 0     -- the lanes already applied while others were parked (04 R71)
  partials : Cells 64 := []      -- their results
  deriving DecidableEq, Repr

/-- What a group waits for. -/
inductive Wait where
  | page (pages : List Nat) (granted : Bool) (lines : List Nat) (die holder : Nat)   -- parked on page requests (04 R71, R72):
      -- the lines it waits for in the fault buffer of a die, `granted` once it has its entries; the holder's code of 25 R377
  | fetch (page : Nat) (granted : Bool) (die : Nat)   -- the next word cannot be fetched yet (14 R276)
  | unit (k : Nat)                                -- xacq (08 R155)
  | replay (k : Nat)                              -- a replay that needs a frame (08 R165)
  | split                                         -- split needs frames (14 R288)
  | fuse                                          -- fuse waits for its sibling (14 R287)
  | release                                       -- a release that names C or X (13 R259)
  | items                                         -- item needs queue room (16 R304)
  | packets                                       -- rqpush needs queue room (18 R330)
  | taskRoom                                      -- task needs a table entry (16 R307)
  | fullEmpty                                     -- ldfe and wfe (07 R146)
  | timeline (tl : Nat)                           -- tlwait and tlbind (06 R129)
  | bar (barrier : Nat) (phase : BitVec 32)       -- bar and bar.wt (16 R311)
  | gbar (phase : BitVec 32)                      -- gbar (16 R312)
  | slotClaim                                     -- slotc (11 R212)
  | batch                                         -- rqwait (18 R338)
  | sparse (die : Nat) (word : Word) (addr : DWord)   -- the answer of the index unit of a die to a word at an address (05 R89, R98)
  | luna (die : Nat) (word : Word) (addr : DWord)     -- the answer of the Luna of a die (12 R229, R247)
  deriving DecidableEq, Repr

/-- A live recipe (08 R159): its number, words, captured mode and `em`, target register, depth bit and the seal entries
that its `ld` words reach. -/
structure Recipe where
  index : Nat
  words : List Word
  mode : BitVec 25
  em : BitVec 64
  target : Nat
  depth : Bool
  seals : List Nat
  deriving DecidableEq, Repr

/-- A group (08 R150, 14 R274, 16 R292). -/
structure Group where
  id : Nat
  team : Nat                       -- the team's identifier
  index : Nat                      -- group index in the team
  width : Nat                      -- 8, 16, 32 or 64 lanes
  pc : DWord
  em : BitVec 64
  mode : BitVec 25 := 0x204000
  v : Cells 32 := []               -- register × 64 + lane
  s : Cells 64 := []
  q : Cells 128 := []              -- lane i in bits [2i+1:2i]
  h : Cells 512 := []
  rng : Cells 32 := []             -- the stochastic states (02 R36)
  latch : Latch × Latch × Latch := (.empty, .empty, .empty)
  stack : List (BitVec 256) := []  -- the predicate stack, top first (14 R274)
  sibling : BitVec 32 := 0         -- the sibling record (14 R285)
  sibRetired : BitVec 4 := 0       -- the entries whose sibling has retired (14 R285)
  runCount : Nat := 0              -- words of the current run issued (03 R53)
  runWords : List Word := []       -- those words, the latest first (08 R158)
  trapWords : List Word := []      -- the words of the run that a trap interrupted (08 R158)
  trapEmpty : BitVec 3 := 0        -- the latches that were empty in their place at that trap (03 R54)
  trapUsed : BitVec 8 := 0         -- the latch byte of that trap's frame (21 R344)
  trapParts : List Entry := []     -- that trap's queue, for what a frame does not hold of its entries (21 R349)
  held : BitVec 4 := 0             -- extended units held (08 R153)
  tagged : BitVec 128 := 0         -- bit n is v(64+n) (08 R153)
  dropped : BitVec 128 := 0
  written : BitVec 128 := 0        -- written since the unit was last acquired (08 R156)
  recipes : List Recipe := []
  spillAt : Nat := 0               -- the physical address of the spill window, in its die's pool (07 R137)
  quota : Nat := 0
  handler : Bool := false          -- handler mode (21 R343)
  barToken : Option DWord := none  -- the token kept by bar (16 R311)
  lastCause : BitVec 8 := 0        -- the cause of the group's last fault (25 R377)
  pending : Option FaultInfo := none   -- a fault raised and not yet taken
  rq : List Entry := []            -- the replay queue still to re-execute, oldest first
  wait : Option Wait := none
  unfinished : List (List Nat) := []   -- the registers that each issued, unfinished word writes (08 R152)
  residency : Nat := 0             -- residency slot on the core, 0 to 31
  slot : Option Nat := none        -- the issue slot whose run the group holds
  detached : Bool := false         -- its queued word has ended its run, and finishes without an issue slot (03 R53)
  aged : Bool := false             -- ready for 4,096 cycles without winning (16 R315)
  stopped : Bool := false          -- being drained (21 R357)
  serial : Nat := 0                -- issue order of its last request for frames or slots
  granted : Bool := false          -- a frame or slot that it asked for is kept for it (08 R151, 11 R212)
  replaying : Bool := false        -- its replay has been given a frame, and has not run yet (08 R165, R167)
  acquired : List Gain := []       -- the writes that it has acquired (13 R258, 24 R365), or read (13 R262)
  fences : List Release := []      -- its release fences (13 R261)
  loose : List ReadFrom := []      -- the releases that its scoped accesses have read from (13 R261)
  arms : List (Nat × Nat) := []    -- the conditionals it stands in, by number, and the arm of each (14 R279)
  ifts : Nat := 0                  -- conditionals begun
  trapArms : List (Nat × Nat) := []    -- those that its handler has interrupted
  badRegs : List (Nat × Nat) := [] -- register lane elements with an uncorrectable error: field code and lane (21 R361)
  deriving DecidableEq, Repr

/-- A timeline's recorded failure (06 R126). -/
structure TlFailure where
  number : DWord
  elem : DWord
  cause : BitVec 8
  deriving DecidableEq, Repr

/-- A timeline (06 R126); `done` lists the numbers above `completed` whose operations are complete (06 R127). -/
structure Timeline where
  issued : DWord := 0
  completed : DWord := 0
  done : List Nat := []
  limit : BitVec 32 := 0x100000
  failure : Option TlFailure := none
  deriving DecidableEq, Repr

/-- A team barrier (16 R311); `open` is true while the phase's count came from the live groups. -/
structure Barrier where
  phase : BitVec 32 := 0
  arrivals : Nat := 0
  expected : Nat := 0
  fromLive : Bool := false
  arrived : List Nat := []        -- the groups that have arrived at the pending phase
  deriving DecidableEq, Repr

/-- A claimed slot name (11 R204 to R206): type, layout, form, 16 KiB of storage, the 64-byte sidecar. -/
structure SlotName where
  name : Nat
  type : BitVec 8
  layout : BitVec 2
  form : Bool
  store : Cells 8 := []
  sidecar : Cells 8 := []
  deriving DecidableEq, Repr

/-- An accumulator tile (11 R207): its kind code (0 while unset) and its entries, row × 128 + column. -/
structure Tile where
  kind : BitVec 8 := 0
  vals : Cells 56 := []
  deriving DecidableEq, Repr

/-- What an outstanding engine operation is. -/
inductive OpKind where
  | copy | fetch | select | mmav | luna | coll | reform | launch
  deriving DecidableEq, Repr

/-- A place of a backup walk (12 R240): the node, the sign, and the nodes that it may still take. -/
structure Walk where
  x : Nat
  neg : Bool
  fuel : Nat
  deriving DecidableEq, Repr

/-- An engine operation issued on a timeline and not yet complete (06 R111, R127): its word, the mode fields, shape
records and scalar operands copied at issue. -/
structure EngineOp where
  id : Nat
  kind : OpKind
  context : Nat
  team : Nat
  group : Nat
  core : Nat
  tl : Nat
  number : DWord
  word : Word
  mode : BitVec 25
  recs : List (BitVec 512) := []
  args : List DWord := []
  home : Option Nat := none       -- of an operation of Luna: the die of its tree (12 R229)
  child : Nat := 0                -- the child grid of a launch (16 R302)
  parked : List Nat := []         -- the pages whose answers it waits for (04 R72)
  lines : List Nat := []          -- the lines for which it holds fault-buffer entries
  asks : Option (List Nat × List Nat) := none   -- the pages and lines that it is to park on, while it lacks the entries (04 R72)
  serial : Nat := 0               -- when it was issued, or parked
  index : Nat := 0                -- the index of its group
  left : Nat := 0                 -- lanes still to apply (25 R377)
  next : Nat := 0                 -- the first element that it has not begun
  pending : List Nat := []        -- the elements below that wait for a page (04 R71, R72)
  wrote : List (Nat × Nat) := []  -- elements written to near memory, with their addresses (06 R115)
  count : Option Nat := none      -- the length of its list, once read (06 R118)
  pos : Nat := 0                  -- bytes of records formed by a `copy.outz` (06 R123)
  failed : List Nat := []         -- the pages of its accesses that the host answered failed (04 R71)
  epoch : BitVec 24 := 0          -- the peer set's epoch at issue (13 R267)
  seq : BitVec 32 := 0            -- the collective's sequence number (13 R268)
  walk : Option Walk := none      -- the walk of a `tback`'s lane that is under way (12 R240)
  acquired : List Nat := []       -- writes that it observes (06 R131)
  issueAge : Nat := 0             -- the age before which it observes its group's writes
  arms : List (Nat × Nat) := []   -- the arms of conditionals in which it was issued (14 R279)
  started : Bool := false         -- a `copy.mig` that has started its moves (06 R122)
  deriving DecidableEq, Repr

/-- The pages that an operation waits for, parked or to be parked. -/
def EngineOp.pages (o : EngineOp) : List Nat := o.parked ++ (match o.asks with | some a => a.1 | none => [])

/-- An operation waits for a page, or for entries of the fault buffer (04 R72). -/
def EngineOp.stalled (o : EngineOp) : Bool := !o.parked.isEmpty || o.asks.isSome

/-- An operation in the matrix engine, which occupies its slots and tiles until it is complete (11 R209): the operation of a
timeline that it is (an `mmav`), and, while an earlier one on a slot or tile of it holds it back, its word as issued with
its group, and the fault that it has met. -/
structure MatrixOp where
  team : Nat
  group : Nat
  slots : List Nat
  tiles : List Nat
  access : Bool := false          -- a slot load, `slotw` or a product: class X (13 R257)
  op : Option Nat := none
  todo : Option (Entry × Group) := none
  issueAge : Nat := 0             -- of one that waits: the age before which it observes its group's writes (11 R227)
  failed : Option FaultInfo := none   -- of one that has met an error: it stays until its group takes the fault (21 R343)
  deriving DecidableEq, Repr

/-- A team (16 R292, 07 R136). -/
structure Team where
  id : Nat
  grid : Nat
  linear : DWord                   -- team linear index or task handle
  origin : Nat                     -- 0 team of the grid, 1 task, 2 item group (16 R317)
  core : Nat                       -- virtual core, 128 × die + core
  groups : Nat                     -- groups at start
  width : Nat
  tiles : Nat
  mem : Cells 8 := []              -- team memory
  memFe : Cells 1 := []            -- its full/empty bits, by granule
  bad : List Nat := []             -- its 8-byte parts with an uncorrectable error, by offset (21 R361)
  memSize : Nat
  quota : Nat
  prio : Nat
  tl : List Timeline := List.replicate 8 {}
  barriers : List Barrier := List.replicate 16 {}
  slots : List SlotName := []
  accs : List Tile := []
  live : List Nat := []            -- the identifiers of its groups that have not retired
  killed : Bool := false
  draining : Bool := false         -- stopped for draining (21 R357)
  saved : Bool := false            -- held in its chrysalis image
  drainOrder : Nat := 0
  imageAt : Nat := 0               -- physical address of its image
  imageLen : Nat := 0
  savedGroups : List Group := []   -- model: what the image does not hold of its groups (DESIGN CHOICE, log 14)
  deriving DecidableEq, Repr

/-- The ticket counter of one die for one grid (16 R295): next and end index. -/
structure Ticket where
  next : Nat
  stop : Nat
  deriving DecidableEq, Repr

/-- A grid (16 R290): its launch record and its progress. -/
structure Grid where
  id : Nat                         -- the virtual grid identifier
  context : Nat
  record : List Byte               -- the 128-byte launch record
  depth : Nat
  queue : Nat                      -- 0xFFFF for a child
  ring : Nat
  parent : Option (Nat × Nat × DWord)   -- the parent's team, timeline and number (16 R302)
  parentGrid : Nat := 0
  order : Nat                      -- age of the launch
  tickets : List Ticket := []
  total : Nat := 0                 -- teams of this package
  firstTeam : Nat := 0             -- first linear index held by this package (16 R297)
  placed : Bool := false           -- a gang that has been placed
  reserved : Bool := false         -- a cross-package gang that has reserved its placement and acknowledged (16 R297)
  target : List Nat := []          -- a waiting gang's target cores (16 R296)
  retired : Nat := 0               -- teams retired
  discarded : Nat := 0             -- tasks discarded unreleased
  status : BitVec 8 := 0
  cause : BitVec 8 := 0
  ended : Bool := false            -- killed or escalated
  counts : List (Nat × Nat) := []  -- tensor identifier × 6 + event, and its count (04 R82)
  gbPhase : BitVec 32 := 0         -- the gang barrier (16 R312)
  gbArrived : List Nat := []       -- groups that have arrived, by identifier
  gbBroken : Option DWord := none  -- the failing status word, once broken
  parked : Option Nat := none      -- the page whose answer its retirement waits for (16 R300)
  failedPages : List Nat := []     -- pages of its retirement that the host answered failed
  deriving DecidableEq, Repr

/-- A task-table entry (16 R307). -/
structure TaskEntry where
  context : Nat
  die : Nat
  index : Nat
  gen : Nat
  inUse : Bool
  grid : Nat := 0
  record : List Byte := []
  counter : Nat := 0
  released : Bool := false
  placed : Bool := false
  order : Nat := 0                 -- order of release
  deriving DecidableEq, Repr

/-- A work item in a Skipper queue (16 R304); `carried` holds the writes ordered before its spawner's issue, by age. -/
structure Item where
  payload : DWord
  seed : BitVec 32
  carried : List Nat := []
  deriving DecidableEq, Repr

/-- A Skipper queue (16 R305). -/
structure ItemQueue where
  grid : Nat
  target : DWord
  items : List Item                -- oldest first
  deriving DecidableEq, Repr

/-- An item group formed and waiting for a core (16 R305). -/
structure ItemGroup where
  grid : Nat
  target : DWord
  items : List Item
  order : Nat
  deriving DecidableEq, Repr

/-- A gate packet in the Admiral's queue (18 R328); `carried` holds the writes ordered before its push, by age (18 R339). -/
structure Packet where
  context : Nat
  team : Nat                       -- virtual team linear index of the sender
  desc : DWord                     -- canonical near address of the descriptor
  bits : BitVec 128
  core : Nat := 0
  carried : List Nat := []
  deriving DecidableEq, Repr

/-- What the Admiral keeps of a descriptor that it routes for (18 R326, R331). -/
structure Routing where
  context : Nat
  desc : DWord
  batch : BitVec 32
  received : List (Nat × BitVec 32 × List Nat)   -- for the batch being received: token, logits address, the packet's `carried`
  failure : Option (BitVec 8) := none -- kept here when the descriptor is sealed (08 R163)
  deriving DecidableEq, Repr

/-- The Admiral's core, RV64IMAC with Zicsr (01 R18): program counter, registers, the reservation of `lr`, and its control
and status registers by number. -/
structure Rv where
  pc : DWord := 0
  x : Cells 64 := []
  reservation : Option Nat := none
  csr : Cells 64 := []
  deriving DecidableEq, Repr

/-- A die (01 R18). -/
structure Die where
  queues : List ItemQueue := []        -- the Skipper's queues
  formed : List ItemGroup := []
  packets : List Packet := []          -- the Admiral's queue, oldest first (18 R328)
  routing : List Routing := []
  bias : Cells 32 := []                -- the bias table, f32 (18 R326)
  biasDesc : List (Nat × Nat × DWord) := []  -- the descriptor whose biases the table holds: context and address
  rv : Rv := {}                        -- its RV64IMAC core (01 R18)
  mem : Cells 8 := []                  -- the Admiral's private memory, 1 MiB (18 R326)
  loaded : Bool := false               -- a routing program stands at 0x8_0000 (25 R380)
  buffered : Nat := 0                  -- fault-buffer entries in use (04 R72)
  luna : List Nat := []                -- the writes ordered before what its Luna has accepted, by age (12 R249)
  deriving DecidableEq, Repr

/-- A core (01 R14, R17). -/
structure Core where
  lastWon : List (Nat × Nat × Nat) := []   -- slot, class, residency slot of the last winner (16 R315)
  reserveFull : Bool := true               -- the replay reserve (08 R151)
  matrix : List MatrixOp := []             -- matrix operations outstanding, in issue order (11 R209)
  stretch : BitVec 64 := 0                 -- cycles lengthened by stretching (25 R374)
  takenFrom : List (Nat × Nat) := []       -- the contexts it is taken from, each with the order (21 R357, 25 R370)
  deriving DecidableEq, Repr

/-- A peer set (13 R266). -/
structure PeerSet where
  set : Nat
  epoch : BitVec 24 := 0
  rank : Nat
  members : List (BitVec 32)       -- member identities in rank order
  trap : Bool
  timeout : Nat                    -- microseconds
  state : BitVec 8 := 1            -- 0 undefined, 1 live, 2 broken, 3 reforming
  seq : BitVec 32 := 0             -- collectives issued since the last reform
  status : BitVec 64 := 0          -- the status word of a broken set
  deriving DecidableEq, Repr

/-- A seal-table entry (08 R161). -/
structure Seal where
  index : Nat
  start : Nat                      -- canonical near address
  size : Nat
  team : Nat                       -- owner team; covers team memory only
  refs : Nat
  deriving DecidableEq, Repr

/-- A live sparse region as its index unit knows it (05 R91): identifier, address of the descriptor, pool base and capacity. -/
structure Region where
  id : Nat
  desc : Nat
  pool : Nat
  cap : Nat
  deriving DecidableEq, Repr

/-- A context (25 R370, R371). -/
structure Context where
  num : Nat
  root : DWord
  save : Nat
  faultRec : Nat
  remap : List Nat := [0, 1, 2, 3] -- the physical die of each virtual die (01 R11; log 61)
  scratch : List Nat               -- physical base of the allocation on each virtual die
  scratchSize : Nat
  pool : List Nat                  -- physical base of the spill pool on each virtual die
  poolSize : Nat
  seals : List Seal := []
  peers : List PeerSet := []
  snapsel : BitVec 64 := 0
  triggered : BitVec 32 := 0       -- snapstat (25 R374)
  missed : BitVec 32 := 0
  regions : List Region := []          -- live sparse regions (05 R91)
  deriving DecidableEq, Repr

/-- A submission queue (16 R293, 25 R369). -/
structure SubQueue where
  q : Nat
  context : Nat
  base : Nat
  k : Nat
  head : Nat := 0
  tail : Nat := 0
  lastGrid : Option Nat := none    -- the grid of the previous record, while it has not retired
  deriving DecidableEq, Repr

/-- The command mailbox (25 R370). -/
structure Mailbox where
  code : BitVec 8 := 0
  context : BitVec 16 := 0
  op0 : DWord := 0
  op1 : DWord := 0
  op2 : DWord := 0
  op3 : DWord := 0
  status : BitVec 32 := 0
  result : DWord := 0
  go : Bool := false
  begun : Bool := false            -- the command has done its first part and waits for the rest of the device
  images : Nat := 0                -- images that the pre-emption in progress has written
  deriving DecidableEq, Repr

/-- A held snapshot's header (25 R376) and the latched bytes of the block, by BAR0 offset (25 R377). -/
structure Snapshot where
  held : Bool := false
  source : BitVec 8 := 0
  event : BitVec 8 := 0
  context : BitVec 16 := 0
  core : BitVec 16 := 0
  group : BitVec 8 := 0
  team : BitVec 32 := 0
  missed : BitVec 32 := 0
  bytes : Cells 8 := []
  deriving DecidableEq, Repr

/-- A migration in progress (04 R70, R74). -/
structure Migration where
  page : Nat                       -- virtual base
  context : Nat
  size : Nat
  entryAt : Nat                    -- physical address of the page entry
  old : DWord                      -- the entry as read when the migration began
  dest : Nat                       -- physical base of the new frame
  op : Option Nat := none          -- the copy.mig that asked
  deriving DecidableEq, Repr

/-- A Rinyel link (13 R264). -/
structure Link where
  failed : Nat := 0                -- consecutive failed resends of the flit in flight
  down : Bool := false             -- out of service
  recals : Nat := 0
  deriving DecidableEq, Repr

/-- Telemetry (25 R381): counts that the spec names, and the ticks taken. -/
structure Telemetry where
  dropped : Nat := 0               -- BAR2 writes to unbacked or sealed bytes (25 R368, 08 R163)
  doorbells : Nat := 0             -- ignored doorbells (25 R369)
  ticks : Nat := 0
  scrubs : Nat := 0
  retries : Nat := 0
  hops : Nat := 0
  deriving DecidableEq, Repr

/-- What the next step runs: a step without a word, or the next word of a group. -/
inductive Turn where
  | event (i : Instr)
  | run (group : Nat)
  deriving DecidableEq, Repr

/-- The whole device. -/
structure State where
  flash : Option (List Byte) := none        -- a controller image that command 0x0E wrote; none: the one made with the part
  device : BitVec 8 := 0                    -- 0 booting, 1 ready, 2 recovery (25 R367)
  aperture : DWord := 0                     -- BAR2's base (25 R368)
  mailbox : Mailbox := {}
  mem : Memory := []
  fe : Cells 1 := []                        -- full/empty bits of scratchpad, by physical granule (07 R138)
  bad : List Nat := []                      -- physical parts with an uncorrectable error, by base (21 R361)
  oldEntries : List (Nat × Nat × DWord) := []   -- table entries that a context's translations may still use: address, value (04 R70)
  past : List Write := []                   -- writes that some reader may still miss, the latest first (24 R363; log 4)
  age : Nat := 0                            -- the age of the next of them
  sync : List Sync := []                    -- what has been released without a mask (24 R365; log 4)
  queues : List SubQueue := []
  rrNext : Nat := 0                         -- round-robin position over the queues (16 R293)
  snapshot : Snapshot := {}
  measures : List (List Byte) := List.replicate 4 (List.replicate 32 0)   -- M0 to M3 (25 R379)
  epochLen : BitVec 32 := 1000              -- microseconds (25 R381)
  access : Cells 16 := []                   -- access counters, by 64 KiB physical page (04 R73)
  counted : Nat × List Nat := (0, [])       -- the model's own: the lines that the step of a tick has counted (DESIGN CHOICE, log 41)
  promote : Nat := 0                        -- migration thresholds (25 R381)
  demote : Nat := 0
  promoted : Nat := 0                       -- promotions of the previous epoch, and the places of their page entries
  lastPromoted : List Nat := []
  migrations : List Migration := []
  links : List Link := List.replicate 36 {}
  telemetry : Telemetry := {}
  msix : List Nat := []                     -- MSI-X vectors signalled, oldest first
  hostData : List Byte := []                -- the bytes of the last BAR2 read
  contexts : List Context := []
  dies : List Die := List.replicate 4 {}
  tasks : List TaskEntry := []
  cores : List (Nat × Core) := []           -- by virtual core; an unlisted core is in the state `{}`
  grids : List Grid := []
  teams : List Team := []
  groups : List Group := []
  ops : List EngineOp := []
  agenda : List Turn := []                  -- the model's own: what the next steps run (DESIGN CHOICE, log 3)
  cur : Option Nat := none                  -- the model's own: the group whose word the step runs
  tick : Nat := 0                           -- the model's own: numbers the fresh free values (DESIGN CHOICE, log 6)
  nextId : Nat := 1                         -- the model's own: the next identifier
  deriving DecidableEq, Repr

/-- Why the machine stops with a fault. -/
inductive Fault where
  /-- Raised by a word when no group issues it (the state names no current group). No hardware state is like that; safe. -/
  | noGroup
  deriving DecidableEq, Repr

/-- Why the machine has no meaning for an instruction. -/
inductive Refusal where
  /-- Raised by `exec`'s arm of an instruction that this model has not reached. Safe. -/
  | notModelled (mnemonic : String)
  deriving DecidableEq, Repr

/-- The device at the end of PCI Express reset: state 0, no context, no grid (25 R370) (DESIGN CHOICE, log 2). -/
def State.reset : State := {}

end Sys2Proof.Machine
end

