-- ==== Sys2Proof/Machine/Cells.lean ====
section
/-! DEFINITION. The one sparse store of the model: reading and writing a cell, and little-endian values of several bytes.
Every operation keeps the canonical form (keys strictly rising, no zero value). -/

namespace Sys2Proof.Machine

/-- The value at a key; an unlisted key reads as zero. -/
def cellGet {w : Nat} : Cells w → Nat → BitVec w
  | [], _ => 0
  | (k, x) :: rest, key => if k = key then x else cellGet rest key

/-- Put an entry before the first larger key. -/
def cellPut {w : Nat} : Cells w → Nat → BitVec w → Cells w
  | [], key, x => [(key, x)]
  | (k, y) :: rest, key, x => if key < k then (key, x) :: (k, y) :: rest else (k, y) :: cellPut rest key x

/-- Write a value at a key; writing zero removes the entry. -/
def cellSet {w : Nat} (m : Cells w) (key : Nat) (x : BitVec w) : Cells w :=
  let rest := m.filter (fun e => e.1 != key)
  if x = 0 then rest else cellPut rest key x

/-- Write place k of a table whose places are in their first state `d` until written. -/
def putAt {α : Type} (d : α) : List α → Nat → α → List α
  | [], 0, x => [x]
  | [], k + 1, x => d :: putAt d [] k x
  | _ :: l, 0, x => x :: l
  | y :: l, k + 1, x => y :: putAt d l k x

/-- Keep the entries whose key satisfies `p`. -/
def cellFilter {w : Nat} (p : Nat → Bool) (m : Cells w) : Cells w := m.filter (fun e => p e.1)

/-- The entries of keys `lo` to `lo + n - 1`, rebased to `dst`. -/
def cellSlice {w : Nat} (m : Cells w) (lo n dst : Nat) : Cells w :=
  (m.filter (fun e => decide (lo ≤ e.1) && decide (e.1 < lo + n))).map (fun e => (e.1 - lo + dst, e.2))

/-- Remove the entries of keys `lo` to `lo + n - 1`. -/
def cellClear {w : Nat} (m : Cells w) (lo n : Nat) : Cells w :=
  m.filter (fun e => !(decide (lo ≤ e.1) && decide (e.1 < lo + n)))

/-- Write every entry of a list of keys and values. -/
def cellSetAll {w : Nat} (m : Cells w) (l : List (Nat × BitVec w)) : Cells w :=
  l.foldl (fun m e => cellSet m e.1 e.2) m

/-- Cells 0 to n-1 from a function. -/
def cellsOf (w n : Nat) (f : Nat → Nat) : Cells w :=
  (List.range n).filterMap (fun i =>
    let x := BitVec.ofNat w (f i)
    if x = 0 then none else some (i, x))

/-- The little-endian value of `n` bytes at `a`. -/
def bytesGet (m : Cells 8) (a : Nat) : Nat → Nat
  | 0 => 0
  | n + 1 => (cellGet m a).toNat + 256 * bytesGet m (a + 1) n

/-- Store the low `n` bytes of a value, little-endian, at `a`. -/
def bytesSet (m : Cells 8) (a : Nat) : Nat → Nat → Cells 8
  | 0, _ => m
  | n + 1, x => bytesSet (cellSet m a (BitVec.ofNat 8 x)) (a + 1) n (x / 256)

/-- The `n` bytes at `a`, lowest address first. -/
def bytesList (m : Cells 8) (a n : Nat) : List Byte := (List.range n).map (fun i => cellGet m (a + i))

/-- Store a list of bytes at `a`. -/
def bytesPut (m : Cells 8) (a : Nat) : List Byte → Cells 8
  | [] => m
  | b :: bs => bytesPut (cellSet m a b) (a + 1) bs

/-- The little-endian value of a list of bytes. -/
def leNat : List Byte → Nat
  | [] => 0
  | b :: bs => b.toNat + 256 * leNat bs

/-- The `n` low bytes of a value, little-endian. -/
def leBytes : Nat → Nat → List Byte
  | 0, _ => []
  | n + 1, x => BitVec.ofNat 8 x :: leBytes n (x / 256)

/-- `n` bytes of a list from offset `o`, as a little-endian value; bytes past its end are zero. -/
def leAt (l : List Byte) (o n : Nat) : Nat := leNat ((l.drop o).take n)

end Sys2Proof.Machine
end

