-- ==== Sys2Proof/Machine/Shake.lean ====
section
/-! DEFINITION. SHAKE256, by which chrysalis images, measurements and image keys are digested (21 R358, 25 R378, R379). The spec
names the function and does not restate it (PRESUMED, log 12). The state of its permutation is five planes of five lanes. -/

namespace Sys2Proof.Machine

/-- A plane of the permutation's state. -/
abbrev Plane := List (BitVec 64)

/-- Two planes, lane by lane. -/
def planeXor (p q : Plane) : Plane := List.zipWith (· ^^^ ·) p q

/-- Each lane gains the parities of the column to its left and, turned by one bit, of the column to its right. -/
def mixColumns (s : List Plane) : List Plane :=
  let par := s.foldl planeXor (List.replicate 5 0)
  s.map (planeXor (planeXor (par.rotateRight 1) ((par.rotateLeft 1).map (·.rotateLeft 1))))

/-- The places of the lanes that turn, from (1, 0) on: (x, y) is followed by (y, 2x + 3y). -/
def turnWalk : Nat → Nat → Nat → List (Nat × Nat)
  | 0, _, _ => []
  | n + 1, x, y => (x, y) :: turnWalk n y ((2 * x + 3 * y) % 5)

/-- How far each lane turns, plane by plane: the t-th place of the walk, by the t-th triangular number from 1. -/
def turns25 : List (List Nat) :=
  (List.range 5).map (fun y => (List.range 5).map (fun x =>
    match (turnWalk 24 1 0).idxOf? (x, y) with
    | some t => (t + 1) * (t + 2) / 2 % 64
    | none => 0))

/-- Every lane turns, and the lane at (x + 3y, x) comes to (x, y). -/
def scatter (s : List Plane) : List Plane :=
  let turned := List.zipWith (List.zipWith (fun (l : BitVec 64) n => l.rotateLeft n)) s turns25
  (List.range 5).map (fun y => (List.range 5).map (fun x => (turned.getD x []).getD ((x + 3 * y) % 5) 0))

/-- Within a plane, a lane flips where the next one is clear and the one after it is set. -/
def bendPlane (p : Plane) : Plane :=
  planeXor p (List.zipWith (fun (a b : BitVec 64) => ~~~a &&& b) (p.rotateLeft 1) (p.rotateLeft 2))

/-- The register that gives the rounds their constants. -/
def roundRegister (r : BitVec 8) : BitVec 8 := (r <<< 1) ^^^ (if r.msb then 0x71 else 0)

/-- A round's constant: after each of seven steps of the register, bit 1 of it at place 2^j − 1; and the register then. -/
def roundConst (r : BitVec 8) : BitVec 64 × BitVec 8 :=
  (List.range 7).foldl (fun (acc : BitVec 64 × BitVec 8) j =>
    let r := roundRegister acc.2
    (if r.getLsbD 1 then acc.1 ^^^ ((1 : BitVec 64) <<< (2 ^ j - 1)) else acc.1, r)) (0, r)

/-- Add a constant to lane (0, 0). -/
def addConst (c : BitVec 64) (s : List Plane) : List Plane := List.zipWith planeXor s [[c, 0, 0, 0, 0], [0, 0, 0, 0, 0],
  [0, 0, 0, 0, 0], [0, 0, 0, 0, 0], [0, 0, 0, 0, 0]]

/-- `n` rounds. -/
def permute : Nat → BitVec 8 → List Plane → List Plane
  | 0, _, s => s
  | n + 1, r, s =>
    let c := roundConst r
    permute n c.2 (addConst c.1 ((scatter (mixColumns s)).map bendPlane))

/-- The 136 bytes of a block as planes; the rest of the state takes nothing in. -/
def blockPlanes (l : List Byte) : List Plane :=
  (List.range 5).map (fun y => (List.range 5).map (fun x => BitVec.ofNat 64 (leAt (l.take 136) (8 * (5 * y + x)) 8)))

/-- Take in `n` blocks. -/
def takeBlocks : Nat → List Plane → List Byte → List Plane
  | 0, s, _ => s
  | n + 1, s, l => takeBlocks n (permute 24 1 (List.zipWith planeXor s (blockPlanes l))) (l.drop 136)

/-- A message with its suffix and its padding, to whole blocks. -/
def shakePadded (l : List Byte) : List Byte :=
  let short := 136 - l.length % 136
  l ++ (if short = 1 then [0x9F] else [0x1F] ++ List.replicate (short - 2) 0 ++ [0x80])

/-- The first 32 bytes of SHAKE256. -/
def shake256 (l : List Byte) : List Byte :=
  let m := shakePadded l
  let s := takeBlocks (m.length / 136) (List.replicate 5 (List.replicate 5 0)) m
  ((s.headD []).take 4).flatMap (fun x => leBytes 8 x.toNat)

end Sys2Proof.Machine
end

