-- ==== Sys2Proof/Machine/Formats.lean ====
section
/-! DEFINITION. Number formats (02 R21 to R39): the types, the value of each code, rounding of an exact value to a type,
and conversion. Element codes are natural numbers below 2^width. -/

namespace Sys2Proof.Machine

/-- The types of 02 R21. -/
inductive Ty where
  | int (signed : Bool) (w : Nat)                  -- i8 to i64, uint8 to uint32, acc56 of the integer kind
  | flt (ebits fbits : Nat)                        -- f32, bf16, f16, acc56 of the float kind
  | raw (w : Nat)                                  -- raw8 to raw64
  | b8 (p : Nat) (signed inf : Bool)               -- the binary8 family
  | e8m0
  deriving DecidableEq, Repr

/-- The type of a type code; none for a reserved code (02 R21). -/
def Ty.ofCode (c : Nat) : Option Ty :=
  if c = 0x01 then some (.int true 8) else if c = 0x02 then some (.int false 8)
  else if c = 0x03 then some (.int true 16) else if c = 0x04 then some (.int false 16)
  else if c = 0x05 then some (.int true 32) else if c = 0x06 then some (.int false 32)
  else if c = 0x07 then some (.int true 64) else if c = 0x08 then some (.int true 56)
  else if c = 0x09 then some (.flt 11 44) else if c = 0x10 then some (.flt 8 23)
  else if c = 0x11 then some (.flt 8 7) else if c = 0x12 then some (.flt 5 10)
  else if c = 0x18 then some (.raw 8) else if c = 0x19 then some (.raw 16)
  else if c = 0x1A then some (.raw 32) else if c = 0x1B then some (.raw 64)
  else if c = 0x40 then some .e8m0
  else if 0x20 ≤ c ∧ c < 0x40 ∧ c % 8 ≠ 7 then
    some (.b8 (c % 8 + 1) (c < 0x30) (c / 8 % 2 = 1))
  else none

/-- The width in bits. -/
def Ty.width : Ty → Nat
  | .int _ w => w
  | .flt e f => 1 + e + f
  | .raw w => w
  | .b8 _ _ _ => 8
  | .e8m0 => 8

/-- A float type F of 02 R26 (f32, bf16, f16), or acc56 of the float kind. -/
def Ty.isFlt : Ty → Bool | .flt _ _ => true | _ => false
def Ty.isInt : Ty → Bool | .int _ _ => true | _ => false
def Ty.isRaw : Ty → Bool | .raw _ => true | _ => false
def Ty.isB8 : Ty → Bool | .b8 _ _ _ => true | _ => false
/-- F or B8: the types whose arithmetic rounds. -/
def Ty.isF8 (t : Ty) : Bool := t.isFlt || t.isB8
/-- A typed format has an absent code (02 R25). -/
def Ty.isTyped (t : Ty) : Bool := !t.isRaw
def Ty.isSigned : Ty → Bool | .int s _ => s | .flt _ _ => true | .b8 _ s _ => s | _ => false

/-- The absent code (02 R21); zero at a raw type (02 R25). -/
def Ty.na : Ty → Nat
  | .int true w => 2 ^ (w - 1)
  | .int false w => 2 ^ w - 1
  | .flt e f => 2 ^ (1 + e + f) - 1
  | .raw _ => 0
  | .b8 _ true _ => 0xFF
  | .b8 _ false _ => 0xFE
  | .e8m0 => 0x00

/-- `present(x)`: true for every raw value (02 R25). -/
def Ty.present (t : Ty) (x : Nat) : Bool := !t.isTyped || x != t.na

/-- The default NaN (02 R26, R30, R31, R32); integers give 0 (02 R38). -/
def Ty.nanCode : Ty → Nat
  | .flt e f => (2 ^ e - 1) * 2 ^ f + 2 ^ (f - 1)
  | .b8 _ true _ => 0x80
  | .b8 _ false _ => 0xFF
  | .e8m0 => 0xFF
  | _ => 0

/-- An exact value: absent, NaN, an infinity, or a finite number of the given sign and magnitude `num / den`. -/
inductive Val where
  | na
  | nan
  | inf (neg : Bool)
  | fin (neg : Bool) (num den : Nat)
  deriving DecidableEq, Repr

/-- The value of an integer. -/
def Val.ofInt (x : Int) : Val := .fin (decide (x < 0)) x.natAbs 1

/-- 2^e × m as a finite value. -/
def Val.scaled (neg : Bool) (m : Nat) (e : Int) : Val :=
  if 0 ≤ e then .fin neg (m * 2 ^ e.toNat) 1 else .fin neg m (2 ^ (-e).toNat)

/-- The smallest exponent of a normal number and the significand's precision, of a binary format. -/
def Ty.emin : Ty → Int
  | .flt e _ => 2 - 2 ^ (e - 1)
  | .b8 p true _ => 1 - 2 ^ (7 - p)
  | .b8 p false _ => 1 - 2 ^ (8 - p)
  | _ => 0
def Ty.prec : Ty → Nat
  | .flt _ f => f + 1
  | .b8 p _ _ => p
  | _ => 1

/-- The largest finite magnitude code of a sign (02 R26, R30, R32). -/
def Ty.maxMag (t : Ty) (neg : Bool) : Nat :=
  match t with
  | .flt e f => (2 ^ e - 1) * 2 ^ f - 1
  | .b8 _ true inf => (if inf then 0x7E else 0x7F) - (if neg then 1 else 0)
  | .b8 _ false inf => if inf then 0xFC else 0xFD
  | _ => 0

/-- The format has infinities. -/
def Ty.hasInf : Ty → Bool | .flt _ _ => true | .b8 _ _ inf => inf | _ => false

/-- The code of a magnitude code under a sign; the binary8 family has no −0 (02 R29). -/
def Ty.signed (t : Ty) (neg : Bool) (mag : Nat) : Nat :=
  match t with
  | .flt e f => if neg then 2 ^ (e + f) + mag else mag
  | .b8 _ true _ => if neg ∧ mag ≠ 0 then 0x80 + mag else mag
  | _ => mag

/-- The code of an infinity of a format that has them. -/
def Ty.infCode (t : Ty) (neg : Bool) : Nat :=
  match t with
  | .flt e f => (if neg then 2 ^ (e + f) else 0) + (2 ^ e - 1) * 2 ^ f
  | .b8 _ true _ => if neg then 0xFE else 0x7F
  | .b8 _ false _ => 0xFD
  | _ => 0

/-- The value of a magnitude code of a binary format. -/
def magVal (t : Ty) (neg : Bool) (mag : Nat) : Val :=
  let h := 2 ^ (t.prec - 1)
  let q0 : Int := t.emin - (t.prec - 1 : Nat)
  if mag < h then (if t.prec = 1 then .fin neg 0 1 else Val.scaled neg mag q0)
  else Val.scaled neg (h + mag % h) (q0 + ((mag / h - 1 : Nat) : Int))

/-- A magnitude code is that of a subnormal number. -/
def subMag (t : Ty) (mag : Nat) : Bool := mag != 0 && decide (mag < 2 ^ (t.prec - 1))

/-- Split the code of a binary format into sign and magnitude code. -/
def splitCode (t : Ty) (x : Nat) : Bool × Nat :=
  match t with
  | .flt e f => (decide (x / 2 ^ (e + f) % 2 = 1), x % 2 ^ (e + f))
  | .b8 _ true _ => (decide (x / 128 % 2 = 1), x % 128)
  | _ => (false, x)

/-- The value of a code (02 R24 to R32); with `flush`, a subnormal F or B8 input reads as zero of its sign (02 R35). -/
def valOf (t : Ty) (flush : Bool) (x : Nat) : Val :=
  if t.isTyped && x == t.na then .na
  else match t with
  | .int true w => if x < 2 ^ (w - 1) then .fin false x 1 else .fin true (2 ^ w - x) 1
  | .int false _ => .fin false x 1
  | .raw _ => .fin false x 1
  | .e8m0 => if x = 0xFF then .nan else Val.scaled false 1 ((x : Int) - 127)
  | .flt e f =>
    let (neg, mag) := splitCode t x
    if mag > (2 ^ e - 1) * 2 ^ f then .nan
    else if mag = (2 ^ e - 1) * 2 ^ f then .inf neg
    else if flush && e != 11 && subMag t mag then .fin neg 0 1
    else magVal t neg mag
  | .b8 _ _ inf =>
    if x = t.nanCode then .nan
    else if inf && x == t.infCode false then .inf false
    else if inf && t.isSigned && x == t.infCode true then .inf true
    else
      let (neg, mag) := splitCode t x
      if flush && subMag t mag then .fin neg 0 1 else magVal t neg mag

/-- The mode fields that a result depends on. -/
structure RMode where
  rm : Nat
  sat : Bool
  flush : Bool
  deriving DecidableEq, Repr

/-- A delivered element: its code, the events that delivering it made (02 R45), and the new stochastic state. -/
structure LRes where
  code : Nat
  sat : Bool := false
  flush : Bool := false
  nan : Bool := false
  absent : Bool := false
  s : Nat
  deriving DecidableEq, Repr

/-- One step of a stochastic state (02 R36). -/
def rngStep (s : Nat) : Nat := if s % 2 = 1 then Nat.xor (s / 2) 0x80200003 else s / 2

/-- ⌊log2 (n / d)⌋ for positive n and d. -/
def ilog2 (n d : Nat) : Int :=
  let e : Int := (Nat.log2 n : Int) - (Nat.log2 d : Int)
  let below := if 0 ≤ e then decide (n < d * 2 ^ e.toNat) else decide (n * 2 ^ (-e).toNat < d)
  if below then e - 1 else e

/-- n / d divided by 2^q: the whole part, the remainder and the divisor of the remainder. -/
def scaleDiv (n d : Nat) (q : Int) : Nat × Nat × Nat :=
  if 0 ≤ q then
    let dd := d * 2 ^ q.toNat
    (n / dd, n % dd, dd)
  else
    let nn := n * 2 ^ (-q).toNat
    (nn / d, nn % d, d)

/-- The rounded significand of `k + r / dd` of a sign, under a rounding mode, with the new stochastic state (02 R33,
R37) (DEDUCED, log 11). -/
def roundSig (rm : Nat) (neg : Bool) (k r dd s : Nat) : Nat × Nat :=
  if rm = 0 then (if 2 * r > dd ∨ (2 * r = dd ∧ k % 2 = 1) then k + 1 else k, s)
  else if rm = 1 then (k, s)
  else if rm = 2 then (if !neg && r != 0 then k + 1 else k, s)
  else if rm = 3 then (if neg && r != 0 then k + 1 else k, s)
  else if rm = 4 then (if 2 * r ≥ dd then k + 1 else k, s)
  else if rm = 5 then (if r ≠ 0 then Nat.lor k 1 else k, s)
  else
    let s' := rngStep s
    (if r * 2 ^ 32 / dd > s' then k + 1 else k, s')

/-- The outcome of an overflow of a sign (02 R34): the code, whether the saturate bit clamped it, whether it is a NaN. -/
def overflowOf (t : Ty) (m : RMode) (neg : Bool) : Nat × Bool × Bool :=
  let big (n : Bool) := t.signed n (t.maxMag n)
  let infinite := if t.hasInf then (t.infCode neg, false, false) else (t.nanCode, false, true)
  if m.sat then (big neg, true, false)
  else if m.rm = 1 ∨ m.rm = 5 then (big neg, false, false)
  else if m.rm = 2 then (if neg then (big true, false, false) else infinite)
  else if m.rm = 3 then (if neg then infinite else (big false, false, false))
  else infinite

/-- A negative value into an unsigned binary8 type overflows toward 0 (02 R38). -/
def underOf (t : Ty) (m : RMode) : Nat × Bool × Bool :=
  if m.sat then (0, true, false) else (t.nanCode, false, true)

/-- The format is an unsigned binary8 type. -/
def Ty.isUB8 : Ty → Bool | .b8 _ false _ => true | _ => false

/-- Round a finite magnitude to an integer (02 R33: the integers as the grid). -/
def roundInt (m : RMode) (neg : Bool) (n d s : Nat) : Int × Nat :=
  let (k, s') := roundSig m.rm neg (n / d) (n % d) d s
  (if neg then -(k : Int) else k, s')

/-- The range of an integer type (02 R24, R32). -/
def Ty.intMin : Ty → Int | .int true w => 1 - 2 ^ (w - 1) | _ => 0
def Ty.intMax : Ty → Int
  | .int true w => 2 ^ (w - 1) - 1
  | .int false w => 2 ^ w - 2
  | _ => 0

/-- The code of an integer, modulo 2^width. -/
def intCode (w : Nat) (x : Int) : Nat := (x % (2 ^ w : Int)).toNat

/-- An integer clamped to a type's range, and whether it was (02 R24). -/
def clampInt (t : Ty) (x : Int) : Nat × Bool :=
  if x > t.intMax then (intCode t.width t.intMax, true)
  else if x < t.intMin then (intCode t.width t.intMin, true)
  else (intCode t.width x, false)

/-- `round(x, e8m0, rm)` of a positive finite value (02 R39). -/
def roundE8 (m : RMode) (n d s : Nat) : LRes :=
  let e := ilog2 n d
  let (_, r, dd) := scaleDiv n d e
  let c : Int := e + 127
  let (up, s') : Bool × Nat :=
    if m.rm = 0 then (decide (2 * r > dd ∨ (2 * r = dd ∧ c % 2 ≠ 0)), s)
    else if m.rm = 1 ∨ m.rm = 3 then (false, s)
    else if m.rm = 2 then (r != 0, s)
    else if m.rm = 4 then (decide (2 * r ≥ dd), s)
    else if m.rm = 5 then (r != 0 && decide (c % 2 = 0), s)
    else
      let s1 := rngStep s
      (decide (r * 2 ^ 32 / dd > s1), s1)
  let c := if up then c + 1 else c
  if c > 254 then
    if m.sat then { code := 0xFE, sat := true, s := s' }
    else if m.rm = 1 ∨ m.rm = 3 ∨ m.rm = 5 then { code := 0xFE, s := s' }
    else { code := 0xFF, nan := true, s := s' }
  else if c < 1 then { code := 0x01, flush := true, s := s' }
  else { code := c.toNat, s := s' }

/-- `round(x, T, rm)`, with the outcomes of 02 R34, R35, R38 and R39: an exact value brought to a type. NaN gives the
default NaN; the NaN event is left to the caller unless rounding itself made the NaN (DEDUCED, log 60). -/
def deliver (t : Ty) (m : RMode) (s : Nat) (v : Val) : LRes :=
  match t with
  | .raw w =>
    (match v with
     | .fin neg n d => { code := intCode w (if neg then -((n / d : Nat) : Int) else ((n / d : Nat) : Int)), s := s }
     | _ => { code := 0, s := s })
  | .int _ _ =>
    (match v with
     | .na => { code := t.na, s := s }
     | .nan => { code := 0, sat := true, s := s }
     | .inf neg => { code := (clampInt t (if neg then -(2 ^ 200) else 2 ^ 200)).1, sat := true, s := s }
     | .fin neg n d =>
       let (x, s') := roundInt m neg n d s
       let (c, k) := clampInt t x
       { code := c, sat := k, s := s' })
  | .e8m0 =>
    (match v with
     | .na => { code := 0x00, s := s }
     | .nan => { code := 0xFF, s := s }
     | .inf true => { code := 0xFF, nan := true, s := s }
     | .inf false =>
       if m.sat then { code := 0xFE, sat := true, s := s }
       else if m.rm = 1 ∨ m.rm = 3 ∨ m.rm = 5 then { code := 0xFE, s := s }
       else { code := 0xFF, nan := true, s := s }
     | .fin neg n d =>
       if n = 0 ∨ neg then { code := 0xFF, nan := true, s := s }
       else roundE8 m n d s)
  | _ =>
    (match v with
     | .na => { code := t.na, s := s }
     | .nan => { code := t.nanCode, s := s }
     | .inf neg =>
       if neg && t.isUB8 then
         let (c, k, a) := underOf t m
         { code := c, sat := k, nan := a, s := s }
       else if t.hasInf then { code := t.infCode neg, s := s }
       else
         let (c, k, a) := overflowOf t m neg
         { code := c, sat := k, nan := a, s := s }
     | .fin neg n d =>
       if n = 0 then { code := t.signed neg 0, s := if m.rm = 6 then rngStep s else s }
       else if neg && t.isUB8 then
         let (c, k, a) := underOf t m
         { code := c, sat := k, nan := a, s := if m.rm = 6 then rngStep s else s }
       else
         let e := max (ilog2 n d) t.emin
         let (k, r, dd) := scaleDiv n d (e - (t.prec - 1 : Nat))
         let (k', s') := roundSig m.rm neg k r dd s
         let mag := (e - t.emin).toNat * 2 ^ (t.prec - 1) + k'
         if mag > t.maxMag neg then
           let (c, kk, a) := overflowOf t m neg
           { code := c, sat := kk, nan := a, s := s' }
         else if m.flush && t != .flt 11 44 && subMag t mag then
           { code := t.signed neg 0, flush := true, s := s' }
         else { code := t.signed neg mag, s := s' })

/-- A type pair that conversion refuses: typed and raw of different widths (02 R38). -/
def convertRefused (f t : Ty) : Bool := (f.isRaw != t.isRaw) && f.width != t.width

/-- A type pair whose conversion reads the rounding field (02 R33). -/
def convertRounds (f t : Ty) : Bool :=
  f != t && !f.isRaw && !t.isRaw && (t == .e8m0 || t.isF8 || (!f.isInt && t.isInt))

/-- `convert(x, F, T, rm, …)` (02 R38): the delivered element with its events. An absent source is an absent produced, at
T = F too (02 R45, 09 R177). raw8 into e8m0 keeps its bits, like any raw source of the width (DEDUCED, log 62). -/
def convert (f t : Ty) (m : RMode) (s x : Nat) : LRes :=
  if f = t then { code := x, absent := !t.present x, s := s }
  else if f.isRaw ∨ t.isRaw then { code := x % 2 ^ t.width, s := s }
  else
    match valOf f m.flush x with
    | .na => { code := t.na, absent := true, s := s }
    | v => deliver t (if f.isInt && t.isInt then { m with rm := 0 } else m) s v

end Sys2Proof.Machine
end

