-- ==== Sys2Proof/Machine/Special.lean ====
section
/-! DEFINITION. The special functions of 09 R180: the exact value of each, given as a rational number that no rounding
rule of 02 R33 and R37 can tell from it. A boundary of rounding, the 32 bits of 02 R37 included, has fewer than 64
significant bits; an irrational value therefore may be replaced by the middle of the 64-bit interval that holds it. -/

namespace Sys2Proof.Machine

/-- The whole square root, bit by bit. -/
def isqrtLoop : Nat → Nat → Nat → Nat
  | 0, _, r => r
  | i + 1, n, r => isqrtLoop i n (if (r + 2 ^ i) * (r + 2 ^ i) ≤ n then r + 2 ^ i else r)

def isqrt (n : Nat) : Nat := isqrtLoop (Nat.log2 n / 2 + 1) n 0

/-- √(n / d), exact where it is rational with denominator d × 2^160. -/
def sqrtVal (neg : Bool) (n d : Nat) : Val :=
  let x := n * d * 4 ^ 160
  let r := isqrt x
  if r * r = x then .fin neg r (d * 2 ^ 160) else .fin neg (2 * r + 1) (d * 2 ^ 161)

/-- The middle of the 64-bit interval that holds both ends of an enclosure scaled by 2^w; none when they differ. -/
def pick64 (neg : Bool) (w : Nat) (e : Nat × Nat) : Option Val :=
  let sh := Nat.log2 e.1 - 63
  if e.1 / 2 ^ sh = e.2 / 2 ^ sh ∧ e.1 ≠ 0 ∧ 64 ≤ Nat.log2 e.1 then
    some (.fin neg ((2 * (e.1 / 2 ^ sh) + 1) * 2 ^ sh) (2 ^ (w + 1)))
  else none

/-- Enclosures of growing precision until one decides (DEDUCED, log 59). -/
def refine (neg : Bool) (f : Nat → Nat × Nat) : List Nat → Val
  | [] => .fin neg (f 1024).1 (2 ^ 1024)
  | w :: ws => match pick64 neg w (f w) with
    | some v => v
    | none => refine neg f ws

def precisions : List Nat := [192, 320, 512]

/-- ln 2 scaled by 2^w, from below: the sum of 1 / (k 2^k). -/
def ln2Loop : Nat → Nat → Nat → Nat
  | 0, _, acc => acc
  | k + 1, w, acc => ln2Loop k w (acc + 2 ^ w / ((k + 1) * 2 ^ (k + 1)))

def ln2Fix (w : Nat) : Nat × Nat :=
  let x := ln2Loop w w 0
  (x, x + w + 2)

/-- e^x scaled by 2^w for 0 ≤ x ≤ 1 scaled: the terms from t on, each rounded down. -/
def expLoop : Nat → Nat → Nat → Nat → Nat → Nat → Nat
  | 0, _, _, _, _, acc => acc
  | fuel + 1, w, x, k, t, acc =>
    if t = 0 then acc else expLoop fuel w x (k + 1) (t * x / 2 ^ w / k) (acc + t)

def expFix (w x : Nat) : Nat := expLoop w w x 1 (2 ^ w) 0

/-- An enclosure of e^(−n/d) scaled by 2^w. -/
def expNeg (n d w : Nat) : Nat × Nat :=
  let (l, h) := ln2Fix w
  let y := n * 2 ^ w / d
  let k := y / h
  let zlo := (k + 1) * l - (y + 1)
  let zhi := (k + 1) * h - y
  (expFix w zlo / 2 ^ (k + 1), (expFix w zhi + 2 * w + 8) / 2 ^ (k + 1) + 1)

/-- An enclosure of 2^(n/d − 1) scaled by 2^w, for 0 ≤ n/d ≤ 1. -/
def exp2Frac (n d w : Nat) : Nat × Nat :=
  let (l, h) := ln2Fix w
  (expFix w (n * l / d) / 2, (expFix w (n * h / d + 1) + 2 * w + 8) / 2 + 1)

/-- A value just beside 1, or beside `v`, on the side that `up` names. -/
def beside (neg : Bool) (n d : Nat) (up : Bool) : Val :=
  .fin neg (if up then n * (2 ^ 90 + 1) else n * (2 ^ 90 - 1)) (d * 2 ^ 90)

/-- 2^a for finite a. -/
def exp2Val (neg : Bool) (n d : Nat) : Val :=
  if n = 0 then .fin false 1 1
  else if n * 2 ^ 64 < d then beside false 1 1 (!neg)
  else if neg ∧ n > 400 * d then .fin false 1 (2 ^ 500)
  else if !neg ∧ n > 300 * d then .fin false (2 ^ 400) 1
  else
    let ip : Int := if neg then -((n + d - 1) / d : Nat) else (n / d : Nat)
    let fr := if neg then (d - n % d) % d else n % d
    if fr = 0 then Val.scaled false 1 ip
    else
      match refine false (exp2Frac fr d) precisions with
      | .fin _ a b =>
        let e := ip + 1
        if 0 ≤ e then .fin false (a * 2 ^ e.toNat) b else .fin false a (b * 2 ^ (-e).toNat)
      | v => v

/-- The bits of log2 of a number in [1, 2) scaled by 2^w, by repeated squaring; `up` rounds each square up. -/
def log2Loop : Nat → Nat → Nat → Bool → Nat → Nat
  | 0, _, _, _, acc => acc
  | i + 1, w, y, up, acc =>
    let q := y * y
    let y2 := q / 2 ^ w + (if up && q % 2 ^ w != 0 then 1 else 0)
    if y2 ≥ 2 ^ (w + 1) then log2Loop i w (y2 / 2 + (if up && y2 % 2 == 1 then 1 else 0)) up (2 * acc + 1)
    else log2Loop i w y2 up (2 * acc)

/-- An enclosure of log2(n/d), for n/d in [1, 2), scaled by 2^w. -/
def log2Frac (n d w : Nat) : Nat × Nat :=
  let ww := 2 * w + 64
  let y := n * 2 ^ ww / d
  (log2Loop w ww y false 0, log2Loop w ww (y + 1) true 0 + 1)

/-- log2 of a positive number. -/
def log2Val (n d : Nat) : Val :=
  let e := ilog2 n d
  let (a, b) := if 0 ≤ e then (n, d * 2 ^ e.toNat) else (n * 2 ^ (-e).toNat, d)
  if a = b then Val.ofInt e
  else if 0 ≤ e then
    refine false (fun w => let (l, h) := log2Frac a b w; (e.toNat * 2 ^ w + l, e.toNat * 2 ^ w + h)) precisions
  else
    refine true (fun w => let (l, h) := log2Frac a b w; ((-e).toNat * 2 ^ w - h, (-e).toNat * 2 ^ w - l)) precisions

/-- atan(1/n) scaled by 2^w: alternating terms, each rounded down. -/
def atanLoop : Nat → Nat → Nat → Int → Int → Int
  | 0, _, _, _, acc => acc
  | fuel + 1, n2, k, p, acc =>
    if p = 0 then acc
    else atanLoop fuel n2 (k + 2) (p / (n2 : Int)) (acc + (if k % 4 = 1 then p / (k : Int) else -(p / (k : Int))))

/-- An enclosure of π scaled by 2^w (Machin's formula). -/
def piFix (w : Nat) : Nat × Nat :=
  let ww := w + 32
  let one : Int := 2 ^ ww
  let x := 16 * atanLoop ww 25 1 (one / 5) 0 - 4 * atanLoop ww 57121 1 (one / 239) 0
  let p := (x / 2 ^ 32).toNat
  (p - 1, p + 2)

/-- The Taylor terms of sine or cosine of x scaled by 2^w, from term t with next divisor k (k + 1). -/
def trigLoop : Nat → Nat → Int → Nat → Int → Int → Int
  | 0, _, _, _, _, acc => acc
  | fuel + 1, w, x2, k, t, acc =>
    if t = 0 then acc
    else trigLoop fuel w x2 (k + 2) (-(t * x2 / 2 ^ w / ((k * (k + 1) : Nat) : Int))) (acc + t)

def sinFix (w x : Nat) : Int :=
  let x2 : Int := ((x * x / 2 ^ w : Nat) : Int)
  trigLoop w w x2 2 x 0

def cosFix (w x : Nat) : Int :=
  let x2 : Int := ((x * x / 2 ^ w : Nat) : Int)
  trigLoop w w x2 1 (2 ^ w) 0

/-- n/d reduced by π/2: the quadrant and an enclosure of the rest, scaled by 2^w. -/
def reducePi (n d w : Nat) : Nat × Nat × Nat :=
  let ww := w + 160
  let (pl, ph) := piFix ww
  let y := n * 2 ^ ww / d
  let q := 2 * y / ph
  let lo := y - (q * ph + 1) / 2
  let hi := y + 1 - q * pl / 2
  (q, lo / 2 ^ 160, hi / 2 ^ 160 + 1)

/-- The quadrant of n/d. -/
def quadrant (n d : Nat) : Nat := (reducePi n d 192).1 % 4

/-- An enclosure of the magnitude of sine (or cosine, `c`) of n/d, scaled by 2^w. -/
def trigFix (c : Bool) (n d w : Nat) : Nat × Nat :=
  let (q, lo, hi) := reducePi n d w
  let er : Int := 4 * w + 16
  if (q % 2 = 0) != c then ((sinFix w lo - er).toNat, (sinFix w hi + er).toNat)
  else ((cosFix w hi - er).toNat, (cosFix w lo + er).toNat)

/-- sin a and cos a for finite a. -/
def sinVal (neg : Bool) (n d : Nat) : Val :=
  if n = 0 then .fin neg 0 1
  else if n * 2 ^ 50 < d then beside neg n d false
  else
    let q := quadrant n d
    refine (neg != decide (2 ≤ q)) (trigFix false n d) precisions

def cosVal (n d : Nat) : Val :=
  if n = 0 then .fin false 1 1
  else if n * 2 ^ 50 < d then beside false 1 1 false
  else
    let q := quadrant n d
    refine (decide (q = 1 ∨ q = 2)) (trigFix true n d) precisions

/-- tanh a for finite a. -/
def tanhVal (neg : Bool) (n d : Nat) : Val :=
  if n = 0 then .fin neg 0 1
  else if n * 2 ^ 50 < d then beside neg n d false
  else if n ≥ 32 * d then beside neg 1 1 false
  else
    refine neg (fun w =>
      let (l, h) := expNeg (2 * n) d w
      ((2 ^ w - h) * 2 ^ w / (2 ^ w + h), (2 ^ w - l) * 2 ^ w / (2 ^ w + l) + 1)) precisions

/-- 1 / (1 + e^(−a)) for finite a. -/
def sigmVal (neg : Bool) (n d : Nat) : Val :=
  if n = 0 then .fin false 1 2
  else if n * 2 ^ 64 < d then beside false 1 2 (!neg)
  else if neg ∧ n > 256 * d then .fin false 1 (2 ^ 500)
  else if !neg ∧ n ≥ 64 * d then beside false 1 1 false
  else
    refine false (fun w =>
      let (l, h) := expNeg n d w
      if neg then (l * 2 ^ w / (2 ^ w + l), h * 2 ^ w / (2 ^ w + h) + 1)
      else (2 ^ w * 2 ^ w / (2 ^ w + h), 2 ^ w * 2 ^ w / (2 ^ w + l) + 1)) (precisions ++ [1024])

end Sys2Proof.Machine
end

