-- ==== Sys2Proof/Machine/Arith.lean ====
section
/-! DEFINITION. Element arithmetic (09 R168 to R186, 02 R40 to R43): what each operation makes of element codes at a type,
with the events of 02 R45. Lane masks, registers and faults are the callers'. -/

namespace Sys2Proof.Machine

/-- Add of exact values with the sign rules of IEEE 754 for zeros (09 R171); none for ∞ − ∞. -/
def Val.add (rm : Nat) : Val → Val → Option Val
  | .inf a, .inf b => if a = b then some (.inf a) else none
  | .inf a, _ => some (.inf a)
  | _, .inf b => some (.inf b)
  | .fin a n d, .fin b n' d' =>
    let x := n * d'; let y := n' * d; let dd := d * d'
    if a = b then some (.fin a (x + y) dd)
    else if x = y then some (.fin (if x = 0 ∧ a = b then a else decide (rm = 3)) 0 1)
    else if x > y then some (.fin a (x - y) dd) else some (.fin b (y - x) dd)
  | _, _ => some .nan

def Val.negate : Val → Val
  | .inf a => .inf !a
  | .fin a n d => .fin (!a) n d
  | v => v

/-- Product of exact values; none for 0 × ∞. -/
def Val.mul : Val → Val → Option Val
  | .inf a, .inf b => some (.inf (a != b))
  | .inf a, .fin b n _ => if n = 0 then none else some (.inf (a != b))
  | .fin a n _, .inf b => if n = 0 then none else some (.inf (a != b))
  | .fin a n d, .fin b n' d' => some (.fin (a != b) (n * n') (d * d'))
  | _, _ => some .nan

/-- Quotient of exact values; none for 0 / 0 and ∞ / ∞. -/
def Val.div : Val → Val → Option Val
  | .inf _, .inf _ => none
  | .inf a, .fin b _ _ => some (.inf (a != b))
  | .fin a _ _, .inf b => some (.fin (a != b) 0 1)
  | .fin a n d, .fin b n' d' =>
    if n' = 0 then (if n = 0 then none else some (.inf (a != b)))
    else some (.fin (a != b) (n * d') (d * n'))
  | _, _ => some .nan

/-- a < b of exact values, the two zeros equal; false with a NaN or an absent. -/
def Val.lt : Val → Val → Bool
  | .inf a, .inf b => a && !b
  | .inf a, .fin _ _ _ => a
  | .fin _ _ _, .inf b => !b
  | .fin a n d, .fin b n' d' =>
    let x := n * d'; let y := n' * d
    if a then (if b then decide (x > y) else !(x == 0 && y == 0))
    else if b then false else decide (x < y)
  | _, _ => false

def Val.isZero : Val → Bool | .fin _ n _ => n == 0 | _ => false
def Val.isNeg : Val → Bool | .fin a _ _ => a | .inf a => a | _ => false

/-- An integer value. -/
def Val.toInt : Val → Int
  | .fin a n d => if a then -((n / d : Nat) : Int) else ((n / d : Nat) : Int)
  | _ => 0

/-- The signed (or unsigned) integer that a code of an integer or raw type holds. -/
def intOf (t : Ty) (x : Nat) : Int :=
  match t with
  | .int true w => if x < 2 ^ (w - 1) then x else (x : Int) - 2 ^ w
  | _ => x

/-- The default NaN as the result of an invalid operation: a NaN event (02 R27). -/
def nanRes (t : Ty) (s : Nat) : LRes := { code := t.nanCode, nan := true, s := s }

/-- An absent result that an absent operand made (02 R28, R45). -/
def naRes (t : Ty) (s : Nat) : LRes := { code := t.na, absent := true, s := s }

/-- Bring an optional exact result to F or B8; none is an invalid operation. -/
def deliverOpt (t : Ty) (m : RMode) (s : Nat) : Option Val → LRes
  | none => nanRes t s
  | some v => deliver t m s v

/-- Bring an exact integer to an integer or raw type (02 R24, R25). -/
def deliverInt (t : Ty) (s : Nat) (x : Int) : LRes :=
  if t.isRaw then { code := intCode t.width x, s := s }
  else let (c, k) := clampInt t x; { code := c, sat := k, s := s }

/-- The two-operand operations of 09 R170, and the bitwise ones. -/
inductive Op2 where
  | add | sub | mul | div | min | max | mulhi | and | or | xor | shl | shr | sar | coal
  deriving DecidableEq, Repr

/-- An operand as read (02 R27, R35): a NaN is the default NaN, and a flushed operand is zero of its sign. -/
def asRead (t : Ty) (m : RMode) (x : Nat) : Nat :=
  if t.isF8 then
    match valOf t m.flush x with
    | .nan => t.nanCode
    | .fin neg n _ => if n = 0 then t.signed neg 0 else x
    | _ => x
  else x

/-- `min` and `max` (09 R172): the chosen operand as read. -/
def minMax (t : Ty) (m : RMode) (isMax : Bool) (s a b : Nat) : LRes :=
  if t.isTyped ∧ (a = t.na ∨ b = t.na) then naRes t s
  else
    let va := valOf t m.flush a
    let vb := valOf t m.flush b
    if t = .e8m0 ∧ (va = .nan ∨ vb = .nan) then { code := 0xFF, s := s }
    else if va = .nan then { code := asRead t m b, s := s }
    else if vb = .nan then { code := asRead t m a, s := s }
    else
      -- −0 is less than +0
      let less := va.lt vb || (t.isF8 && va.isZero && vb.isZero && va.isNeg && !vb.isNeg)
      let more := vb.lt va || (t.isF8 && va.isZero && vb.isZero && vb.isNeg && !va.isNeg)
      let pickB := if isMax then less else more
      { code := asRead t m (if pickB then b else a), s := s }

/-- The bits of an arithmetic right shift of a w-bit value. -/
def sarBits (w a n : Nat) : Nat :=
  if a / 2 ^ (w - 1) % 2 = 1 then
    (if n ≥ w then 2 ^ w - 1 else a / 2 ^ n + (2 ^ w - 2 ^ (w - n)))
  else if n ≥ w then 0 else a / 2 ^ n

/-- A sum at e8m0, which a combining copy or a collective may ask for (02 R42, 06 R120): the exact sum, rounded on the grid of 02
R39; with the reserved rounding code, which raises nothing there, the spec states no result of an inexact one: free (DESIGN CHOICE,
log 69). -/
def sumE8 (m : RMode) (s a b : Nat) : LRes :=
  if a = 0xFF ∨ b = 0xFF then { code := 0xFF, s := s }
  else if m.rm = 7 ∧ a ≠ b then { code := Config.freeElement 8 a b % 256, s := s }
  else deliverOpt .e8m0 m s ((valOf .e8m0 false a).add m.rm (valOf .e8m0 false b))

/-- One element of a two-operand operation at a type (09 R169 to R175, R183). -/
def op2 (o : Op2) (t : Ty) (m : RMode) (s a b : Nat) : LRes :=
  let w := t.width
  match o with
  | .coal => { code := if t.present a then a else b, s := s }
  | .and => { code := Nat.land a b, s := s }
  | .or => { code := Nat.lor a b, s := s }
  | .xor => { code := Nat.xor a b, s := s }
  | .shl => { code := if b ≥ w then 0 else a * 2 ^ b % 2 ^ w, s := s }
  | .shr => { code := if b ≥ w then 0 else a / 2 ^ b, s := s }
  | .sar => { code := sarBits w a b, s := s }
  | .min => minMax t m false s a b
  | .max => minMax t m true s a b
  | .mulhi =>
    if t.isTyped ∧ (a = t.na ∨ b = t.na) then naRes t s
    else { code := intCode w (intOf t a * intOf t b / (2 ^ w : Int)), s := s }
  | _ =>
    if t.isTyped ∧ (a = t.na ∨ b = t.na) then naRes t s
    else if t.isF8 then
      let va := valOf t m.flush a
      let vb := valOf t m.flush b
      if va = .nan ∨ vb = .nan then { code := t.nanCode, s := s }
      else
        deliverOpt t m s
          (match o with
           | .add => va.add m.rm vb
           | .sub => va.add m.rm vb.negate
           | .mul => va.mul vb
           | _ => va.div vb)
    else if t = .e8m0 then sumE8 m s a b
    else
      let x := intOf t a
      let y := intOf t b
      match o with
      | .add => deliverInt t s (x + y)
      | .sub => deliverInt t s (x - y)
      | .mul => deliverInt t s (x * y)
      | _ =>
        if y = 0 then
          if t.isRaw then { code := 2 ^ w - 1, s := s }
          else if x = 0 then { code := 0, s := s }
          else { code := intCode w (if x < 0 then t.intMin else t.intMax), sat := true, s := s }
        else deliverInt t s (Int.tdiv x y)

/-- One element of `fma` (c + a × b) or `fms` (a × b − c), with a single rounding (09 R173). A NaN among the sources makes no
NaN event, also where a × b is 0 × ∞ (DEDUCED, log 62). -/
def opFma (sub : Bool) (t : Ty) (m : RMode) (s a b c : Nat) : LRes :=
  if t.isTyped ∧ (a = t.na ∨ b = t.na ∨ c = t.na) then naRes t s
  else if t.isF8 then
    let va := valOf t m.flush a
    let vb := valOf t m.flush b
    let vc := valOf t m.flush c
    if va = .nan ∨ vb = .nan ∨ vc = .nan then { code := t.nanCode, s := s }
    else
      deliverOpt t m s
        (match va.mul vb with
         | none => none
         | some p => p.add m.rm (if sub then vc.negate else vc))
  else
    let p := intOf t a * intOf t b
    deliverInt t s (if sub then p - intOf t c else intOf t c + p)

/-- The unary operations of 09 R178. -/
inductive Op1 where
  | mov | neg | abs | sqrt | rsqrt | recip | exp2 | log2 | sin | cos | tanh | sigm
  | floor | ceil | trunc | rint | frac | popc | clz | not
  deriving DecidableEq, Repr

/-- `neg` of a typed, present element (09 R179). It passes through no `round`, so the stochastic state stands. -/
def opNeg (t : Ty) (m : RMode) (s a : Nat) : LRes :=
  match t with
  | .raw w => { code := (2 ^ w - a) % 2 ^ w, s := s }
  | .int true _ => { code := intCode t.width (-(intOf t a)), s := s }
  | .int false _ => if a = 0 then { code := 0, s := s } else { code := 0, sat := true, s := s }
  | .e8m0 => { code := a, s := s }
  | _ =>
    match valOf t false a with
    | .na => naRes t s
    | .nan => { code := t.nanCode, s := s }
    | .inf neg =>
      if t.isUB8 then
        let (c, k, n) := underOf t m
        { code := c, sat := k, nan := n, s := s }
      else { code := t.infCode (!neg), s := s }
    | .fin _ n _ =>
      let (neg, mag) := splitCode t a
      if t.isUB8 && n != 0 then
        let (c, k, x) := underOf t m
        { code := c, sat := k, nan := x, s := s }
      else if mag > t.maxMag (!neg) then
        let (c, k, x) := overflowOf t m (!neg)
        { code := c, sat := k, nan := x, s := s }
      else { code := t.signed (!neg) mag, s := s }

/-- `abs` of a typed, present element (09 R179). -/
def opAbs (t : Ty) (s a : Nat) : LRes :=
  match t with
  | .int true _ => { code := intCode t.width (intOf t a).natAbs, s := s }
  | .flt _ _ => if valOf t false a = .nan then { code := t.nanCode, s := s }
                else { code := (splitCode t a).2, s := s }
  | .b8 _ true _ =>
    (match valOf t false a with
     | .nan => { code := t.nanCode, s := s }
     | .inf _ => { code := t.infCode false, s := s }
     | _ => { code := (splitCode t a).2, s := s })
  | _ => { code := a, s := s }

/-- A special function of an exact value (09 R180): none is an invalid operation. -/
def specialVal (o : Op1) (v : Val) : Option Val :=
  match v with
  | .na => some .na
  | .nan => some .nan
  | .inf neg =>
    (match o with
     | .sqrt => if neg then none else some (.inf false)
     | .rsqrt => if neg then none else some (.fin false 0 1)
     | .recip => some (.fin neg 0 1)
     | .exp2 => some (if neg then .fin false 0 1 else .inf false)
     | .log2 => if neg then none else some (.inf false)
     | .sin => none
     | .cos => none
     | .tanh => some (.fin neg 1 1)
     | _ => some (if neg then .fin false 0 1 else .fin false 1 1))
  | .fin neg n d =>
    (match o with
     | .sqrt => if n = 0 then some v else if neg then none else some (sqrtVal false n d)
     | .rsqrt => if n = 0 then some (.inf neg) else if neg then none else some (sqrtVal false d n)
     | .recip => if n = 0 then some (.inf neg) else some (.fin neg d n)
     | .exp2 => some (exp2Val neg n d)
     | .log2 => if n = 0 then some (.inf true) else if neg then none else some (log2Val n d)
     | .sin => some (sinVal neg n d)
     | .cos => some (cosVal n d)
     | .tanh => some (tanhVal neg n d)
     | _ => some (sigmVal neg n d))

/-- `floor`, `ceil`, `trunc`, `rint` and `frac` of a finite value of sign `neg` and magnitude n/d (09 R181): a zero result
keeps the sign of the operand. -/
def integral (o : Op1) (m : RMode) (s : Nat) (neg : Bool) (n d : Nat) : Val × Nat :=
  let q := n / d
  let r := n % d
  match o with
  | .floor => (.fin neg (if neg && r != 0 then q + 1 else q) 1, s)
  | .ceil => (.fin neg (if !neg && r != 0 then q + 1 else q) 1, s)
  | .trunc => (.fin neg q 1, s)
  | .frac => (.fin neg r d, s)
  | _ => let (k, s') := roundSig m.rm neg q r d s; (.fin neg k 1, s')

/-- One element of a unary operation at a type (09 R178 to R182). A subnormal result of `frac`, which passes through no
`round`, stands under the flush bit (DEDUCED, log 62). -/
def op1 (o : Op1) (t : Ty) (m : RMode) (s a : Nat) : LRes :=
  let w := t.width
  match o with
  | .mov => { code := a, s := s }
  | .popc => { code := (List.range w).foldl (fun k i => k + a / 2 ^ i % 2) 0, s := s }
  | .clz => { code := if a = 0 then w else w - 1 - Nat.log2 a, s := s }
  | .not => { code := 2 ^ w - 1 - a, s := s }
  | .neg => if t.isTyped ∧ a = t.na then naRes t s else opNeg t m s a
  | .abs => if t.isTyped ∧ a = t.na then naRes t s else opAbs t s a
  | .floor | .ceil | .trunc | .rint | .frac =>
    (match valOf t m.flush a with
     | .na => naRes t s
     | .nan => { code := t.nanCode, s := s }
     | .inf neg => if o = .frac then nanRes t s else { code := t.infCode neg, s := s }
     | .fin neg n d =>
       let (v, s') := integral o m s neg n d
       let tooBig := match v with
         | .fin _ q e => (magVal t false (t.maxMag neg)).lt (.fin false q e)
         | _ => false
       if tooBig then
         -- rint overflows by 02 R34; of floor and ceil the spec states no result here (DESIGN CHOICE, log 16)
         if o = .rint then
           let (c, k, x) := overflowOf t m neg
           { code := c, sat := k, nan := x, s := s' }
         else { code := Config.freeElement 1 a (if o = .floor then 0 else 1) % 2 ^ w, s := s' }
       else { deliver t { rm := 1, sat := false, flush := false } s v with s := s' })
  | _ =>
    (match valOf t m.flush a with
     | .na => naRes t s
     | .nan => { code := t.nanCode, s := s }
     | v => deliverOpt t m s (specialVal o v))

/-- A condition (02 R40). -/
abbrev Cond := BitVec 2
def condF : Cond := 0
def condT : Cond := 1
def condU : Cond := 2
def condOf (b : Bool) : Cond := if b then condT else condF

/-- A condition as it is read: 0b11 is unknown (02 R40). -/
def condRead (c : Cond) : Cond := if c = 3 then condU else c

/-- The relations of `cmp` (02 R41). -/
def relation (t : Ty) (flush : Bool) (rel a b : Nat) : Cond :=
  if t.isRaw then
    (if rel = 0 ∨ rel = 6 then condOf (a == b) else if rel = 1 ∨ rel = 7 then condOf (a != b)
     else if rel = 2 then condOf (decide (a < b)) else if rel = 3 then condOf (decide (a ≤ b))
     else if rel = 4 then condOf (decide (b < a)) else if rel = 5 then condOf (decide (b ≤ a)) else condF)
  else
    let va := valOf t flush a
    let vb := valOf t flush b
    if va = .na ∨ vb = .na then
      let both := va = .na ∧ vb = .na
      (if rel = 6 then condOf (decide both) else if rel = 7 then condOf (!decide both) else condU)
    else if va = .nan ∨ vb = .nan then condOf (rel == 1 || rel == 7 || rel == 8)
    else
      let lt := va.lt vb
      let gt := vb.lt va
      (if rel = 0 ∨ rel = 6 then condOf (!lt && !gt) else if rel = 1 ∨ rel = 7 then condOf (lt || gt)
       else if rel = 2 then condOf lt else if rel = 3 then condOf (!gt)
       else if rel = 4 then condOf gt else if rel = 5 then condOf (!lt) else condF)

/-- Kleene and, or, not (02 R40). -/
def condAnd (a b : Cond) : Cond :=
  let a := condRead a; let b := condRead b
  if a = condF ∨ b = condF then condF else if a = condU ∨ b = condU then condU else condT
def condOr (a b : Cond) : Cond :=
  let a := condRead a; let b := condRead b
  if a = condT ∨ b = condT then condT else if a = condU ∨ b = condU then condU else condF
def condNot (a : Cond) : Cond :=
  let a := condRead a
  if a = condF then condT else if a = condT then condF else condU

/-- Counts of the element events of 02 R45, and of bound clamps and discarded writes (04 R82), in the record's order. -/
structure Events where
  sat : Nat := 0
  flush : Nat := 0
  nan : Nat := 0
  absent : Nat := 0
  clamp : Nat := 0
  discard : Nat := 0
  deriving DecidableEq, Repr

def Events.plus (a b : Events) : Events :=
  { sat := a.sat + b.sat, flush := a.flush + b.flush, nan := a.nan + b.nan, absent := a.absent + b.absent,
    clamp := a.clamp + b.clamp, discard := a.discard + b.discard }

/-- The events of one delivered element. -/
def LRes.events (r : LRes) : Events :=
  { sat := if r.sat then 1 else 0, flush := if r.flush then 1 else 0, nan := if r.nan then 1 else 0,
    absent := if r.absent then 1 else 0 }

/-- The operations that a reduction, a scan or a combining write forms. -/
inductive OpC where
  | add | min | max | and | or
  deriving DecidableEq, Repr

/-- `comb` of 02 R42 and 10 R195 over optional elements (none is empty), never stepping a stochastic state: the element,
and the events of the one operation it performs. An element that it passes on alone is one as read (02 R27, R35). -/
def comb (o : OpC) (t : Ty) (m : RMode) : Option Nat → Option Nat → Option Nat × Events
  | none, b => (b.map (asRead t m), {})
  | a, none => (a.map (asRead t m), {})
  | some a, some b =>
    let m' := if m.rm = 6 then { m with rm := 0 } else m
    let r := op2 (match o with | .add => .add | .min => .min | .max => .max | .and => .and | .or => .or) t m' 0 a b
    (some r.code, r.events)

/-- An operand combined into a location: an absent operand leaves it as it is, and a location that holds absent takes the operand as
read (02 R42, 06 R120, 13 R253). Where both are absent nothing is combined, and the absent result counts as no absent produced (02
R45 does not say; DESIGN CHOICE, log 71). -/
def combInto (o : OpC) (t : Ty) (m : RMode) (old x : Nat) : Nat × Events :=
  if !t.present x then (old, {})
  else
    let r := comb o t m (if t.present old then some old else none) (some x)
    (r.1.getD old, r.2)

/-- One level of the tree of 02 R42: neighbours combined. -/
def treeLevel (o : OpC) (t : Ty) (m : RMode) : List (Option Nat) → List (Option Nat) × Events
  | a :: b :: rest =>
    let (c, e) := comb o t m a b
    let (r, e') := treeLevel o t m rest
    (c :: r, e.plus e')
  | l => (l, {})

/-- The tree of 02 R42 over a list of 2^n elements. -/
def tree (o : OpC) (t : Ty) (m : RMode) : Nat → List (Option Nat) → Option Nat × Events
  | 0, l => (l.headD none, {})
  | n + 1, l =>
    let (l', e) := treeLevel o t m l
    let (r, e') := tree o t m n l'
    (r, e.plus e')

/-- The number of trailing zeros of i + 1: the size of the last block of lane i's decomposition (02 R43). -/
def lastBlock : Nat → Nat → Nat
  | 0, _ => 0
  | fuel + 1, n => if n % 2 = 1 then 0 else lastBlock fuel (n / 2) + 1

/-- The events of the operations that form the aligned blocks of 2 to 2^k elements that end where `blk` ends; the blocks
that end sooner were formed before (10 R198). -/
def newBlocks (o : OpC) (t : Ty) (m : RMode) : Nat → List (Option Nat) → Events
  | 0, _ => {}
  | k + 1, blk =>
    let l := blk.take (2 ^ k)
    let r := blk.drop (2 ^ k)
    (comb o t m (tree o t m k l).1 (tree o t m k r).1).2.plus (newBlocks o t m k r)

/-- The inclusive scan of 02 R43 with the shared operations of 10 R198: `acc` holds the results of the lanes before, the
latest first. -/
def scanLoop (o : OpC) (t : Ty) (m : RMode) (xs : List (Option Nat)) : Nat → Nat → List (Option Nat) → Events →
    List (Option Nat) × Events
  | 0, _, acc, e => (acc.reverse, e)
  | fuel + 1, i, acc, e =>
    let k := lastBlock 7 (i + 1)
    let blk := (xs.drop (i + 1 - 2 ^ k)).take (2 ^ k)
    let bv := (tree o t m k blk).1
    let e1 := e.plus (newBlocks o t m k blk)
    if i + 1 = 2 ^ k then scanLoop o t m xs fuel (i + 1) (bv :: acc) e1
    else
      let prev := (acc.drop (2 ^ k - 1)).headD none
      let (r, ce) := comb o t m prev bv
      scanLoop o t m xs fuel (i + 1) (r :: acc) (e1.plus ce)

end Sys2Proof.Machine
end

