-- ==== Sys2Proof/Machine/Ops.lean ====
section
/-! DEFINITION. The named operations over the machine's tables and memories: lookups and updates, near memory (07), sealed
ranges (08 R161, R162), translation and main memory (04), and the counting of events (04 R83). -/

namespace Sys2Proof.Machine

/-! ### Tables -/

def getGroup (s : State) (g : Nat) : Option Group := s.groups.find? (·.id == g)
def setGroup (s : State) (x : Group) : State :=
  { s with groups := s.groups.map (fun y => if y.id == x.id then x else y) }
def getTeam (s : State) (t : Nat) : Option Team := s.teams.find? (·.id == t)
def setTeam (s : State) (x : Team) : State :=
  { s with teams := s.teams.map (fun y => if y.id == x.id then x else y) }
def getGrid (s : State) (n : Nat) : Option Grid := s.grids.find? (·.id == n)
def setGrid (s : State) (x : Grid) : State :=
  { s with grids := s.grids.map (fun y => if y.id == x.id then x else y) }
def getCtx (s : State) (c : Nat) : Option Context := s.contexts.find? (·.num == c)
def setCtx (s : State) (x : Context) : State :=
  { s with contexts := s.contexts.map (fun y => if y.num == x.num then x else y) }
def getOp (s : State) (n : Nat) : Option EngineOp := s.ops.find? (·.id == n)
def setOp (s : State) (x : EngineOp) : State :=
  { s with ops := s.ops.map (fun y => if y.id == x.id then x else y) }
def getCore (s : State) (c : Nat) : Core := ((s.cores.find? (·.1 == c)).map (·.2)).getD {}
def setCore (s : State) (c : Nat) (x : Core) : State :=
  { s with cores := (c, x) :: s.cores.filter (·.1 != c) }
def getDie (s : State) (k : Nat) : Die := s.dies.getD k {}
def setDie (s : State) (k : Nat) (x : Die) : State := { s with dies := putAt {} s.dies k x }

def modGroup (s : State) (g : Nat) (f : Group → Group) : State :=
  match getGroup s g with | some x => setGroup s (f x) | none => s
def modTeam (s : State) (t : Nat) (f : Team → Team) : State :=
  match getTeam s t with | some x => setTeam s (f x) | none => s
def modGrid (s : State) (n : Nat) (f : Grid → Grid) : State :=
  match getGrid s n with | some x => setGrid s (f x) | none => s
def modCtx (s : State) (c : Nat) (f : Context → Context) : State :=
  match getCtx s c with | some x => setCtx s (f x) | none => s
def modCore (s : State) (c : Nat) (f : Core → Core) : State := setCore s c (f (getCore s c))
def modDie (s : State) (k : Nat) (f : Die → Die) : State := setDie s k (f (getDie s k))

/-! ### Virtual and physical units (01 R11) -/

/-- The die of a core. -/
def dieOf (core : Nat) : Nat := core / 128

/-- The physical die of a context's virtual die. -/
def physDie (s : State) (ctx k : Nat) : Nat := match getCtx s ctx with | some c => c.remap.getD k k | none => k

/-- The virtual die of a context that a physical die holds. -/
def virtDie (s : State) (ctx k : Nat) : Nat :=
  match getCtx s ctx with | some c => (c.remap.idxOf? k).getD k | none => k

/-- The enabled core that a context's virtual core names: on its die's physical die, at the same number (DESIGN CHOICE, log
61). -/
def physCore (s : State) (ctx core : Nat) : Nat := 128 * physDie s ctx (dieOf core) + core % 128
def virtCore (s : State) (ctx core : Nat) : Nat := 128 * virtDie s ctx (dieOf core) + core % 128

/-- Who makes an access: its group, team, context, virtual core and the core itself. -/
structure Who where
  group : Nat
  team : Nat
  ctx : Nat
  core : Nat
  phys : Nat := core
  deriving DecidableEq, Repr

/-- The identifiers of a team's context and core. -/
def whoTeam (s : State) (g t : Nat) : Who :=
  match getTeam s t with
  | some tm =>
    let c := match getGrid s tm.grid with | some gr => gr.context | none => 0
    { group := g, team := t, core := tm.core, ctx := c, phys := physCore s c tm.core }
  | none => { group := g, team := t, core := 0, ctx := 0 }

def whoOf (s : State) (g : Group) : Who := whoTeam s g.id g.team

/-- The core on which a team is resident. -/
def teamCore (s : State) (t : Team) : Nat := (whoTeam s 0 t.id).phys

/-! ### Addresses -/

/-- The i64 absent code. -/
def na64 : Nat := 2 ^ 63

/-- A scalar or lane value as an i64 (02 R24); none for absent. -/
def i64? (x : Nat) : Option Int := if x = na64 then none else some (if x < na64 then (x : Int) else (x : Int) - 2 ^ 64)

/-- The low 32 bits as an i32; none for absent. -/
def i32? (x : Nat) : Option Int :=
  let y : Nat := x % 2 ^ 32
  if y = 2 ^ 31 then none else some (if y < 2 ^ 31 then Int.ofNat y else Int.ofNat y - 2 ^ 32)

/-- A canonical main-memory address (04 R67). -/
def isMain (a : Nat) : Bool := decide (2 ^ 32 ≤ a) && decide (a < 2 ^ 57)

/-- A fault with a cause and data. -/
def fault (cause : Nat) (data : Nat := 0) : FaultInfo := { cause := BitVec.ofNat 8 cause, data := BitVec.ofNat 64 data }

/-! ### Near memory (07 R133 to R138) -/

/-- The window of an address: 0 team memory, 1 the spill window, 2 a scratchpad window with its die; and the offset
(07 R133). -/
def nearWindow (core a : Nat) : Option (Nat × Nat × Nat) :=
  if a < 0x40000 then some (0, 0, a)
  else if 0x4000000 ≤ a ∧ a < 0x5000000 then some (1, 0, a - 0x4000000)
  else if 0x20000000 ≤ a ∧ a < 0x40000000 then some (2, dieOf core, a - 0x20000000)
  else if 0x80000000 ≤ a ∧ a < 0x100000000 then some (2, (a - 0x80000000) / 0x20000000, (a - 0x80000000) % 0x20000000)
  else none

/-- The location of `n` bytes at a near address; none when they are not all backed (07 R133). -/
def nearLoc (s : State) (w : Who) (a n : Nat) : Option Loc :=
  match nearWindow w.core a with
  | none => none
  | some (0, _, o) =>
    (match getTeam s w.team with
     | some t => if o + n ≤ t.memSize then some (.team w.team o) else none
     | none => none)
  | some (1, _, o) =>
    (match getGroup s w.group with
     | some g => if o + n ≤ g.quota then some (.phys (g.spillAt + o)) else none
     | none => none)
  | some (_, k, o) =>
    (match getCtx s w.ctx with
     | some c => if o + n ≤ c.scratchSize then some (.phys (c.scratch.getD k 0 + o)) else none
     | none => none)

/-- The canonical form of a near address: an own-die address names its die window (08 R161). -/
def nearCanon (core a : Nat) : Nat :=
  if 0x20000000 ≤ a ∧ a < 0x40000000 then a - 0x20000000 + 0x80000000 + dieOf core * 0x20000000 else a

/-! ### Parts with an uncorrectable error (21 R361) -/

/-- The size of the part of error correction at a physical address: 8 bytes of near memory, 32 of main memory. -/
def partSize (a : Nat) : Nat := if 0x80000000000 ≤ a then 8 else 32

/-- An access to bytes [a, a + n) meets an error in the part [p, p + z): it reads bytes of it, or writes less than all. -/
def meets (store : Bool) (a n p z : Nat) : Bool :=
  decide (p < a + n) && decide (a < p + z) && !(store && decide (a ≤ p) && decide (p + z ≤ a + n))

/-- Bytes [a, a + n) cover the whole part [p, p + z). -/
def covers (a n p z : Nat) : Bool := decide (a ≤ p) && decide (p + z ≤ a + n)

/-- An access to physical bytes meets an error. -/
def physBad (s : State) (store : Bool) (a n : Nat) : Bool := s.bad.any (fun p => meets store a n p (partSize p))

/-- Physical bytes are written: an error in a part that they cover is gone. -/
def healPhys (s : State) (a n : Nat) : State :=
  if s.bad = [] then s else { s with bad := s.bad.filter (fun p => !covers a n p (partSize p)) }

/-- An access of `n` bytes at a location meets an error. -/
def locBad (s : State) (store : Bool) (l : Loc) (n : Nat) : Bool :=
  match l with
  | .team t o => (match getTeam s t with | some x => x.bad.any (fun p => meets store o n p 8) | none => false)
  | .phys a => physBad s store a n

/-- Write `n` bytes at a physical address, little-endian. -/
def physSet (s : State) (a n x : Nat) : State := healPhys { s with mem := bytesSet s.mem a n x } a n

/-- Write a list of bytes at a physical address. -/
def physPut (s : State) (a : Nat) (l : List Byte) : State := healPhys { s with mem := bytesPut s.mem a l } a l.length

/-- Replace `n` bytes at a physical address by the bytes of a store, at their offsets. -/
def physFill (s : State) (a n : Nat) (m : Cells 8) : State :=
  healPhys { s with mem := cellSetAll (cellClear s.mem a n) (m.map (fun e => (a + e.1, e.2))) } a n

/-- Read `n` bytes at a location, little-endian (00 R3). -/
def locGet (s : State) (l : Loc) (n : Nat) : Nat :=
  match l with
  | .team t o => (match getTeam s t with | some x => bytesGet x.mem o n | none => 0)
  | .phys a => bytesGet s.mem a n

/-- Write `n` bytes at a location. -/
def locSet (s : State) (l : Loc) (n x : Nat) : State :=
  match l with
  | .team t o => modTeam s t (fun y => { y with mem := bytesSet y.mem o n x, bad := y.bad.filter (fun p => !covers o n p 8) })
  | .phys a => physSet s a n x

/-- The full/empty bit of the granule that holds a location (07 R138). -/
def feGet (s : State) (l : Loc) : Bool :=
  match l with
  | .team t o => (match getTeam s t with | some x => cellGet x.memFe (o / 16) == 1 | none => false)
  | .phys a => cellGet s.fe (a / 16) == 1

def feSet (s : State) (l : Loc) (full : Bool) : State :=
  let b : BitVec 1 := if full then 1 else 0
  match l with
  | .team t o => modTeam s t (fun y => { y with memFe := cellSet y.memFe (o / 16) b })
  | .phys a => { s with fe := cellSet s.fe (a / 16) b }

/-- The bytes of a group's spill window (07 R137), by offset. -/
def spillOf (s : State) (g : Group) : Cells 8 := cellSlice s.mem g.spillAt g.quota 0

/-- The full/empty bits of a group's spill window, by granule. -/
def spillFeOf (s : State) (g : Group) : Cells 1 := cellSlice s.fe (g.spillAt / 16) (g.quota / 16) 0

/-- Physical bytes have been replaced for every reader at once: what kept writes found there no longer counts (log 4). -/
def settle (s : State) (inside : Nat → Bool) : State :=
  if s.past = [] then s
  else { s with past := s.past.map (fun r =>
    match r.loc with
    | .phys a => { r with old := r.old.zipIdx.map (fun y => if inside (a + y.2) then cellGet s.mem (a + y.2) else y.1) }
    | .team .. => r) }

/-- The point of a granule lies in a range of physical bytes. -/
def Sync.granuleIn (y : Sync) (a n : Nat) : Bool :=
  match y.point with | .granule (.phys p) => decide (a ≤ p) && decide (p < a + n) | _ => false

/-- Zero a range of scratchpad and empty its full/empty bits (07 R137, R139). -/
def clearPad (s : State) (a n : Nat) : State :=
  settle (healPhys { s with
    mem := cellClear s.mem a n, fe := cellClear s.fe (a / 16) ((n + 15) / 16)
    sync := s.sync.filter (fun y => !y.granuleIn a n) } a n) (fun p => decide (a ≤ p) && decide (p < a + n))

/-- The fault of a near access of `n` bytes at an exact address, aligned to `al` (07 R140, R147): 0x11, 0x10, 0x12. -/
def nearFault (s : State) (w : Who) (a : Int) (n al : Nat) : Option Nat :=
  if a ≥ 2 ^ 32 then some 0x11
  else if a < 0 then some 0x10
  else match nearLoc s w a.toNat n with
    | none => some 0x10
    | some _ => if a.toNat % al ≠ 0 then some 0x12 else none

/-! ### Sealed ranges (08 R161, R162) -/

/-- A valid seal entry of the context covers a byte of `n` bytes at a canonical near address, for a team. -/
def sealHit (s : State) (w : Who) (a n : Nat) : Bool :=
  match getCtx s w.ctx with
  | none => false
  | some c =>
    let x := nearCanon w.core a
    c.seals.any (fun e => (decide (x ≥ 0x80000000) || e.team == w.team) &&
      decide (e.start < x + n) && decide (x < e.start + e.size))

/-! ### Translation (04 R68 to R71, 25 R368) -/

/-- `n` bytes at a physical address lie wholly within backed bytes of HBM or of the second tier, and the tier: 48 GB in each
stack's window and 3,072 GB, in decimal GB (00 R5, 25 R368). -/
def backedTier (a n : Nat) : Option Nat :=
  if a + n ≤ 8 * 2 ^ 36 then
    (if a % 2 ^ 36 + n ≤ 48 * 10 ^ 9 then some 0 else none)
  else if 0x10000000000 ≤ a ∧ a + n ≤ 0x10000000000 + 3072 * 10 ^ 9 then some 1
  else none

/-- A physical byte is backed: HBM, second tier or scratchpad (25 R368). -/
def backedByte (a : Nat) : Bool :=
  (backedTier a 1).isSome ||
  (decide (0x80000000000 ≤ a) && decide (a < 0x80000000000 + 4 * 2 ^ 30) &&
   decide ((a - 0x80000000000) % 2 ^ 30 < 304 * 2 ^ 20))

/-- What a translation finds. -/
inductive Tr where
  | page (phys size : Nat) (entryAt : Nat) (entry : Nat)  -- physical base of the page
  | nonResident (page entry : Nat)
  | unmapped (page : Nat)
  | refused
  deriving DecidableEq, Repr

/-- A page entry of a page of `size` bytes obeys 04 R69 and 25 R368. -/
def pageOk (e size : Nat) : Bool :=
  let addr := e / 2 ^ 8 % 2 ^ 44 * 2 ^ 8
  let tier := e / 2 ^ 58 % 4
  e / 2 ^ 60 == 0 && e / 2 ^ 52 % 64 == 0 && e / 2 % 2 == 0 && e / 2 ^ 7 % 2 == 0 &&
  addr % size == 0 && backedTier addr size == some tier

/-- An entry that points to a table obeys 04 R69 and 25 R368; `leaf` for an L1 entry with its leaf bit. -/
def tableOk (e : Nat) (leaf : Bool) : Bool :=
  let addr := e / 2 ^ 8 % 2 ^ 44 * 2 ^ 8
  let size := if leaf then 256 else 4096
  e / 2 ^ 52 == 0 && e / 2 % 64 == 0 && (e / 2 ^ 7 % 2 == 1) == leaf &&
  addr % size == 0 && (backedTier addr size).isSome

/-- One page entry read: its outcome. -/
def pageEntry (va size at_ e : Nat) : Tr :=
  if e % 2 = 0 then .unmapped (va / 65536 * 65536)
  else if !pageOk e size then .refused
  else if e / 64 % 2 = 0 then .nonResident (va / size * size) e
  else .page (e / 2 ^ 8 % 2 ^ 44 * 2 ^ 8) size at_ e

/-- The values that the host has replaced in a table entry and not yet invalidated, for a context. -/
def oldValues (s : State) (ctx a : Nat) : List Nat :=
  (s.oldEntries.filter (fun o => o.1 == ctx && o.2.1 == a)).map (fun o => o.2.2.toNat)

/-- A table entry as a context's translations read it: while a change by the host is not yet invalidated, an old value or
the new one, as the device has kept it (04 R70; DESIGN CHOICE, log 27). -/
def entryWord (s : State) (ctx a : Nat) : Nat :=
  match ((oldValues s ctx a).zipIdx).find? (fun o => Config.keepsOld s.tick (a * 2 ^ 16 + o.2)) with
  | some o => o.1
  | none => bytesGet s.mem a 8

/-- The walk from a table of a level (4 down to 1) at a physical address, with a reading of entries. A page that is not mapped
is named by its 64 KiB range. -/
def walk (rd : Nat → Nat) (va : Nat) : Nat → Nat → Tr
  | 0, _ => .refused
  | l + 1, tbl =>
    let at_ := tbl + 8 * (va / 2 ^ (21 + 9 * l) % 512)
    let e := rd at_
    if e % 2 = 0 then .unmapped (va / 65536 * 65536)
    else if l = 0 then
      (if e / 2 ^ 7 % 2 = 1 then
        if !tableOk e true then .refused
        else
          let at2 := e / 2 ^ 8 % 2 ^ 44 * 2 ^ 8 + 8 * (va / 65536 % 32)
          pageEntry va 65536 at2 (rd at2)
       else pageEntry va (2 ^ 21) at_ e)
    else if !tableOk e false then .refused
    else walk rd va l (e / 2 ^ 8 % 2 ^ 44 * 2 ^ 8)

/-- The addresses of the table entries that a walk reads. -/
def walkPath (rd : Nat → Nat) (va : Nat) : Nat → Nat → List Nat
  | 0, _ => []
  | l + 1, tbl =>
    let at_ := tbl + 8 * (va / 2 ^ (21 + 9 * l) % 512)
    let e := rd at_
    let next := e / 2 ^ 8 % 2 ^ 44 * 2 ^ 8
    at_ :: (if e % 2 = 0 then []
      else if l = 0 then (if e / 2 ^ 7 % 2 = 1 then [next + 8 * (va / 65536 % 32)] else [])
      else walkPath rd va l next)

/-- Translate a canonical main address of a context. -/
def translate (s : State) (ctx va : Nat) : Tr :=
  match getCtx s ctx with
  | none => .refused
  | some c => walk (entryWord s ctx) va 4 c.root.toNat

/-- The access kinds a page entry allows: bit 2 Read, 3 Write, 4 Execute (04 R69). -/
inductive Perm where
  | read | write | readWrite | execute
  deriving DecidableEq, Repr

def permOk (p : Perm) (e : Nat) : Bool :=
  match p with
  | .read => e / 4 % 2 == 1
  | .write => e / 8 % 2 == 1
  | .readWrite => e / 4 % 2 == 1 && e / 8 % 2 == 1
  | .execute => e / 16 % 2 == 1

/-- What a main access meets: a physical address, a fault, or a page request. -/
inductive Acc where
  | ok (phys : Nat)
  | flt (cause : Nat)
  | park (page : Nat)
  deriving DecidableEq, Repr

/-- A byte of a main address, through the context's translation; zero where it does not translate. -/
def mainByte (s : State) (ctx va : Nat) : Nat :=
  match translate s ctx va with
  | .page phys size _ _ => (cellGet s.mem (phys + va % size)).toNat
  | _ => 0

/-- A little-endian value of `n` bytes at a main address. -/
def mainPeek (s : State) (ctx va n : Nat) : Nat := (List.range n).foldl (fun k i => k + mainByte s ctx (va + i) * 256 ^ i) 0

/-- A main address lies in the descriptor or the pool of a live sparse region, which its index unit alone writes (05
R91). -/
def regionHit (s : State) (ctx va : Nat) : Bool :=
  match getCtx s ctx with
  | none => false
  | some c => c.regions.any (fun r =>
      (decide (r.desc ≤ va) && decide (va < r.desc + 64)) || (decide (r.pool ≤ va) && decide (va < r.pool + 256 * r.cap)))

/-- The access writes. -/
def Perm.writes : Perm → Bool | .write => true | .readWrite => true | _ => false

/-- A main access at an address that need not be canonical (04 R67 to R71, 05 R91). -/
def mainAcc (s : State) (ctx va : Nat) (p : Perm) : Acc :=
  if !isMain va then .flt 0x15
  else match translate s ctx va with
    | .page phys size _ e =>
      if permOk p e && !(p.writes && regionHit s ctx va) then .ok (phys + va % size) else .flt 0x15
    | .nonResident pg e => if permOk p e then .park pg else .flt 0x15
    | .unmapped pg => .park pg
    | .refused => .flt 0x15

/-- Count a line access to the 64 KiB page of a physical address, once for each line in a step (04 R73; DESIGN CHOICE, log
41). -/
def bumpAccess (s : State) (phys : Nat) : State :=
  let line := phys / 64
  let seen := if s.counted.1 = s.tick then s.counted.2 else []
  if seen.contains line then s
  else
    let k := phys / 65536
    let x := cellGet s.access k
    { s with counted := (s.tick, line :: seen), access := if x = 0xFFFF then s.access else cellSet s.access k (x + 1) }

/-! ### Events (02 R45, 04 R83) -/

/-- The six counts of an event record, in the order of 04 R82. -/
def Events.toList (e : Events) : List Nat := [e.sat, e.flush, e.nan, e.absent, e.clamp, e.discard]

/-- Add a count to a list keyed by tensor identifier × 6 + event. -/
def addCount (l : List (Nat × Nat)) (k n : Nat) : List (Nat × Nat) :=
  if n = 0 then l
  else match l with
    | [] => [(k, n)]
    | (k', m) :: rest => if k = k' then (k', m + n) :: rest else (k', m) :: addCount rest k n

/-- Charge events to a tensor identifier of a grid; identifier 0 is not counted (04 R83). -/
def charge (s : State) (grid tensor : Nat) (e : Events) : State :=
  if tensor = 0 ∨ e = {} then s
  else modGrid s grid (fun g =>
    { g with counts := (e.toList.zipIdx).foldl (fun l x => addCount l (tensor * 6 + x.2) x.1) g.counts })

/-- The tensor identifier of a shape record, [415:400] (04 R75). -/
def tensorId (h : BitVec 512) : Nat := (h.extractLsb' 400 16).toNat

/-- Charge a group's events to the tensor identifier in its `h0` (04 R83). -/
def chargeGroup (s : State) (g : Group) (e : Events) : State :=
  match getTeam s g.team with
  | some t => charge s t.grid (tensorId (cellGet g.h 0)) e
  | none => s

/-- A fresh identifier (DESIGN CHOICE, log 57). -/
def fresh (s : State) : Nat × State := (s.nextId, { s with nextId := s.nextId + 1 })

/-- Signal an MSI-X vector (25 R371, R382). -/
def signal (s : State) (v : Nat) : State := { s with msix := s.msix ++ [v] }

/-! ### Page requests (04 R71, R72, 25 R371) -/

/-- The page of entry k of a context's page-request table, if the entry is valid. -/
def requestAt (m : Memory) (save k : Nat) : Option Nat :=
  if bytesGet m (save + 16 * k + 8) 4 % 2 = 1 then some (bytesGet m (save + 16 * k) 8) else none

/-- Post a request for a page: one entry for each distinct page, and MSI-X vector 1. While the table is full the access
stays parked without a request. -/
def postPage (s : State) (ctx page : Nat) : State :=
  match getCtx s ctx with
  | none => s
  | some c =>
    let ks := List.range 1024
    if ks.any (fun k => requestAt s.mem c.save k == some page) then s
    else match ks.find? (fun k => (requestAt s.mem c.save k).isNone) with
      | none => s
      | some k =>
        let a := c.save + 16 * k
        signal (physSet s a 16 (page + 2 ^ 64)) 1

/-- The fault buffer's die and the number of entries that a wait holds there (04 R72). -/
def Wait.holds : Wait → Option (Nat × Nat)
  | .page _ true l d _ => some (d, l.length)
  | .fetch _ true d => some (d, 1)
  | _ => none

/-- The die and the number of entries that a wait still asks for. -/
def Wait.asks : Wait → Option (Nat × Nat)
  | .page _ false l d _ => some (d, l.length)
  | .fetch _ false d => some (d, 1)
  | _ => none

/-- The unit of a wait's entries, where it parks one operation at a time (04 R72): the index unit. -/
def Wait.isIndex : Wait → Bool | .page _ _ _ _ h => h == 3 | _ => false

/-- The index unit of a die has an operation parked. -/
def indexParked (s : State) (die : Nat) : Bool :=
  s.groups.any (fun g => match g.wait with | some w => w.isIndex && (w.holds.map (·.1)) == some die | none => false)

/-- The die whose engines an operation uses: Luna's is the die of its tree (01 R18, 12 R229). -/
def opDie (s : State) (op : EngineOp) : Nat :=
  match op.home with | some d => d | none => dieOf (physCore s op.context op.core)

/-- The engine of an operation has another operation parked: a copy engine, a fetch unit and Luna park one at a time (04 R72),
and a die has eight copy engines. -/
def engineParked (s : State) (op : EngineOp) : Bool :=
  let l := s.ops.filter (fun o => o.id != op.id && o.kind == op.kind && !o.parked.isEmpty && opDie s o == opDie s op)
  match op.kind with
  | .copy => decide (8 ≤ l.length)
  | .fetch => l.any (fun o => physCore s o.context o.core == physCore s op.context op.core)
  | .luna => !l.isEmpty
  | _ => false

/-- A group waits for entries of a die's fault buffer, and so does an operation, which its unit lets it have (04 R72). -/
def asksEntries (s : State) (die : Nat) (g : Group) : Bool :=
  match g.wait with
  | some w => (w.asks.map (·.1)) == some die && !(w.isIndex && indexParked s die)
  | none => false
def opAsks (s : State) (die : Nat) (o : EngineOp) : Bool := o.asks.isSome && opDie s o == die && !engineParked s o

/-- An earlier instruction or operation still waits for entries of a die's fault buffer (04 R72). -/
def bufferQueued (s : State) (die : Nat) : Bool := s.groups.any (asksEntries s die) || s.ops.any (opAsks s die)

/-- Take entries of a die's fault buffer; and give them back. -/
def takeEntries (s : State) (die n : Nat) : State := modDie s die (fun d => { d with buffered := d.buffered + n })
def giveEntries (s : State) (die n : Nat) : State := modDie s die (fun d => { d with buffered := d.buffered - n })

/-- Park a group's instruction on pages, with one entry for each line in a die's fault buffer: with all of them and its
requests posted, or waiting for entries. `again` is true of one whose page was answered and that still lacks others: it
keeps its turn (04 R71, R72). -/
def parkOn (s : State) (ctx : Nat) (pages lines : List Nat) (die holder : Nat) (again : Bool) : State × Wait :=
  if (getDie s die).buffered + lines.length ≤ 4096 ∧ (again || !bufferQueued s die) ∧ !(holder == 3 && indexParked s die) then
    (pages.foldl (fun s p => postPage s ctx p) (takeEntries s die lines.length), .page pages true lines die holder)
  else (s, .page pages false lines die holder)

end Sys2Proof.Machine
end

