-- ==== Sys2Proof/Machine/Order.lean ====
section
/-! DEFINITION. Which writes an access observes (24 R363 to R365, 13 R257 to R263). Memory holds the latest value of every
byte; a write that another agent made, and that nothing orders before a reader's access, is observed by it from some step on
(DESIGN CHOICE, log 4). A reader's view says what is ordered before its accesses. -/

namespace Sys2Proof.Machine

/-! ### Writers and readers -/

/-- Who makes a write, and as what. -/
structure Writer where
  cls : AccessClass := .group
  group : Nat := 0
  op : Nat := 0
  arms : List (Nat × Nat) := []
  atomic : Bool := false
  update : Bool := false
  releases : List Release := []
  deriving DecidableEq, Repr

/-- What is ordered before a reader's accesses: the writes `acquired`, and those of its own group before the age `own`; `id` names
the reader, and `op` the operation of an engine that it is; `blind` is an operation whose writes it does not observe at all (06
R131). A Luna reads each field apart, at `part`, and observes what Luna has written (12 R246, R249). -/
structure View where
  id : Nat
  group : Nat
  op : Nat := 0
  arms : List (Nat × Nat) := []
  acquired : List Nat
  own : Nat
  blind : Nat := 0
  part : Nat := 0
  luna : Bool := false
  deriving DecidableEq, Repr

/-- The bits of a mask (13 R257): T, K, C and X. -/
def maskT : Nat := 0
def maskK : Nat := 1
def maskC : Nat := 2
def maskX : Nat := 3
def maskP : Nat := 4

/-- Two places in conditionals are in different arms of one (14 R279). -/
def apart (a b : List (Nat × Nat)) : Bool := a.any (fun x => b.any (fun y => x.1 == y.1 && x.2 != y.2))

/-- The writes that a group has acquired for its accesses of a class, where it stands now: an acquire in one arm of a
conditional orders that arm's accesses, and those after its `endif` (14 R279). -/
def gained (g : Group) (bit : Nat) : List Nat :=
  (g.acquired.filter (fun x => x.classes.getLsbD bit && !apart x.arms g.arms)).map (·.age)

/-- The view of a group's accesses of a class. -/
def classView (s : State) (g : Group) (bit : Nat) : View :=
  { id := g.id, group := g.id, arms := g.arms, own := s.age, acquired := gained g bit }

/-- The view of a group. -/
def groupView (s : State) (g : Group) : View := classView s g maskT

/-- What an operation observes (06 R131): what was ordered before its issue. -/
def opView (op : EngineOp) : View :=
  { id := op.id, group := op.group, op := op.id, arms := op.arms, acquired := op.acquired, own := op.issueAge }

/-- A group as it writes, with what its releases carry. -/
def groupWriter (g : Group) (atomic : Bool) (releases : List Release) : Writer :=
  { group := g.id, arms := g.arms, atomic := atomic, update := atomic, releases := releases }

/-- A write is ordered before a reader's access. -/
def View.knows (v : View) (r : Write) : Bool :=
  r.settled || v.acquired.contains r.age || (v.op != 0 && r.op == v.op) || (v.luna && r.cls == .luna) ||
  (r.cls == .group && r.group == v.group && decide (r.age < v.own) && !apart r.arms v.arms)

/-- A reader observes a write now: it is ordered before, or its time has come, for this reader or for every one (17 R319). -/
def observes (s : State) (v : View) (r : Write) : Bool :=
  !(v.blind != 0 && r.op == v.blind) &&
    (v.knows r || decide (Config.observedFrom r.age v.id v.part ≤ s.tick) || decide (Config.observedBy r.age ≤ s.tick))

/-- A writer has made a write: as an operation of an engine, or on a group's behalf. -/
def Writer.made (w : Writer) (r : Write) : Bool := r.cls == w.cls && r.op == w.op && (w.op != 0 || r.group == w.group)

/-- The writes that a writer has made and that are kept, by age. -/
def madeBy (s : State) (w : Writer) : List Nat := (s.past.filter w.made).map (·.age)

/-- Luna as it answers a group, and the device as it writes on no group's behalf: the Admirals, a grid's end. -/
def lunaWriter (g : Nat) : Writer := { cls := .luna, group := g }
def deviceWriter : Writer := { cls := .engine }

/-! ### Reading -/

/-- The location `i` bytes on. -/
def Loc.plus (l : Loc) (i : Nat) : Loc :=
  match l with | .team t o => .team t (o + i) | .phys a => .phys (a + i)

/-- The first byte of a location's granule (07 R138). -/
def Loc.granule (l : Loc) : Loc :=
  match l with | .team t o => .team t (o / 16 * 16) | .phys a => .phys (a / 16 * 16)

/-- The place of a location among the `n` bytes from another. -/
def Loc.inside (l l0 : Loc) (n : Nat) : Option Nat :=
  match l, l0 with
  | .team t o, .team t' o' => if t = t' ∧ o' ≤ o ∧ o < o' + n then some (o - o') else none
  | .phys a, .phys a' => if a' ≤ a ∧ a < a' + n then some (a - a') else none
  | _, _ => none

/-- What a write replaced at a location, if it wrote there. -/
def Write.before (r : Write) (l : Loc) : Option Byte := (l.inside r.loc r.old.length).bind (fun i => r.old[i]?)

/-- A byte as a reader sees it: back through the writes that it does not observe, the latest first. -/
def lookBack (sees : Write → Bool) (l : Loc) (now : Byte) : List Write → Byte
  | [] => now
  | r :: rs =>
    match r.before l with
    | none => lookBack sees l now rs
    | some b => if sees r then now else lookBack sees l b rs

/-- Two runs of bytes have a byte in common. -/
def Loc.meets (l : Loc) (n : Nat) (k : Loc) (m : Nat) : Bool :=
  match l, k with
  | .team t o, .team t' o' => t == t' && decide (o < o' + m) && decide (o' < o + n)
  | .phys a, .phys a' => decide (a < a' + m) && decide (a' < a + n)
  | _, _ => false

def Write.meets (r : Write) (l : Loc) (n : Nat) : Bool := r.loc.meets r.old.length l n

/-- The kept writes, latest first, that lie before the one point at which a read of `n` bytes is made: those that its reader
observes there, and every earlier one to a byte of such a write, since each byte has one order of its writes (13 R262). -/
def seenWrites (sees : Write → Bool) (l : Loc) (n : Nat) (past : List Write) : List Write :=
  past.foldl (fun acc r =>
    if (r.meets l n && sees r) || acc.any (fun q => q.meets r.loc r.old.length) then acc ++ [r] else acc) []

/-- The `n` bytes at a location as a reader sees them, little-endian. -/
def locSeen (s : State) (v : View) (l : Loc) (n : Nat) : Nat :=
  if s.past = [] then locGet s l n
  else
    let seen := seenWrites (observes s v) l n s.past
    leNat ((List.range n).map (fun i =>
      lookBack (fun r => seen.any (·.age == r.age)) (l.plus i) (BitVec.ofNat 8 (locGet s (l.plus i) 1)) s.past))

/-- The write from which a reader's byte comes, and those before it in that byte's order. -/
def sourceOf (sees : Write → Bool) (l : Loc) : List Write → List Write
  | [] => []
  | r :: rs => if (r.before l).isSome && sees r then r :: rs.filter (fun q => (q.before l).isSome) else sourceOf sees l rs

/-- The releases that a byte's write chain makes a reader read from: the write's own, and behind an atomic's the earlier
ones (13 R258). -/
def chainReleases : List Write → List Release
  | [] => []
  | r :: rs => r.releases ++ (if r.atomic then rs.flatMap (·.releases) else [])

/-- The writes from which the bytes of a read come, by age, that its reader does not know of: it observes them from then on,
since its accesses to a byte keep their order (07 R148, 13 R262). -/
def readAges (s : State) (v : View) (sees : Write → Bool) (l : Loc) (n : Nat) : List Nat :=
  let seen := seenWrites sees l n s.past
  (((List.range n).filterMap (fun i => (sourceOf (fun r => seen.any (·.age == r.age)) (l.plus i) s.past).head?)).filter
    (fun r => !v.knows r)).foldl (fun acc r => if acc.contains r.age then acc else acc ++ [r.age]) []

/-- The same of a read at a location as a reader sees it. -/
def seenAges (s : State) (v : View) (l : Loc) (n : Nat) : List Nat :=
  if s.past = [] then [] else readAges s v (observes s v) l n

/-- The releases from which a read of `n` bytes reads. -/
def releasesRead (s : State) (sees : Write → Bool) (l : Loc) (n : Nat) : List Release :=
  let seen := seenWrites sees l n s.past
  ((List.range n).flatMap (fun i => chainReleases (sourceOf (fun r => seen.any (·.age == r.age)) (l.plus i) s.past))).foldl
    (fun acc r => if acc.contains r then acc else acc ++ [r]) []

/-! ### Writing -/

/-- Every group there is: live, or held in an image. -/
def allGroups (s : State) : List Group := s.groups ++ s.teams.flatMap (·.savedGroups)

/-- Some reader may miss a write: another group, the issuer of an engine's operation or the operation itself, an operation under
way, or another arm of a conditional. -/
def missable (s : State) (w : Writer) : Bool :=
  !w.arms.isEmpty || w.op != 0 || !s.ops.isEmpty || (allGroups s).any (fun g => w.cls != .group || g.id != w.group)

/-- A group knows of a write for its accesses of every class. -/
def knownTo (s : State) (r : Write) (g : Group) : Bool := [maskT, maskC, maskX].all (fun b => (classView s g b).knows r)

/-- The writes that are kept: without the oldest ones that every group, and every operation under way but their own, knows of. -/
def keptWrites (s : State) : List Write :=
  ((s.past.reverse).dropWhile (fun r =>
    (allGroups s).all (knownTo s r) && s.ops.all (fun o => o.id != r.op && (opView o).knows r))).reverse

/-- A write of `n` bytes is noted with what it replaces. -/
def noteWrite (s : State) (w : Writer) (l : Loc) (n : Nat) : State :=
  { s with
    past := { age := s.age, cls := w.cls, group := w.group, op := w.op, arms := w.arms, loc := l, old := leBytes n (locGet s l n),
              atomic := w.atomic, update := w.update, releases := w.releases } :: keptWrites s
    age := s.age + 1 }

/-- The latest write over some bytes is a store to just these bytes that the storing group does not observe: its store may take its
place before that one in the order of writes (13 R262, 14 R279, 24 R363). -/
def overtaken (s : State) (w : Writer) (l : Loc) (n : Nat) : Option Nat :=
  match s.past.findIdx? (·.meets l n), getGroup s w.group with
  | some k, some g =>
    (match s.past[k]? with
     | some r =>
       if w.cls = .group ∧ r.loc = l ∧ r.old.length = n ∧ !r.update ∧ !w.update ∧ !observes s (groupView s g) r ∧
           Config.goesBefore s.tick r.age then some k
       else none
     | none => none)
  | _, _ => none

/-- A store that takes its place just before write k: memory keeps the bytes of write k. -/
def storeBefore (s : State) (w : Writer) (k : Nat) (l : Loc) (n x : Nat) : State :=
  match s.past[k]? with
  | none => s
  | some r =>
    let mine : Write := { age := s.age, cls := w.cls, group := w.group, op := w.op, arms := w.arms, loc := l, old := r.old,
                          atomic := w.atomic, update := w.update, releases := w.releases }
    { s with past := s.past.take k ++ [{ r with old := leBytes n x }, mine] ++ s.past.drop (k + 1), age := s.age + 1 }

/-- Write `n` bytes at a location, as a writer. A write that no reader can miss is kept all the same over one that is kept. -/
def locStore (s : State) (w : Writer) (l : Loc) (n x : Nat) : State :=
  if !missable s w && s.past.all (fun r => !r.meets l n) then locSet s l n x
  else match overtaken s w l n with
    | some k => storeBefore s w k l n x
    | none => locSet (noteWrite s w l n) l n x

/-- The writes made since a state are one write: of one value, in two pages. -/
def asOneWrite (before after : State) : State :=
  { after with past := after.past.map (fun r => if before.age ≤ r.age then { r with age := before.age } else r) }

/-- From now on every reader observes the writes to `n` bytes. -/
def settleRange (s : State) (l : Loc) (n : Nat) : State :=
  { s with past := s.past.map (fun r => if r.meets l n then { r with settled := true } else r) }

/-! ### Synchronising -/

/-- What a point carries. -/
def released (s : State) (p : Point) : List Nat := match s.sync.find? (·.point == p) with | some y => y.ages | none => []

/-- A list of ages with those of another. -/
def joinAges (a b : List Nat) : List Nat := a ++ b.filter (fun x => !a.contains x)

/-- Leave at a point what is released there, in place of what it carried; and beside it. -/
def replaceAt (s : State) (p : Point) (ages : List Nat) : State :=
  let rest := s.sync.filter (·.point != p)
  { s with sync := if ages.isEmpty then rest else { point := p, ages := ages } :: rest }
def releaseAt (s : State) (p : Point) (ages : List Nat) : State := replaceAt s p (joinAges (released s p) ages)

/-- The writes that a view orders before its accesses, by age: what a release without a mask carries (24 R364, R365). -/
def View.carried (v : View) (s : State) : List Nat := (s.past.filter v.knows).map (·.age)

/-- What a group releases without a mask. -/
def groupCarries (s : State) (g : Group) : List Nat := (groupView s g).carried s

/-- The classes of access that such a link reaches: all (24 R364). -/
def everyClass : BitVec 6 := 0b111101

/-- What a group has acquired, with more that it acquires for every class of its accesses. -/
def acquiredToo (old : List Gain) (arms : List (Nat × Nat)) (ages : List Nat) : List Gain :=
  ages.map (fun a => { age := a, classes := everyClass, arms := arms }) ++
    old.filter (fun x => !(ages.contains x.age && x.arms == arms))

/-- What a group has acquired, as that of a group that stands in no conditional. -/
def atEnd (l : List Gain) : List Gain := l.map (fun x => { x with arms := [] })

/-- A group acquires writes through a link without a mask (24 R364, R365). -/
def acquireAges (s : State) (g : Nat) (ages : List Nat) : State :=
  if ages = [] then s else modGroup s g (fun x => { x with acquired := acquiredToo x.acquired x.arms ages })

/-- A release of a group with a mask (13 R258, R260). -/
def releaseOf (s : State) (g : Group) (m : BitVec 6) : Release :=
  { group := g.id, team := g.team, mask := m, arms := g.arms, age := s.age, acquired := (groupView s g).acquired }

/-- What a scoped store or atomic of a group releases (13 R258, R261); a fence in one arm of a conditional is none in another
(14 R279). -/
def releasesOf (s : State) (g : Group) (release : Bool) (m : BitVec 6) : List Release :=
  (if release then [releaseOf s g m] else []) ++ g.fences.filter (fun r => !apart r.arms g.arms)

/-- The classes of a group's later accesses that observe a write, once an acquire with a mask has read from a release: none where
the release does not carry it, or the reach does not name its class (13 R257, R258). Bit T stands for plain accesses. -/
def Release.carries (r : Release) (m : BitVec 6) (team : Nat) (p : Write) : BitVec 6 :=
  let reach := r.mask &&& m
  let grp := (r.team == team && reach.getLsbD maskT) || reach.getLsbD maskK
  let issued := p.group == r.group && decide (p.age < r.age) && !apart p.arms r.arms
  let mine := issued && (match p.cls with
    | .group => grp
    | .copy => reach.getLsbD maskC
    | .engine => reach.getLsbD maskX
    | .luna => reach.getLsbD maskX
    | .peer => false)
  let passed := grp && r.acquired.contains p.age
  if mine || passed then (reach &&& 0b111100) ||| (if grp then 1 else 0) else 0

/-- A group acquires from releases that it has read from. -/
def acquireFrom (s : State) (g : Nat) (m : BitVec 6) (l : List Release) : State :=
  modGroup s g (fun x =>
    let gain := s.past.filterMap (fun p =>
      let c := l.foldl (fun c r => c ||| r.carries m x.team p) (0 : BitVec 6)
      if c = 0 then none else some { age := p.age, classes := c, arms := x.arms : Gain })
    if gain = [] then x else { x with acquired := gain ++ x.acquired.filter (fun a => !gain.contains a) })

/-- The releases that an acquire fence of a group acquires from: those that its scoped accesses have read from, but for other arms
of a conditional that it stands in (13 R261, 14 R279). -/
def readReleases (g : Group) : List Release := (g.loose.filter (fun r => !apart r.arms g.arms)).map (·.release)

/-- Keep the releases that a group's scoped accesses have read from, for its acquire fences (13 R261). -/
def keepReleases (s : State) (g : Nat) (l : List Release) : State :=
  if l = [] then s
  else modGroup s g (fun x =>
    let new := l.map (fun r => { release := r, arms := x.arms : ReadFrom })
    { x with loose := new ++ x.loose.filter (fun r => !new.contains r) })

end Sys2Proof.Machine
end

