-- ==== Sys2Proof/Machine/Scoreboard.lean ====
section
/-! DEFINITION. What holds a group's next word: its fetch (14 R276), the scoreboard (08 R152), and earlier operations of the
matrix engine (11 R209, R227). -/

namespace Sys2Proof.Machine

/-- The instruction that a word holds. -/
def instrOf (w : Word) : Option Instr := match decode w with | .ok i => some i | .error _ => none

/-- An operand field, if the word has it. -/
def opndOf (f : Option (Role × Opnd)) : Option Opnd := f.map (·.2)

/-- The field codes of the registers that an operand names. -/
def regCodes (o : Option Opnd) (pair : Bool) : List Nat :=
  match o with
  | some (.v n) => if pair then [n.val, n.val + 1] else [n.val]
  | some (.s n) => [0xC0 + n.val]
  | _ => []

/-! ### Fetching -/

/-- What a fetch meets. -/
inductive Fetched where
  | word (w : Word)
  | park (page : Nat)
  | flt (cause : Nat)
  deriving DecidableEq, Repr

/-- The word at a group's program counter, through the context's translation with the Execute bit, and an uncorrectable error in it (14 R276). -/
def fetchWord (s : State) (g : Group) : Fetched :=
  match mainAcc s (whoOf s g).ctx g.pc.toNat .execute with
  | .ok p => if physBad s false p 4 then .flt 0x50 else .word (BitVec.ofNat 32 (bytesGet s.mem p 4))
  | .flt c => .flt c
  | .park pg => .park pg

/-! ### The scoreboard (08 R152) -/

/-- A field of the mode register. -/
def modeField (m : BitVec 25) (lo n : Nat) : Nat := m.toNat / 2 ^ lo % 2 ^ n

/-- The vector type code, [24:17]; and whether that type has 64 bits (02 R21). -/
def vtypeCode (m : BitVec 25) : Nat := modeField m 17 8
def wideMode (m : BitVec 25) : Bool := vtypeCode m == 0x07 || vtypeCode m == 0x1B

/-- Words whose result comes late: loads, divisions, special functions and atomics. A tile read's comes from the matrix engine. -/
def longWord : Instr → Bool
  | .ld .. => true
  | .ldo .. => true
  | .div .. => true
  | .sqrt .. => true
  | .rsqrt .. => true
  | .recip .. => true
  | .exp2 .. => true
  | .log2 .. => true
  | .sin .. => true
  | .cos .. => true
  | .tanh .. => true
  | .sigm .. => true
  | .aadd .. => true
  | .amin .. => true
  | .amax .. => true
  | .aand .. => true
  | .aor .. => true
  | .axor .. => true
  | .axch .. => true
  | .acas .. => true
  | _ => false

/-- The number that stands for the latches among field codes. -/
def latchCode : Nat := 256

/-- The registers of an operand field, with the second one of a pair; a latch stands for all of them. -/
def fieldCodes (pair : Bool) (f : Option (Role × Opnd)) : List Nat :=
  match opndOf f with
  | some (.b _) => [latchCode]
  | o => regCodes o pair

/-- The field code of an operand's register. -/
def codeOf (f : Option (Role × Opnd)) : List Nat := regCodes (opndOf f) false

/-- The registers after that of an operand, `k` of them. -/
def codesAfter (f : Option (Role × Opnd)) (k : Nat) : List Nat := (codeOf f).flatMap (fun c => (List.range k).map (fun j => c + 1 + j))

/-- Which of the fields d, a and b name a pair where they name a vector register (02 R23): as wide as the vector type, but that an
address is a pair, and an index, a place or a count is none. -/
def fieldPairs (m : BitVec 25) (i : Instr) : Bool × Bool × Bool :=
  let w := wideMode m
  match i with
  | .ld .. => (w, true, false)
  | .st .. => (w, true, false)
  | .stfe .. => (w, true, false)
  | .ldfe .. => (w, true, false)
  | .wfeFull .. => (w, true, false)
  | .wfeEmpty .. => (w, true, false)
  | .ldo .. => (w, true, false)
  | .sto .. => (w, true, false)
  | .aadd .. => (w, true, false)
  | .amin .. => (w, true, false)
  | .amax .. => (w, true, false)
  | .aand .. => (w, true, false)
  | .aor .. => (w, true, false)
  | .axor .. => (w, true, false)
  | .axch .. => (w, true, false)
  | .acas .. => (w, true, false)
  | .cvt _ _ _ _ f => (w, f.toNat == 0x07 || f.toNat == 0x1B, false)
  | .lrd .. => (w, w, false)
  | .lidx .. => (false, false, false)
  | .matchLanes .. => (true, w, false)
  | .spld .. => (w, false, false)
  | .spst .. => (w, false, false)
  | .spadd .. => (w, false, false)
  | .spit .. => (true, false, false)
  | .tdesc .. => (false, false, false)
  | .texp .. => (false, true, false)
  | .tback .. => (true, false, false)
  | .trd .. => (false, false, false)
  | .rqpush .. => (true, true, false)
  | .item .. => (true, true, false)
  | .depDec .. => (false, false, false)
  | .jmp .. => (false, true, false)
  | .bar .. => (false, true, false)
  | .barArr .. => (false, true, false)
  | _ => (w, w, w)

/-- The coordinate registers after `a` of a sparse word: as many as its record's rank asks for (05 R100). -/
def coordsAfter (g : Group) (f : Option (Role × Opnd)) (h : Nat) : List Nat :=
  codesAfter f ((cellGet g.h h).extractLsb' 392 2).toNat

/-- The registers that a word reads or writes beside those that its fields name. -/
def furtherCodes (g : Group) (i : Instr) : List Nat :=
  let f := i.form
  let sc (l : List Nat) : List Nat := l.map (0xC0 + ·)
  match i with
  | .call .. => [0xC0 + 55]
  | .sealRange .. => codesAfter f.a 1
  | .tlread .. => codesAfter f.d 1
  | .spcnt .. => codesAfter f.d 1
  | .redAdd .. => codesAfter f.d 1
  | .redMin .. => codesAfter f.d 1
  | .redMax .. => codesAfter f.d 1
  | .redAnd .. => codesAfter f.d 1
  | .redOr .. => codesAfter f.d 1
  | .redCnt .. => codesAfter f.d 1
  | .dot .. => codesAfter f.d 1
  | .acas .. => codesAfter f.d (if wideMode g.mode then 3 else 1)
  | .tback _ _ _ r => (0xC0 + r.toNat) :: codesAfter f.d 1
  | .trd _ _ _ r => (0xC0 + r.toNat) :: codesAfter f.d 3
  | .tnew _ _ _ r => [0xC0 + r.toNat]
  | .tdesc _ _ _ r => [0xC0 + r.toNat]
  | .texp _ _ _ _ r => [0xC0 + r.toNat]
  | .treuse _ _ _ r => [0xC0 + r.toNat]
  | .tgrow _ _ _ _ r => [0xC0 + r.toNat]
  | .rqpush _ _ _ r => [0xC0 + r.toNat]
  | .rqwait _ _ _ r => [0xC0 + r.toNat]
  | .spld _ _ _ _ h => coordsAfter g f.a h.toNat
  | .spst _ _ _ h => coordsAfter g f.a h.toNat
  | .spadd _ _ _ h => coordsAfter g f.a h.toNat
  | .spit .. => codesAfter f.d 2
  | .tlbind _ _ n => sc [n.toNat]
  | .tlwait _ n => sc [n.toNat]
  | .copyGth _ _ _ _ n => sc [n.toNat]
  | .copySct _ _ _ _ n => sc [n.toNat]
  | .copyBlk _ _ _ _ n => sc [n.toNat]
  | .copyMig _ _ _ n => sc [n.toNat]
  | .fetch _ d _ _ n => sc ((List.range (((cellGet g.h d.toNat).extractLsb' 392 2).toNat + 1)).map (n.toNat + ·))
  | .fetchLst _ _ _ _ n => sc [n.toNat]
  | .topkR _ _ _ _ n => sc [n.toNat]
  | .topkC _ _ _ _ n => sc [n.toNat]
  | .collArAdd _ _ _ _ n => sc [n.toNat, n.toNat + 1]
  | .collArMin _ _ _ _ n => sc [n.toNat, n.toNat + 1]
  | .collArMax _ _ _ _ n => sc [n.toNat, n.toNat + 1]
  | .collRsAdd _ _ _ _ n => sc [n.toNat, n.toNat + 1]
  | .collRsMin _ _ _ _ n => sc [n.toNat, n.toNat + 1]
  | .collRsMax _ _ _ _ n => sc [n.toNat, n.toNat + 1]
  | .collAg _ _ _ _ n => sc [n.toNat, n.toNat + 1]
  | .collA2a _ _ _ _ n => sc [n.toNat, n.toNat + 1]
  | .psetReform _ _ n => sc [n.toNat, n.toNat + 1, n.toNat + 2]
  | .xrel _ u => (List.range 32).map (64 + 32 * u.toNat + ·)
  | _ => []

/-- What a word writes late, and what a word of a group reads or writes (08 R152). -/
def lateCodes (m : BitVec 25) (i : Instr) : List Nat :=
  if i.form.t then [latchCode] else latchCode :: fieldCodes (fieldPairs m i).1 i.form.d
def usedCodes (g : Group) (i : Instr) : List Nat :=
  let p := fieldPairs g.mode i
  fieldCodes p.1 i.form.d ++ fieldCodes p.2.1 i.form.a ++ fieldCodes p.2.2 i.form.b ++ furtherCodes g i

/-- Words that issue once every earlier word of the group has finished (21 R348, R349, 25 R375, 14 R282 to R288). -/
def waitsForAll : Instr → Bool
  | .exit .. => true
  | .trap .. => true
  | .rth => true
  | .snap .. => true
  | .fuse => true
  | .split .. => true
  | _ => false

/-- A group's matrix operations outstanding that are no operations of a timeline (11 R209). -/
def matrixWords (s : State) (g : Group) : List MatrixOp :=
  (getCore s (whoOf s g).phys).matrix.filter (fun m => m.group == g.id && m.op.isNone)

/-- A word must wait for an unfinished word of its group: its matrix operations are such words too (11 R209). -/
def scoreboardHolds (s : State) (g : Group) (i : Instr) : Bool :=
  decide (24 ≤ g.unfinished.length + (matrixWords s g).length) ||
  (waitsForAll i && (!g.unfinished.isEmpty || !(matrixWords s g).isEmpty)) ||
  g.unfinished.any (fun l => l.any (fun c => (usedCodes g i).contains c))

/-- The slots and tiles that a word names. -/
def matrixNames : Instr → List Nat × List Nat
  | .slotr _ k => ([k.toNat], [])
  | .slotw _ k _ => ([k.toNat], [])
  | .slotl _ k _ _ => ([k.toNat], [])
  | .slott _ k _ _ => ([k.toNat], [])
  | .prune _ d k _ => ([d.toNat, k.toNat], [])
  | .accz _ _ _ z => ([], [z.toNat])
  | .mmaS _ a b z => ([a.toNat, b.toNat], [z.toNat])
  | .mmaX _ a b z => ([a.toNat, b.toNat], [z.toNat])
  | .mmaSp _ a b _ z => ([a.toNat, b.toNat], [z.toNat])
  | .mmav _ v _ _ _ _ z => ([v.toNat], [z.toNat])
  | .accr _ _ _ _ z => ([], [z.toNat])
  | .accw _ _ _ z => ([], [z.toNat])
  | .slotc k .. => ([k.toNat], [])
  | _ => ([], [])

/-- An entry of the matrix engine has not had its effect: an `mmav`, or an operation that waits for an earlier one. -/
def MatrixOp.unapplied (m : MatrixOp) : Bool := m.op.isSome || m.todo.isSome

/-- An entry names one of some slots or tiles of a team. -/
def MatrixOp.overlaps (m : MatrixOp) (team : Nat) (slots tiles : List Nat) : Bool :=
  m.team == team && (m.slots.any (slots.contains ·) || m.tiles.any (tiles.contains ·))

/-- A word's operation must wait in the matrix engine for an earlier one on one of its slots or tiles (11 R209). -/
def matrixBlocked (s : State) (g : Group) (i : Instr) : Bool :=
  let n := matrixNames i
  (getCore s (whoOf s g).phys).matrix.any (fun m => m.unapplied && m.overlaps g.team n.1 n.2)

/-- Words that write near memory: held until the group's earlier slot loads have read their bytes (11 R227). -/
def storesNear : Instr → Bool
  | .st .. => true
  | .stfe .. => true
  | .sto .. => true
  | .aadd .. => true
  | .amin .. => true
  | .amax .. => true
  | .aand .. => true
  | .aor .. => true
  | .axor .. => true
  | .axch .. => true
  | .acas .. => true
  | .shst .. => true
  | .copyIn .. => true
  | .copyNn .. => true
  | .copyRdAdd .. => true
  | .copyRdMin .. => true
  | .copyRdMax .. => true
  | .copyDns .. => true
  | .copyGth .. => true
  | .copySct .. => true
  | .copyBlk .. => true
  | .fetch .. => true
  | .fetchLst .. => true
  | .topkR .. => true
  | .topkC .. => true
  | .collArAdd .. => true
  | .collArMin .. => true
  | .collArMax .. => true
  | .collRsAdd .. => true
  | .collRsMin .. => true
  | .collRsMax .. => true
  | .collAg .. => true
  | .collA2a .. => true
  | .psetReform .. => true
  | .tnew .. => true
  | .tdesc .. => true
  | .texp .. => true
  | .tback .. => true
  | .treuse .. => true
  | .tgrow .. => true
  | _ => false

/-- A slot load or `slotw` of the group has not read its bytes yet. -/
def loadsOpen (s : State) (g : Group) : Bool :=
  (getCore s (whoOf s g).phys).matrix.any (fun m => m.group == g.id &&
    (match m.todo.bind (fun t => instrOf t.1.word) with
     | some (.slotw ..) => true
     | some (.slotl ..) => true
     | some (.slott ..) => true
     | _ => false))

/-- The rounding of a mode is stochastic (02 R36). -/
def stochastic (m : BitVec 25) : Bool := modeField m 11 3 == 6

/-- A word reads or writes what a tile read of its group that is still in the engine is to write: its register, its latch, or the
stochastic states that it steps (02 R37, 11 R209). -/
def behindTileRead (s : State) (g : Group) (i : Instr) : Bool :=
  (matrixWords s g).any (fun m =>
    match m.todo with
    | none => false
    | some t => (match instrOf t.1.word with
      | some (.accr e t' d a z) =>
        (lateCodes t.1.mode (.accr e t' d a z)).any (fun c => (usedCodes g i).contains c) || (stochastic t.1.mode && stochastic g.mode)
      | _ => false))

/-- A word does not issue yet: it is behind a tile read or, as a store, behind a slot load; or, of the queue, it waits for every
earlier word (11 R209, R227, 21 R348). -/
def matrixHolds (s : State) (g : Group) (i : Instr) : Bool :=
  behindTileRead s g i || (storesNear i && loadsOpen s g) || (!g.rq.isEmpty && waitsForAll i && !(matrixWords s g).isEmpty)

/-! ### What the matrix engine may do next (11 R209) -/

/-- The operation at a place of a core's matrix engine waits, and nothing holds it back. -/
def matrixReady (l : List MatrixOp) (k : Nat) : Bool :=
  match l[k]? with
  | some m => m.todo.isSome && m.failed.isNone && !(l.take k).any (fun o => o.unapplied && o.overlaps m.team m.slots m.tiles)
  | none => false

/-- The words of a group that stand in the engine without their effect. -/
def matrixLeft (s : State) (g : Group) : List MatrixOp :=
  (getCore s (whoOf s g).phys).matrix.filter (fun m => m.group == g.id && m.todo.isSome)

/-- The engine may still bring such a word to its end, or one that stands before it. -/
def matrixRuns (s : State) (g : Group) : Bool :=
  let l := (getCore s (whoOf s g).phys).matrix
  (List.range l.length).any (fun k => matrixReady l k && (l.drop k).any (fun m => m.group == g.id && m.todo.isSome))

end Sys2Proof.Machine
end

