-- ==== Sys2Proof/Machine/Shape.lean ====
section
/-! DEFINITION. Shape records, coordinates and `locate` (04 R75 to R81), where the operands of a queued word stand (21 R345), and the
key that a sparse word's lane names (05 R92). -/

namespace Sys2Proof.Machine

/-! ### Shape records (04 R75 to R78) -/

/-- The fields of a shape record. -/
structure Shape where
  base : Nat
  ext : List Nat
  stride : List Int
  type : Nat
  rank : Nat
  oob : Nat
  cls : Nat
  tid : Nat
  bound : Nat
  aux : Nat
  deriving DecidableEq, Repr

/-- A field of a record. -/
def recField (h : BitVec 512) (lo n : Nat) : Nat := (h.extractLsb' lo n).toNat

/-- A 48-bit stride. -/
def strideOf (x : Nat) : Int := if x < 2 ^ 47 then Int.ofNat x else Int.ofNat x - 2 ^ 48

/-- Read a record's fields. -/
def Shape.of (h : BitVec 512) : Shape :=
  { base := recField h 0 64
    ext := [recField h 64 32, recField h 96 32, recField h 128 32, recField h 160 32]
    stride := [strideOf (recField h 192 48), strideOf (recField h 240 48), strideOf (recField h 288 48),
               strideOf (recField h 336 48)]
    type := recField h 384 8, rank := recField h 392 2 + 1, oob := recField h 394 2, cls := recField h 396 4,
    tid := recField h 400 16, bound := recField h 416 32, aux := recField h 448 64 }

/-- A record is valid (04 R76). -/
def Shape.valid (h : Shape) : Bool :=
  (Ty.ofCode h.type).isSome && h.type != 8 && h.type != 9 && decide (h.cls ≤ 3) && h.oob != 3 &&
  (h.cls != 0 || h.aux == 0)

def Shape.ty (h : Shape) : Ty := (Ty.ofCode h.type).getD (.raw 32)

/-- Bytes of an element. -/
def Shape.bytes (h : Shape) : Nat := h.ty.width / 8

/-- Extent of a dimension; 1 at or above the rank. -/
def Shape.extAt (h : Shape) (d : Nat) : Nat := if d < h.rank then h.ext.getD d 1 else 1

/-- Elements of the record's box. -/
def Shape.count (h : Shape) : Nat := h.extAt 0 * h.extAt 1 * h.extAt 2 * h.extAt 3

/-- A coordinate: absent, or an exact sum within the i32 range (04 R77). -/
abbrev Coord := Option Int

/-- An exact sum as a coordinate. -/
def coordOf (x : Int) : Coord := if -(2 ^ 31 : Int) < x ∧ x < 2 ^ 31 then some x else none

/-- The coordinates of an element of a box by its linear index. -/
def Shape.coords (h : Shape) (k : Nat) : List Int :=
  let a := k / h.extAt 0
  let b := a / h.extAt 1
  [Int.ofNat (k % h.extAt 0), Int.ofNat (a % h.extAt 1), Int.ofNat (b % h.extAt 2), Int.ofNat (b / h.extAt 2)]

/-- One coordinate clamped and checked (04 R77). -/
def Shape.coordAt (h : Shape) (c : List Coord) (d : Nat) : Option Int :=
  match c.getD d none with
  | none => none
  | some x =>
    let x := if h.oob = 1 then min (max x 0) (Int.ofNat (h.extAt d) - 1) else x
    if x < 0 ∨ x ≥ Int.ofNat (h.extAt d) then none else some x

/-- The coordinates below the rank, clamped and checked; none when one fails. -/
def Shape.clamped (h : Shape) (c : List Coord) : Option (List Int) :=
  if h.base = na64 then none
  else (List.range h.rank).foldl (fun acc d =>
    match acc, h.coordAt c d with
    | some l, some x => some (l ++ [x])
    | _, _ => none) (some [])

/-- The offset of an element in elements. -/
def Shape.offset (h : Shape) (c : List Int) : Int :=
  if h.cls = 1 ∨ h.cls = 3 then
    ((c.zipIdx).reverse).foldl (fun off x => off * Int.ofNat (h.extAt x.2) + x.1) 0
  else (c.zipIdx).foldl (fun off x => off + x.1 * h.stride.getD x.2 0) 0

/-- `locate` (04 R77): the exact address of an element; none when nothing is touched. -/
def Shape.locate (h : Shape) (c : List Coord) : Option Int :=
  match h.clamped c with
  | none => none
  | some l =>
    let off := h.offset l
    if h.bound ≠ 0xFFFFFFFF ∧ (off < 0 ∨ off ≥ Int.ofNat h.bound) then none
    else some (Int.ofNat h.base + off * Int.ofNat h.bytes)

/-- Where a write goes: an element outside the extents is discarded under every policy, also under that of clamping (04 R77). -/
def Shape.target (h : Shape) (c : List Coord) : Option Int := { h with oob := 0 }.locate c

/-- What a read gives where nothing is located (04 R77). -/
def Shape.fill (h : Shape) : Nat := if h.oob = 2 then 0 else h.ty.na

/-- A record's base is a near address, a main address, or absent. -/
def Shape.near (h : Shape) : Bool := decide (h.base < 2 ^ 32)
def Shape.main (h : Shape) : Bool := isMain h.base
def Shape.absent (h : Shape) : Bool := h.base == na64

/-! ### The operands of a queued word (21 R345) -/

def isS (f : Option (Role × Opnd)) : Bool := match f with | some (_, .s _) => true | _ => false

/-- Where a further register stands: the upper part of a field's own slot, or a slot of its own, whole or in part. -/
inductive Place where
  | upper (slot : Nat)   -- bits [63:32] of each lane of slot a (0), b (1), d (2), or the second 8 bytes of a scalar one
  | nth (slot k : Nat)   -- the 8 bytes numbered k of a slot that holds a scalar, or scalars alone
  | whole (slot : Nat)
  deriving DecidableEq, Repr

/-- A slot of an entry. -/
def slotOf (e : Entry) (k : Nat) : Cells 64 := if k = 0 then e.slotA else if k = 1 then e.slotB else e.slotD

/-- Read a further register in a lane from its place. -/
def extraVal (vec : Bool) (e : Entry) (p : Place) (i : Nat) : Nat :=
  match p with
  | .upper k => if vec then (cellGet (slotOf e k) i).toNat / 2 ^ 32 else (cellGet (slotOf e k) (i + 1)).toNat
  | .nth k n => (cellGet (slotOf e k) n).toNat
  | .whole k => (cellGet (slotOf e k) i).toNat

/-- The slot of a place. -/
def Place.slot : Place → Nat | .upper k => k | .nth k _ => k | .whole k => k

/-! ### The key of a sparse word (05 R92) -/

/-- Where coordinates 1 to 3 are captured (21 R345): in the rest of slot `a` where they are scalars, else beside coordinate 0 and
in slot `b`. -/
def coordPlaces (f : Form) : List Place := if isS f.a then [.nth 0 1, .nth 0 2, .nth 0 3] else [.upper 0, .whole 1, .upper 1]

/-- The coordinates of a lane of a queued word, read at i32. -/
def entryCoords (f : Form) (e : Entry) (rank i : Nat) : List Coord :=
  let i := if isS f.a then 0 else i
  let one (k : Nat) : Nat :=
    if k = 0 then (cellGet e.slotA i).toNat
    else match (coordPlaces f)[k - 1]? with | some p => extraVal e.vec e p i | none => 0
  (List.range rank).map (fun k => i32? (one k))

/-- The key of a lane (05 R92); none where nothing is located. -/
def sparseKey (h : Shape) (c : List Coord) : Option Nat :=
  match h.clamped c with
  | none => none
  | some l =>
    let k := h.offset l
    if h.bound ≠ 0xFFFFFFFF ∧ k ≥ Int.ofNat h.bound then none else some k.toNat

/-- Where a `spst` or `spadd` writes: an element outside the extents is discarded under every policy (04 R77). -/
def sparseTarget (h : Shape) (c : List Coord) : Option Nat := sparseKey { h with oob := 0 } c

end Sys2Proof.Machine
end

