-- ==== Sys2Proof/Machine/Snapshot.lean ====
section
/-! DEFINITION. Frames of a core's register file (08 R151) and the snapshot block (25 R375 to R377): what every block
latches when the common trigger is pulled. -/

namespace Sys2Proof.Machine

/-- The groups resident on a core (cores and dies are numbered by their physical places; 01 R11). -/
def coreGroups (s : State) (c : Nat) : List Group :=
  s.groups.filter (fun g => match getTeam s g.team with | some t => teamCore s t == c && !t.saved | none => false)

/-- Frames of a group's base block (08 R151). -/
def baseFrames (width : Nat) : Nat := if width = 64 then 2 else 1

/-- The number of 1 bits of a 4-bit value. -/
def bits4 (x : BitVec 4) : Nat :=
  (if x.getLsbD 0 then 1 else 0) + (if x.getLsbD 1 then 1 else 0) + (if x.getLsbD 2 then 1 else 0) +
  (if x.getLsbD 3 then 1 else 0)

/-- Frames that a group holds. -/
def groupFrames (g : Group) : Nat := baseFrames g.width + bits4 g.held

/-- Free frames of a core's pool: 64, less the groups' frames and a full reserve (08 R151). -/
def poolFree (s : State) (c : Nat) : Nat :=
  64 - ((coreGroups s c).foldl (fun k g => k + groupFrames g) 0) - (if (getCore s c).reserveFull then 1 else 0)

/-- Bytes of a list of fields (value, bytes), little-endian. -/
def pack : List (Nat × Nat) → List Byte
  | [] => []
  | (x, n) :: rest => leBytes n x ++ pack rest

/-- Latches in use: one past the last latch that is not empty (21 R344). -/
def latchesUsed (g : Group) : Nat :=
  if g.latch.2.2 ≠ .empty then 3 else if g.latch.2.1 ≠ .empty then 2 else if g.latch.1 ≠ .empty then 1 else 0

/-- A group that holds an issue slot is stalled on its scoreboard: its next word waits for an earlier one (03 R53, 08 R152). -/
def stalled (s : State) (g : Group) : Bool :=
  match (match g.rq with | e :: _ => some e.word | [] => (match fetchWord s g with | .word w => some w | _ => none)).bind instrOf with
  | some i => matrixHolds s g i || (g.rq.isEmpty && scoreboardHolds s g i)
  | none => false

/-- The state code of a residency record (25 R377). -/
def residencyState (s : State) (g : Group) : Nat :=
  if g.stopped then 7
  else match g.wait with
    | some (.unit _) => 5
    | some (.replay _) => 5
    | some .split => 5
    | some (.page ..) => 4
    | some (.fetch ..) => 4
    | some .release => 4
    | some .items => 4
    | some .packets => 4
    | some _ => 6
    | none => if g.slot.isSome then (if stalled s g then 3 else 2) else 1

/-- The width code of 16 R290. -/
def widthCode (w : Nat) : Nat := if w = 8 then 0 else if w = 16 then 1 else if w = 32 then 2 else 3

/-- The address of the word at which a group waits or is parked (25 R377). -/
def waitAddr (g : Group) : Nat :=
  match g.wait with
  | none => 0
  | some (.sparse _ _ a) => a.toNat
  | some (.luna _ _ a) => a.toNat
  | some _ => match g.rq with | e :: _ => e.addr.toNat | [] => g.pc.toNat

/-- A residency record (25 R377). -/
def residencyRecord (s : State) (g : Group) : List Byte :=
  let t := getTeam s g.team
  let w := whoOf s g
  let prio := match t with | some t => t.prio | none => 0
  let lin := match t with | some t => t.linear.toNat | none => 0
  pack [(1, 1), (residencyState s g, 1), (g.index, 1), (widthCode g.width + (if g.handler then 4 else 0), 1),
    (w.ctx, 2), (prio, 1), (0, 1), (lin, 4), (0, 4), (g.pc.toNat, 8), (g.em.toNat, 8), (g.mode.toNat, 4),
    (g.stack.length, 1), (g.held.toNat, 1), (latchesUsed g, 1), (g.runCount, 1),
    (g.unfinished.length + g.rq.length + (matrixWords s g).length, 1), (g.lastCause.toNat, 1), (0, 2), (0, 4), (waitAddr g, 8), (0, 8)]

/-- The records of a list, those of other contexts as zeros, at most `n`. -/
def shown {α : Type} (ctx : Option Nat) (of : α → Nat) (size n : Nat) (f : α → List Byte) (l : List α) : List Byte :=
  ((l.take n).map (fun x =>
    match ctx with
    | some c => if of x = c then f x else List.replicate size 0
    | none => f x)).flatten

/-- A snapshot shows what belongs to a context: all for a host trigger, the triggering context's own otherwise (25 R377). -/
def shows (ctx : Option Nat) (c : Nat) : Bool := match ctx with | some k => c == k | none => true

/-- Pad a list of bytes with zeros to `n`. -/
def padTo (n : Nat) (l : List Byte) : List Byte := l ++ List.replicate (n - l.length) 0

def teamCtx (s : State) (t : Team) : Nat := match getGrid s t.grid with | some g => g.context | none => 0

/-- The body of the region of a core (25 R377). -/
def coreBody (s : State) (ctx : Option Nat) (c : Nat) : List Byte :=
  let gs := coreGroups s c
  let resid := (List.range 32).map (fun r =>
    match gs.find? (·.residency == r) with
    | some g =>
      if ctx.isNone || ctx == some (whoOf s g).ctx then residencyRecord s g else List.replicate 64 0
    | none => List.replicate 64 0)
  let ts := s.teams.filter (fun t => teamCore s t == c && !t.saved)
  let slots := (ts.map (fun t => t.slots.map (fun x => (t, x)))).flatten
  let slotBytes := shown ctx (fun x => teamCtx s x.1) 8 16 (fun x =>
    pack [(1, 1), (x.2.type.toNat, 1), (x.2.layout.toNat, 1), (if x.2.form then 1 else 0, 1), (x.1.linear.toNat, 4)]) slots
  let tiles := (ts.map (fun t => t.accs.map (fun x => (t, x)))).flatten
  let tileBytes := shown ctx (fun x => teamCtx s x.1) 8 4 (fun x =>
    pack [(x.2.kind.toNat, 1), (1, 1), (0, 2), (x.1.linear.toNat, 4)]) tiles
  resid.flatten ++ padTo 128 slotBytes ++ padTo 32 tileBytes ++
  let mine (t : Nat) : Bool := match getTeam s t with | some t => shows ctx (teamCtx s t) | none => ctx.isNone
  pack [(poolFree s c, 1), (if (getCore s c).reserveFull then 1 else 0, 1),
    ((gs.filter (fun g => mine g.team)).foldl (fun k g => k + g.recipes.length) 0, 2),
    (((getCore s c).matrix.filter (fun o => mine o.team)).length, 2),
    ((s.ops.filter (fun o => o.kind == .select && physCore s o.context o.core == c && shows ctx o.context)).length, 2),
    (Config.freeElement 4 c s.tick, 8), (Config.freeElement 5 c s.tick, 8)]

/-- The operations of a die's engines of a kind. -/
def dieOps (s : State) (k : Nat) (kind : OpKind) : List EngineOp :=
  s.ops.filter (fun o => o.kind == kind && opDie s o == k)

def teamLinear (s : State) (t : Nat) : Nat := match getTeam s t with | some t => t.linear.toNat | none => 0

/-- Items in the order of a number. -/
def byNumber {α : Type} (f : α → Nat) (l : List α) : List α :=
  let put (x : α) (l : List α) : List α := l.takeWhile (fun y => decide (f y ≤ f x)) ++ x :: l.dropWhile (fun y => decide (f y ≤ f x))
  l.foldl (fun acc x => put x acc) []

/-- Groups whose operation stands in the index unit of a die: waiting for its answer, or parked there (05 R89, R98); the oldest
first. -/
def indexWaiting (s : State) (k : Nat) : List Group :=
  byNumber (·.serial) (s.groups.filter (fun g => match g.wait with
    | some (.sparse d ..) => d == k
    | some (.page _ _ _ d h) => h == 3 && d == k
    | _ => false))

/-- The word with which a group stands in an index unit or in Luna. -/
def answeredWord (g : Group) : Word :=
  match g.wait with
  | some (.sparse _ w _) => w
  | some (.luna _ w _) => w
  | _ => match g.rq with | e :: _ => e.word | [] => g.runWords.headD 0

/-- Groups that wait for the answer of the Luna of a die, at a word that is no operation of a timeline (12 R229, R247). -/
def lunaWaiting (s : State) (k : Nat) : List Group :=
  s.groups.filter (fun g => (match g.wait with | some (.luna d ..) => d == k | _ => false) &&
    (match instrOf (answeredWord g) with | some (.tback ..) => false | some (.treuse ..) => false | _ => true))

/-- The lanes that a group's operation in an engine has still to apply: those of its parked word. -/
def lanesLeft (g : Group) : Nat :=
  match g.wait, g.rq with
  | some (.page ..), e :: _ => if e.vec then (List.range g.width).countP (fun i => decide (e.first ≤ i) && e.active.getLsbD i) else 1
  | _, _ => 0

/-- The record that a sparse word names; its base is the descriptor address. -/
def regionRec (g : Group) (w : Word) : Shape := Shape.of (cellGet g.h (w.toNat % 8))

/-- The key that the index unit applies for a group: that of the lane at which its word is parked; free where it applies none
(DESIGN CHOICE, log 37). -/
def keyApplied (s : State) (g : Group) : Nat :=
  let key : Option Nat := match g.wait, g.rq with
    | some (.page ..), e :: _ =>
      let h := regionRec g e.word
      (match instrOf e.word with
       | some i@(.spld ..) => sparseKey h (entryCoords i.form e h.rank e.first)
       | some i@(.spst ..) => sparseTarget h (entryCoords i.form e h.rank e.first)
       | some i@(.spadd ..) => sparseTarget h (entryCoords i.form e h.rank e.first)
       | _ => none)
    | _, _ => none
  key.getD (Config.freeElement 14 g.id s.tick)

/-- A field of a routing descriptor at a canonical near address (18 R327). -/
def descField (s : State) (ctx d o n : Nat) : Nat :=
  match nearLoc s { group := 0, team := 0, ctx := ctx, core := 0 } (d + o) n with
  | some l => locGet s l n
  | none => 0

/-- The batch that an Admiral routes: one that has all its tokens, or else the one that received a token last (DESIGN CHOICE, log
37); none once it is routed or abandoned. -/
def routedNow (s : State) (d : Die) : Option Routing :=
  let l := d.routing.filter (fun r => !r.received.isEmpty)
  match l.find? (fun r => decide (descField s r.context r.desc.toNat 8 4 ≤ r.received.length)) with
  | some r => some r
  | none => l.head?

/-- A packet is kept for a later batch (18 R331). -/
def packetLater (s : State) (p : Packet) : Bool :=
  let f := descField s p.context p.desc.toNat
  f 6 1 == 0 || (f 6 1 == 1 && decide (f 0x10 4 < p.bits.toNat / 2 ^ 32 % 2 ^ 32))

/-- The record that bounds an operation's box: the source's of a scatter and of a migration (06 R114). -/
def boxRecord (o : EngineOp) : BitVec 512 :=
  match instrOf o.word with
  | some (.copySct ..) => o.recs.getD 1 0
  | some (.copyMig ..) => o.recs.getD 1 0
  | _ => o.recs.getD 0 0

/-- Elements of the first `q` runs of a packed destination (04 R81). -/
def runSpan (h : BitVec 512) (q : Nat) : Nat :=
  let ext := (Shape.of h).extAt 0
  let per := (ext + 31) / 32
  q / per * ext + min (32 * (q % per)) ext

/-- Elements that a copy operation has done: those that it has begun, but for the ones that wait for a page; of a `copy.outz`, those
of its runs. -/
def copyDone (o : EngineOp) : Nat :=
  match instrOf o.word with
  | some (.copyOutz ..) => runSpan (o.recs.getD 0 0) o.next
  | _ => o.next - o.pending.length

/-- The body of a die-level region (25 R377), unit u of die k. -/
def dieBody (s : State) (ctx : Option Nat) (k u : Nat) : List Byte :=
  let d := getDie s k
  if u = 0 then
    let cur := (routedNow s d).filter (fun r => shows ctx r.context)
    let ps := d.packets.filter (fun p => shows ctx p.context)
    pack [(ps.length, 4), ((ps.filter (packetLater s)).length, 4),
      ((match cur with | some r => r.desc.toNat | none => 0), 8),
      ((match cur with | some r => r.batch.toNat | none => 0), 4),
      ((match cur with | some r => r.received.length | none => 0), 4), (0, 8)] ++
    shown ctx (fun p => p.context) 16 250 (fun p => leBytes 16 p.bits.toNat) d.packets
  else if u = 1 ∨ u = 2 then
    -- an operation: its arrival, its context and its record
    let group (g : Group) : Nat × Nat × List Byte :=
      let w := answeredWord g
      let lanes := lanesLeft g
      let desc := if u = 1 then (cellGet g.s (w.toNat % 8)).toNat else (regionRec g w).base
      (g.serial, (whoOf s g).ctx, pack [(desc, 8), (w.toNat % 256, 1), (lanes, 1), ((whoOf s g).ctx, 2), (teamLinear s g.team, 4),
        (if u = 1 then 0 else keyApplied s g, 8), (0, 1), (g.index, 1), (0, 6)])
    let op (o : EngineOp) : Nat × Nat × List Byte :=
      (o.serial, o.context, pack [((o.args.getD 0 0).toNat, 8), (o.word.toNat % 256, 1), (o.left, 1), (o.context, 2),
        (teamLinear s o.team, 4), (o.number.toNat, 8), (o.tl, 1), (o.index, 1), (0, 6)])
    let l := byNumber (·.1) (if u = 1 then (lunaWaiting s k).map group ++ (dieOps s k .luna).map op else (indexWaiting s k).map group)
    pack [((l.filter (fun x => shows ctx x.2.1)).length, 4), (0, 4)] ++ shown ctx (fun x => x.2.1) 32 125 (fun x => x.2.2) l
  else if u = 3 then
    let ops := dieOps s k .copy
    padTo 2048 (shown ctx (fun o => o.context) 256 8 (fun o =>
      pack [(1, 1), (o.word.toNat % 256, 1), (o.context, 2), (teamLinear s o.team, 4), (o.tl, 1), (0, 7),
            (o.number.toNat, 8), (copyDone o, 8), ((Shape.of (boxRecord o)).count, 8), ((o.recs.getD 1 0).toNat, 64),
            ((o.recs.getD 0 0).toNat, 64), (0, 88)]) ops) ++
    pack [(((ops.drop 8).filter (fun o => shows ctx o.context)).length, 4)]
  else if u = 4 then
    let ctxOf (q : ItemQueue) : Nat := match getGrid s q.grid with | some g => g.context | none => 0
    let qs := d.queues.filter (fun q => shows ctx (ctxOf q))
    pack [(qs.foldl (fun k q => k + q.items.length) 0, 4), (qs.length, 4)] ++
    shown ctx ctxOf 32 125 (fun q =>
      pack [(ctxOf q, 2), (0, 2), (q.items.length, 4), (q.grid, 8),
            (q.target.toNat, 8), (Config.freeElement 6 q.grid s.tick, 4), (0, 4)]) d.queues
  else if u = 5 then
    let here (t : TaskEntry) : Bool := physDie s t.context t.die == k && t.inUse
    let rel := byNumber (·.order) (s.tasks.filter (fun t => here t && t.released && !t.placed))
    let cls (t : TaskEntry) : Nat := leAt t.record 0x17 1 % 4
    let n (c : Nat) : Nat := (rel.filter (fun t => cls t == c && shows ctx t.context)).length
    pack [(n 0, 4), (n 1, 4), (n 2, 4), (n 3, 4),
      ((s.tasks.filter here).length, 4), (0, 4), (0, 8)] ++
    shown ctx (fun t => t.context) 32 64 (fun t =>
      pack [(t.gen * 2 ^ 14 + t.die * 2 ^ 12 + t.index, 4), (t.context, 2), (cls t, 1), (leAt t.record 0x14 1, 1),
            (leAt t.record 0 8, 8), (leAt t.record 8 8, 8), (0, 8)])
      ((rel.filter (fun t => cls t == 0)) ++ (rel.filter (fun t => cls t == 1)) ++ (rel.filter (fun t => cls t == 2)) ++
       (rel.filter (fun t => cls t == 3)))
  else if u = 6 then
    let here (g : Grid) : Ticket := g.tickets.getD (virtDie s g.context k) { next := 0, stop := 0 }
    shown ctx (fun g => g.context) 32 126 (fun g =>
      let t := here g
      pack [(g.id, 8), (g.context, 2), (leAt g.record 0x1F 1 / 8 % 4, 1), (leAt g.record 0x1F 1 % 2, 1), (0, 4),
            (t.next, 4), (t.stop, 4), (0, 8)])
      (s.grids.filter (fun g => decide ((here g).next < (here g).stop)))
  else
    -- an entry: when its holder parked, context, line, holder code, team index
    let entries (serial ctx holder team : Nat) (l : List Nat) : List (Nat × Nat × Nat × Nat × Nat) :=
      l.map (fun x => (serial, ctx, 64 * x, holder, team))
    let groups := s.groups.map (fun g =>
      match g.wait with
      | some (.page _ true l d h) => if d = k then entries g.serial (whoOf s g).ctx h (teamLinear s g.team) l else []
      | some (.fetch _ true d) => if d = k then entries g.serial (whoOf s g).ctx 0 (teamLinear s g.team) [g.pc.toNat / 64] else []
      | _ => [])
    let engines := (s.ops.filter (fun o => opDie s o == k)).map (fun o =>
      entries o.serial o.context (match o.kind with | .copy => 1 | .fetch => 2 | .luna => 4 | .mmav => 5 | _ => 0) (teamLinear s o.team) o.lines)
    let retiring := if k = 0 then s.grids.map (fun g => entries 0 g.context 6 0 (g.parked.toList.map (· / 64))) else []
    let all := byNumber (·.1) (groups ++ engines ++ retiring).flatten
    let own := all.filter (fun h => shows ctx h.2.1)
    let pages := (s.groups.map (fun g => if shows ctx (whoOf s g).ctx then
        (match g.wait with
         | some (.page ps true _ d _) => if d = k then ps else []
         | some (.fetch p true d) => if d = k then [p] else []
         | _ => [])
      else [])).flatten ++
      ((s.ops.filter (fun o => opDie s o == k && shows ctx o.context)).map (·.parked)).flatten ++
      (if k = 0 then (s.grids.filter (fun g => shows ctx g.context)).filterMap (·.parked) else [])
    let distinct := pages.foldl (fun l p => if l.contains p then l else p :: l) ([] : List Nat)
    let waiting := s.groups.filter (fun g => shows ctx (whoOf s g).ctx &&
      (match g.wait.bind Wait.asks with | some (d, _) => d == k | none => false))
    let asking := s.ops.filter (fun o => shows ctx o.context && o.asks.isSome && opDie s o == k)
    pack [(if ctx.isNone then d.buffered else own.length, 4), (distinct.length, 4), (waiting.length + asking.length, 4), (0, 4)] ++
    shown ctx (fun h => h.2.1) 16 250 (fun h => pack [(h.2.2.1, 8), (h.2.1, 2), (h.2.2.2.1, 1), (0, 1), (h.2.2.2.2, 4)]) all

/-- A region with its head (25 R377). Regions are numbered by the virtual units of the context that a snapshot shows, and by
the units themselves where it shows everything (DESIGN CHOICE, log 61). -/
def region (s : State) (ctx : Option Nat) (b : Nat) : List Byte :=
  let core := match ctx with | some c => physCore s c b | none => b
  let die := match ctx with | some c => physDie s c ((b - 512) / 8) | none => (b - 512) / 8
  let body := if b < 512 then coreBody s ctx core else dieBody s ctx die ((b - 512) % 8)
  let kind := if b < 512 then 1 else (b - 512) % 8 + 2
  let clock := if b < 512 then core else 1000 + die
  let stretch := if b < 512 then (getCore s core).stretch.toNat else Config.freeElement 3 die s.tick
  pack [(kind, 2), (b, 2), (64 + body.length, 4), ((Config.cycleCount clock s.tick).toNat, 8), (stretch, 8)] ++
  List.replicate 40 0 ++ body

/-- The latched bytes of every region, by BAR0 offset (25 R377) (DESIGN CHOICE, log 37). -/
def latchAll (s : State) (ctx : Option Nat) : Cells 8 :=
  (List.range 544).foldl (fun m b => bytesPut m (0x21000 + 4096 * b) (region s ctx b)) []

/-- Pull the common trigger (25 R375, R376): latch, or count a miss while a snapshot is held. `ctx` and `g` are the triggering
context and group of a `snap` or an event. -/
def pullTrigger (s : State) (source event : Nat) (ctx : Option Nat) (g : Option Group) : State :=
  if s.snapshot.held then
    let s := { s with snapshot := { s.snapshot with missed := s.snapshot.missed + 1 } }
    match ctx with
    | some c => modCtx s c (fun x => { x with missed := x.missed + 1 })
    | none => s
  else
    let bytes := latchAll s ctx
    let snap : Snapshot :=
      { held := true, source := BitVec.ofNat 8 source, event := BitVec.ofNat 8 event,
        context := BitVec.ofNat 16 (ctx.getD 0xFFFF),
        core := BitVec.ofNat 16 ((g.map (fun g => (whoOf s g).core)).getD 0),
        group := BitVec.ofNat 8 ((g.map (·.index)).getD 0),
        team := BitVec.ofNat 32 ((g.map (fun g => teamLinear s g.team)).getD 0),
        missed := 0, bytes := bytes }
    let s := { s with snapshot := snap }
    match ctx with
    | some c => modCtx s c (fun x => { x with triggered := x.triggered + 1 })
    | none => s

/-- The value of a context's `snapsel` (25 R374). -/
def snapselOf (s : State) (c : Nat) : BitVec 64 := match getCtx s c with | some x => x.snapsel | none => 0

end Sys2Proof.Machine
end

