-- ==== Sys2Proof/Machine/Faults.lean ====
section
/-! DEFINITION. Taking a fault (21 R342 to R346), the trap frame and the queue entries (21 R344, R345), the return from a
handler (21 R349, R350), and ending groups, teams and grids (14 R282, 21 R353 to R355). -/

namespace Sys2Proof.Machine

/-- The kind of the register result of a word: none where it produces none (03 R54). -/
def resultKind (w : Word) : Option Bool :=
  match instrOf w with
  | some i =>
    if i.form.result then
      (match i.form.d with | some (_, .v _) => some true | some _ => some false | none => none)
    else none
  | none => none

/-- A latch waits for the result of the word that has a tag; and one of three does. -/
def Latch.waits (tag : Nat) (y : Latch) : Bool := match y with | .pending _ t => tag != 0 && t == tag | _ => false
def latchWaits (l : Latch × Latch × Latch) (tag : Nat) : Bool := l.1.waits tag || l.2.1.waits tag || l.2.2.waits tag

/-- A result enters the latches: it shifts in, or fills the latch that waits for its word's tag (03 R54, 21 R344); where that latch
has been shifted out, nothing changes. -/
def pushLatch (l : Latch × Latch × Latch) (tag : Nat) (x : Latch) : Latch × Latch × Latch :=
  if tag = 0 then (x, l.1, l.2.1)
  else (if l.1.waits tag then x else l.1, if l.2.1.waits tag then x else l.2.1, if l.2.2.waits tag then x else l.2.2)

/-- A latch that waits for a tag, renamed to the index of the entry that has it; empty if none has. -/
def retagLatch (es : List Entry) (l : Latch) : Latch :=
  match l with
  | .pending k t =>
    (match (es.zipIdx).find? (fun x => x.1.tag == t && t != 0) with
     | some x => .pending k (x.2 + 1)
     | none => .empty)
  | l => l

/-- The latches as a frame of these entries holds them: every queued producer has its latch marked pending (21 R344). -/
def frameLatches (es : List Entry) (l : Latch × Latch × Latch) : Latch × Latch × Latch :=
  let l := (retagLatch es l.1, retagLatch es l.2.1, retagLatch es l.2.2)
  (es.zipIdx).foldl (fun l x =>
    if x.1.tag = 0 then
      (match resultKind x.1.word with
       | some k => (.pending k (x.2 + 1), l.1, l.2.1)
       | none => l)
    else l) l

def Latch.isVec : Latch → Bool | .full v _ => v | .pending v _ => v | .empty => false
def Latch.vals : Latch → Cells 64 | .full _ x => x | _ => []
def Latch.pendingOn : Latch → Nat | .pending _ t => t - 1 | _ => 0xFF

/-- Fields (offset, bytes, value), by rising offset, as the bytes of a sparse store. -/
def fieldCells (l : List (Nat × Nat × Nat)) : Cells 8 :=
  (l.map (fun f => (List.range f.2.1).filterMap (fun i =>
    let b := BitVec.ofNat 8 (f.2.2 / 256 ^ i)
    if b = 0 then none else some (f.1 + i, b)))).flatten

/-- Lane slots of 8 bytes each from an offset. -/
def slotFields (o : Nat) (m : Cells 64) : List (Nat × Nat × Nat) := m.map (fun e => (o + 8 * e.1, 8, e.2.toNat))

/-- A slot of a queue entry as the frame holds it: a scalar that a vector word reads through a latch stands in the first 8
bytes (21 R345). -/
def slotOut (e : Entry) (k : Nat) (m : Cells 64) : Cells 64 := if e.bcast.getLsbD k then m.filter (fun x => x.1 == 0) else m

/-- The fields of a queue entry (21 R345). -/
def entryFields (o : Nat) (e : Entry) : List (Nat × Nat × Nat) :=
  [(o, 4, e.word.toNat), (o + 4, 1, (if e.valid then 1 else 0) + (if e.faulting then 2 else 0)),
   (o + 5, 1, e.captured.toNat), (o + 8, 8, e.addr.toNat), (o + 0x10, 8, e.active.toNat), (o + 0x18, 4, e.mode.toNat),
   (o + 0x1C, 4, e.first), (o + 0x20, 16, e.cond0.toNat), (o + 0x30, 16, e.cond1.toNat)] ++
  slotFields (o + 0x40) (slotOut e 0 e.slotA) ++ slotFields (o + 0x240) (slotOut e 1 e.slotB) ++
  slotFields (o + 0x440) (slotOut e 2 e.slotD)

/-- The latch byte of a frame (21 R344): latches in use, and their kinds. -/
def latchByte (l : Latch × Latch × Latch) : Nat :=
  let used := if l.2.2 ≠ .empty then 3 else if l.2.1 ≠ .empty then 2 else if l.1 ≠ .empty then 1 else 0
  used + ((if l.1.isVec then 4 else 0) + (if l.2.1.isVec then 8 else 0) + (if l.2.2.isVec then 16 else 0))

/-- The trap frame of a group (21 R344), as the bytes at offsets 0 to 0x9FFF; `fi` is the faulting entry's index. -/
def frameCells (g : Group) (es : List Entry) (f : FaultInfo) (fi : Nat) (addr resume : DWord) : Cells 8 :=
  let l := frameLatches es g.latch
  fieldCells (
    [(0, 1, f.cause.toNat), (1, 1, f.inner.toNat), (2, 1, es.length), (3, 1, fi), (4, 1, latchByte l), (5, 1, g.runCount),
     (6, 2, f.recipe.toNat), (8, 4, f.lane.toNat), (0xC, 1, g.stack.length),
     (0xD, 1, l.1.pendingOn), (0xE, 1, l.2.1.pendingOn), (0xF, 1, l.2.2.pendingOn),
     (0x10, 8, addr.toNat), (0x18, 8, resume.toNat), (0x20, 8, f.data.toNat), (0x28, 8, g.em.toNat),
     (0x30, 4, g.mode.toNat)] ++
    (List.range 8).map (fun i => (0x40 + 8 * i, 8, (cellGet g.s i).toNat)) ++
    [(0x80, 8, (cellGet g.s 54).toNat), (0x88, 8, (cellGet g.s 55).toNat),
     (0x90, 8, match g.barToken with | some t => t.toNat | none => na64), (0x98, 8, f.elem.toNat)] ++
    (List.range 8).map (fun i => (0xA0 + 16 * i, 16, (cellGet g.q i).toNat)) ++
    (g.stack.reverse.zipIdx).map (fun x => (0x200 + 32 * x.2, 32, x.1.toNat)) ++
    slotFields 0x400 l.1.vals ++ slotFields 0x600 l.2.1.vals ++ slotFields 0x800 l.2.2.vals ++
    ((es.zipIdx).map (fun x => entryFields (0xA00 + 0x640 * x.2) x.1)).flatten)

/-- The latch bits of a frame's empties, kept beside the frame (03 R54). -/
def emptyBits (g : Group) : BitVec 3 :=
  (if g.latch.1 = .empty then 1 else 0) ||| (if g.latch.2.1 = .empty then 2 else 0) |||
  (if g.latch.2.2 = .empty then 4 else 0)

/-- Lane slots read back from a frame. -/
def slotsAt (m : Cells 8) (o : Nat) : Cells 64 := cellsOf 64 64 (fun i => bytesGet m (o + 8 * i) 8)

/-- The kind with which a word that a handler put in an entry runs (03 R52): vector if it names a vector register, or a latch
whose slot holds more than a scalar (DEDUCED, log 17). -/
def entryVec (w : Word) (a b d : Cells 64) : Bool :=
  match instrOf w with
  | none => false
  | some i =>
    let lanes (m : Cells 64) : Bool := m.any (fun e => e.1 != 0)
    let one (f : Option (Role × Opnd)) (m : Cells 64) : Bool :=
      match f with
      | some (_, .v _) => true
      | some (_, .b _) => lanes m
      | _ => false
    one i.form.d d || one i.form.a a || one i.form.b b

/-- A queue entry read back from a frame. `old` is the entry as the trap queued it: a word that is still there keeps its kind,
and what of its lanes no field holds (21 R349, R350). -/
def entryAt (m : Cells 8) (j : Nat) (old : Option Entry := none) : Entry :=
  let o := 0xA00 + 0x640 * j
  let w : Word := BitVec.ofNat 32 (bytesGet m o 4)
  let kept := old.filter (fun e => e.word == w)
  let slot (k : Nat) : Cells 64 :=
    let c := slotsAt m (o + 0x40 + 0x200 * k)
    match kept with
    | some e => if e.bcast.getLsbD k then cellsOf 64 64 (fun _ => (cellGet c 0).toNat) else c
    | none => c
  { word := w, valid := bytesGet m (o + 4) 1 % 2 = 1, faulting := bytesGet m (o + 4) 1 / 2 % 2 = 1,
    captured := BitVec.ofNat 3 (bytesGet m (o + 5) 1), addr := BitVec.ofNat 64 (bytesGet m (o + 8) 8),
    active := BitVec.ofNat 64 (bytesGet m (o + 0x10) 8), mode := BitVec.ofNat 25 (bytesGet m (o + 0x18) 4),
    first := bytesGet m (o + 0x1C) 4, cond0 := BitVec.ofNat 128 (bytesGet m (o + 0x20) 16),
    cond1 := BitVec.ofNat 128 (bytesGet m (o + 0x30) 16), slotA := slot 0, slotB := slot 1, slotD := slot 2, tag := j + 1
    vec := match kept with | some e => e.vec | none => entryVec w (slot 0) (slot 1) (slot 2)
    bcast := match kept with | some e => e.bcast | none => 0
    lanesDone := match kept with | some e => e.lanesDone | none => 0
    partials := match kept with | some e => e.partials | none => [] }

/-- An address that code may stand at: canonical main, a multiple of 4. -/
def codeAddr (a : Nat) : Bool := isMain a && a % 4 == 0

/-- The checks of `rth` (21 R349). -/
def frameOk (m : Cells 8) : Bool :=
  let n := bytesGet m 2 1
  let pend (o : Nat) : Bool := bytesGet m o 1 == 0xFF || decide (bytesGet m o 1 < n)
  decide (n ≤ 24) && decide (bytesGet m 0xC 1 ≤ 16) && decide (bytesGet m 4 1 % 4 ≤ 3) && pend 0xD && pend 0xE && pend 0xF &&
  decide (bytesGet m 5 1 ≤ 24) && codeAddr (bytesGet m 0x18 8) &&
  (List.range n).all (fun j => (entryAt m j).valid == false || codeAddr (entryAt m j).addr.toNat)

/-- A latch read back from a frame: slot k, in use, with its kind and pending entry. A latch that was empty in its place at
the trap stays so where its slot and the latch byte stand as they were written (03 R54, 21 R350). -/
def latchAt (m : Cells 8) (empties : BitVec 3) (used : BitVec 8) (k : Nat) : Latch :=
  let hdr := bytesGet m 4 1
  let p := bytesGet m (0xD + k) 1
  let kind : Bool := hdr / 2 ^ (2 + k) % 2 = 1
  let vals := if kind then slotsAt m (0x400 + 0x200 * k) else cellsOf 64 1 (fun _ => bytesGet m (0x400 + 0x200 * k) 8)
  if hdr % 4 ≤ k then .empty
  else if p = 0xFF then
    (if empties.getLsbD k && hdr == used.toNat && vals == [] then .empty else .full kind vals)
  else if (entryAt m p).valid then .pending kind (p + 1) else .empty

/-- Restore a group from the frame bytes `m` (21 R349): registers, conditions, `em`, mode, stack, latches, the kept token;
the valid entries become the replay queue and the group continues at the resume address (DEDUCED, log 43). -/
def restoreFrame (g : Group) (m : Cells 8) (handler : Bool) : Group :=
  let n := bytesGet m 2 1
  let s8 := (List.range 8).foldl (fun s i => cellSet s i (BitVec.ofNat 64 (bytesGet m (0x40 + 8 * i) 8))) g.s
  let s9 := cellSet (cellSet s8 54 (BitVec.ofNat 64 (bytesGet m 0x80 8))) 55 (BitVec.ofNat 64 (bytesGet m 0x88 8))
  let depth := bytesGet m 0xC 1
  let em := BitVec.ofNat 64 (bytesGet m 0x28 8 % 2 ^ g.width)
  let latch := (latchAt m g.trapEmpty g.trapUsed 0, latchAt m g.trapEmpty g.trapUsed 1, latchAt m g.trapEmpty g.trapUsed 2)
  { g with
    s := s9
    q := cellsOf 128 8 (fun i => bytesGet m (0xA0 + 16 * i) 16)
    em := em
    mode := BitVec.ofNat 25 (bytesGet m 0x30 4)
    stack := ((List.range depth).map (fun i => BitVec.ofNat 256 (bytesGet m (0x200 + 32 * i) 32))).reverse
    latch := latch
    barToken := (let t := bytesGet m 0x90 8; if t = na64 then none else some (BitVec.ofNat 64 t))
    handler := handler
    pc := BitVec.ofNat 64 (bytesGet m 0x18 8)
    runCount := bytesGet m 5 1
    runWords := g.trapWords
    trapWords := []
    trapEmpty := 0
    trapUsed := 0
    trapParts := []
    arms := (g.trapArms.reverse.take depth).reverse
    trapArms := []
    -- a word that the handler put in an entry, and that fills no latch, shifts its result in
    rq := (((List.range n).map (fun j => entryAt m j g.trapParts[j]?)).filter (·.valid)).map (fun e =>
      { e with faulting := e.faulting && g.pending.isSome,
               tag := if latchWaits latch e.tag || g.trapParts.any (fun o => o.word == e.word && o.addr == e.addr) then e.tag else 0 })
    detached := false
    -- the scalars written are whole again (21 R361)
    badRegs := g.badRegs.filter (fun b => !((decide (0xC0 ≤ b.1) && decide (b.1 < 0xC8)) || b.1 == 0xF6 || b.1 == 0xF7))
    wait := none }

/-! ### Ending work -/

/-- Drop a reference to each seal entry that a recipe loads from (08 R157). -/
def dropSealRefs (s : State) (ctx : Nat) (seals : List Nat) : State :=
  modCtx s ctx (fun c => { c with seals := c.seals.map (fun e =>
    { e with refs := e.refs - (seals.filter (· == e.index)).length }) })

/-- Give back the fault-buffer entries that a group holds (04 R72). -/
def dropBuffer (s : State) (g : Group) : State :=
  match g.wait.bind Wait.holds with
  | some (d, n) => giveEntries s d n
  | none => s

/-- Mark a retired sibling in a group's record (14 R285): the entries that name its index. -/
def markSibling (idx : Nat) (g : Group) : Group :=
  let hit (k : Nat) : Bool :=
    (g.sibling.extractLsb' (8 * k) 8).toNat / 128 == 1 && (g.sibling.extractLsb' (8 * k) 4).toNat == idx
  let bits : BitVec 4 := (if hit 0 then 1 else 0) ||| (if hit 1 then 2 else 0) ||| (if hit 2 then 4 else 0) |||
    (if hit 3 then 8 else 0)
  { g with sibRetired := g.sibRetired ||| bits }

/-- One fewer live group: an open phase whose count came from the live groups expects one fewer, and may so complete
(16 R311). -/
def barrierLess (gid : Nat) (b : Barrier) : Barrier :=
  if b.fromLive && b.arrivals != 0 && !b.arrived.contains gid then
    let n := b.expected - 1
    if b.arrivals = n then { b with expected := n, arrivals := 0, phase := b.phase + 1, arrived := [] }
    else { b with expected := n }
  else b

/-- A frame returns to a core: to the reserve if it is empty, else to the pool, whose count is what the groups leave
(08 R151). -/
def returnFrame (s : State) (core : Nat) : State := modCore s core (fun c => { c with reserveFull := true })

/-- A group retires (14 R282), and leaves what it has written and acquired to its grid's end (16 R299): its recipes end, its units,
frames, residency slot and spill window go, its sibling and its team's barriers take note; a sibling that waits in `fuse` for it
receives 0x04 (14 R287). -/
def retireGroup (s : State) (g : Group) : State :=
  let s := dropBuffer s g
  let s := dropSealRefs s (whoOf s g).ctx ((g.recipes.map (·.seals)).flatten)
  let s := { s with groups := (s.groups.filter (·.id != g.id)).map (fun x =>
    if x.team = g.team then
      let x := markSibling g.index x
      if x.wait = some .fuse ∧ x.sibRetired.getLsbD 0 then
        { x with wait := none, pending := some (fault 0x04 x.stack.length) }
      else x
    else x) }
  let s := returnFrame s (whoOf s g).phys
  let s := match getTeam s g.team with | some t => releaseAt s (.finish t.grid) (groupCarries s g) | none => s
  modTeam s g.team (fun t => { t with live := (t.live.filter (· != g.id)), barriers := t.barriers.map (barrierLess g.id) })

/-- `kill` of a team (21 R353): its groups end, those in a chrysalis image too, and its launch numbers are dropped. Its engine
and matrix operations go on to complete or fail, and only then are its slots, tiles and memory freed (R355). -/
def killTeam (s : State) (t : Nat) : State :=
  let s := (s.groups.filter (·.team == t)).foldl (fun s g => match getGroup s g.id with | some g => retireGroup s g | none => s) s
  let s := { s with ops := s.ops.filter (fun (o : EngineOp) => !(o.team == t && o.kind == OpKind.launch)) }
  let saved := match getTeam s t with | some x => x.savedGroups | none => []
  let s := saved.foldl (fun s g => dropSealRefs s (whoTeam s g.id t).ctx ((g.recipes.map (·.seals)).flatten)) s
  modTeam s t (fun x => { x with
    killed := true, live := [], saved := false, draining := false,
    savedGroups := [], barriers := List.replicate 16 {} })

/-- The grid of a team. -/
def gridOfTeam (s : State) (t : Nat) : Option Nat := (getTeam s t).map (·.grid)

/-- The teams that a gang has reserved, which never started, go with their groups (16 R297), whose frames return (08 R151). -/
def dropReserved (s : State) (n : Nat) : State :=
  let mine (g : Group) : Bool := gridOfTeam s g.team == some n
  let cores := (s.groups.filter mine).map (fun g => (whoOf s g).phys)
  cores.foldl returnFrame { s with groups := s.groups.filter (fun g => !mine g), teams := s.teams.filter (·.grid != n) }

/-- The grids that descend from a grid, itself included, within `fuel` levels. -/
def descendants (s : State) : Nat → Nat → List Nat
  | 0, n => [n]
  | fuel + 1, n =>
    n :: ((s.grids.filter (fun g => g.parent.isSome && g.parentGrid == n)).map (fun g => descendants s fuel g.id)).flatten

/-- The tasks of a grid that were never released are discarded, and released ones that wait are dropped. -/
def dropTasks (s : State) (n : Nat) : State :=
  let gone (t : TaskEntry) : Bool := t.inUse && t.grid == n && !t.placed
  let k := (s.tasks.filter (fun t => gone t && !t.released)).length
  let s := { s with tasks := s.tasks.map (fun t => if gone t then { t with inUse := false, released := true } else t) }
  modGrid s n (fun g => { g with discarded := g.discarded + k })

/-- End one grid with a status and cause (21 R354): its teams are killed and its waiting work is dropped. Its teams in a
cross-package gang are seen as lost by the other members. -/
def endGrid (s : State) (n : Nat) (status cause : BitVec 8) : State :=
  match getGrid s n with
  | none => s
  | some gr =>
    if gr.ended then s
    else
      let s := if gr.reserved then dropReserved s n else s
      let s := setGrid s { gr with
        ended := true, status := status, cause := cause, tickets := [], target := [],
        placed := true, reserved := false }
      let s := (s.teams.filter (·.grid == n)).foldl (fun s t => killTeam s t.id) s
      let s := dropTasks s n
      { s with dies := s.dies.map (fun d =>
        { d with queues := (d.queues.filter (·.grid != n)), formed := (d.formed.filter (·.grid != n)) }) }

/-- End a grid and its children. -/
def endGrids (s : State) (n : Nat) (status cause : BitVec 8) : State :=
  (descendants s 11 n).foldl (fun s k => endGrid s k status cause) s

/-! ### Taking a fault -/

/-- The handler entry of a group's grid (16 R290). -/
def handlerOf (s : State) (g : Group) : Nat :=
  match getTeam s g.team with
  | some t => (match getGrid s t.grid with | some gr => leAt gr.record 0x30 8 | none => 0)
  | none => 0

/-- The group goes to its handler (21 R342). The last condition there needs no test of its own: an error that `rth` meets in
the frame arises in handler mode, and the entry writes every part of the frame whole (R361). -/
def canHandle (s : State) (g : Group) : Bool :=
  handlerOf s g != 0 && !g.handler && decide (0xA000 ≤ g.quota)

/-- Enter the handler (21 R343): the frame is written at the bottom of the spill window. -/
def enterHandler (s : State) (g : Group) (f : FaultInfo) (es : List Entry) (fi : Nat) (addr resume : DWord) : State :=
  let s := dropBuffer s g
  let fr := frameCells g es f fi addr resume
  setGroup (physFill s g.spillAt 0xA000 (cellFilter (fun k => decide (k < 0xA000)) fr)) { g with
    s := cellSet (cellSet (cellSet g.s 0 0x4000000) 1 (BitVec.ofNat 64 f.cause.toNat)) 2 addr
    em := BitVec.ofNat 64 (2 ^ g.width - 1)
    mode := 0x204000
    stack := []
    trapEmpty := emptyBits { g with latch := frameLatches es g.latch }
    trapUsed := BitVec.ofNat 8 (latchByte (frameLatches es g.latch))
    trapParts := es
    trapArms := g.arms
    arms := []
    latch := (.empty, .empty, .empty)
    barToken := none
    handler := true
    pc := BitVec.ofNat 64 (handlerOf s g)
    trapWords := g.runWords
    runWords := []
    runCount := 0
    rq := []
    wait := none
    pending := none
    replaying := false
    unfinished := []
    slot := none
    detached := false
    granted := false
    badRegs := g.badRegs.filter (fun b => !(decide (0xC0 ≤ b.1) && decide (b.1 < 0xC3)))   -- s0 to s2 are written
    lastCause := f.cause }

/-- Write the fault record of a context, or count a further escalation (25 R371, 21 R354). -/
def recordFault (s : State) (ctx grid : Nat) (cause : BitVec 8) (frame : Cells 8) : State :=
  match getCtx s ctx with
  | none => s
  | some c =>
    let a := c.faultRec
    if bytesGet s.mem a 1 = 1 then
      physSet s (a + 4) 4 (bytesGet s.mem (a + 4) 4 + 1)
    else
      let s := physSet (physSet (physSet s a 1 1) (a + 1) 1 cause.toNat) (a + 8) 8 grid
      physFill s (a + 0x40) 0xA000 (cellFilter (fun k => decide (k < 0xA000)) frame)

/-- An escalated fault ends its grid with status 1 (21 R354). -/
def escalate (s : State) (g : Group) (f : FaultInfo) (es : List Entry) (fi : Nat) (addr resume : DWord) : State :=
  match getTeam s g.team with
  | none => s
  | some t =>
    let s := recordFault s (whoOf s g).ctx t.grid f.cause (frameCells g es f fi addr resume)
    endGrids s t.grid 1 f.cause

/-- A fault that is not taken yet is kept in its group, with the words that are to be queued. -/
def keepFault (s : State) (g : Group) (f : FaultInfo) (es : List Entry) : State :=
  setGroup s { g with rq := es, pending := some f, wait := none, slot := none, detached := false }

/-- Take a fault in a group (21 R342, R343): the snapshot event that `snapsel` names, then the handler or escalation. While words of
the group stand in the matrix engine it is kept: they run to their end first. -/
def takeFault (s : State) (g : Group) (f : FaultInfo) (es : List Entry) (fi : Nat) (addr resume : DWord) : State :=
  if !(matrixLeft s g).isEmpty then keepFault s g f es else
  let sel := snapselOf s (whoOf s g).ctx
  let s := if sel.extractLsb' 8 8 ≠ 0 ∧ sel.extractLsb' 8 8 = f.cause then pullTrigger s 3 f.cause.toNat (some (whoOf s g).ctx) (some g) else s
  if canHandle s g then enterHandler s g f es fi addr resume else escalate s g f es fi addr resume

/-- A queue with its faulting word marked: the one that is marked, else the first, at which the group waits. -/
def markFaulting (es : List Entry) : List Entry :=
  match es with
  | e :: rest => if es.any (·.faulting) then es else { e with faulting := true } :: rest
  | [] => []

/-- The queue of a group that takes a fault: the words that the matrix engine has not brought to their end, in issue order, before
those that it holds. The faulting one is marked: the one that met the fault in the engine, if one did. -/
def queueLeft (s : State) (g : Group) (f : FaultInfo) : List Entry :=
  let left := (matrixLeft s g).filterMap (fun m => m.todo.map (fun t => { t.1 with faulting := m.failed == some f }))
  if left.any (·.faulting) then left ++ g.rq else left ++ markFaulting g.rq

/-- A group's words leave the matrix engine for its queue. -/
def dropLeft (s : State) (g : Group) : State :=
  modCore s (whoOf s g).phys (fun c => { c with matrix := c.matrix.filter (fun m => !(m.group == g.id && m.todo.isSome)) })

/-- Take a fault that was kept or recorded in a group (21 R343): at a word of its queue, or at the word that it could not fetch. -/
def takePending (s : State) (g : Group) (f : FaultInfo) : State :=
  let es := queueLeft s g f
  let fi := (es.findIdx? (·.faulting)).getD 0xFF
  takeFault (dropLeft s g) g f es fi (match es[fi]? with | some e => e.addr | none => g.pc) g.pc

end Sys2Proof.Machine
end

