-- ==== Sys2Proof/Machine/Flags.lean ====
section
/-! DEFINITION. The fields of the mode register (03 R56), the set `active` (03 R59), and condition registers (02 R40). -/

namespace Sys2Proof.Machine

/-- The scalar type's code of 02 R21, from [16:14]; 0 for a reserved one. -/
def stypeCode (m : BitVec 25) : Nat :=
  match modeField m 14 3 with
  | 0 => 0x1B | 1 => 0x07 | 2 => 0x1A | 3 => 0x05 | 4 => 0x06 | 5 => 0x10 | _ => 0

/-- The type at which a word executes; none for a reserved code, and for acc56 (03 R56). -/
def modeType (m : BitVec 25) (vec : Bool) : Option Ty :=
  let c := if vec then vtypeCode m else stypeCode m
  if c = 8 ∨ c = 9 then none else Ty.ofCode c

def modeTypeCode (m : BitVec 25) (vec : Bool) : Nat := if vec then vtypeCode m else stypeCode m

/-- Rounding, saturate and flush, [13:9]. -/
def roundMode (m : BitVec 25) : RMode :=
  { rm := modeField m 11 3, sat := m.getLsbD 10, flush := m.getLsbD 9 }

def zeroFlag (m : BitVec 25) : Bool := m.getLsbD 0

/-- Condition of lane i in the 128 bits of a condition register. -/
def condAt (q : BitVec 128) (i : Nat) : Cond := q.extractLsb' (2 * i) 2

/-- Set the condition of lane i. -/
def condSet (q : BitVec 128) (i : Nat) (c : Cond) : BitVec 128 :=
  (q &&& ~~~((3 : BitVec 128) <<< (2 * i))) ||| (c.setWidth 128 <<< (2 * i))

/-- The bits of a set of lanes that satisfy a predicate, below a width. -/
def laneSet (width : Nat) (p : Nat → Bool) : BitVec 64 :=
  BitVec.ofNat 64 ((List.range width).foldl (fun m i => if p i then m + 2 ^ i else m) 0)

/-- The lanes whose `em` bit is 1. -/
def emSet (g : Group) : BitVec 64 := laneSet g.width (fun i => g.em.getLsbD i)

/-- The set `active` of a vector instruction: `em` and the guard (03 R59). -/
def activeSet (g : Group) : BitVec 64 :=
  let q := cellGet g.q (modeField g.mode 5 3)
  laneSet g.width (fun i =>
    g.em.getLsbD i &&
    (!g.mode.getLsbD 8 ||
      (let c := condRead (condAt q i)
       c == condT || (g.mode.getLsbD 4 && c == condU))))

/-- The selector's condition register, [3:1] (03 R60). -/
def selector (g : Group) : BitVec 128 := cellGet g.q (modeField g.mode 1 3)

/-- The lanes of a set, ascending. -/
def lanesOf (m : BitVec 64) (width : Nat) : List Nat := (List.range width).filter (fun i => m.getLsbD i)

/-- Write the conditions of the lanes of a set (09 R187). -/
def setConds (g : Group) (q : Nat) (lanes : List Nat) (f : Nat → Cond) : Group :=
  { g with q := cellSet g.q q (lanes.foldl (fun r i => condSet r i (f i)) (cellGet g.q q)) }

end Sys2Proof.Machine
end

