-- ==== Sys2Proof/Machine/Operands.lean ====
section
/-! DEFINITION. Operands: reading and capturing registers, `na` and latches (03 R51, R52, R54, 21 R345), element
operations by instruction (09), writing a destination (03 R55, R59), and the life of recipes (08 R153 to R165). -/

namespace Sys2Proof.Machine

/-! ### Registers -/

def vGet (g : Group) (r i : Nat) : Nat := (cellGet g.v (r * 64 + i)).toNat
def sGet (g : Group) (r : Nat) : Nat := (cellGet g.s r).toNat

/-- A lane of a vector register, or of the even pair of a 64-bit value (02 R23). -/
def vRead (g : Group) (r i : Nat) (pair : Bool) : Nat :=
  vGet g r i + (if pair then 2 ^ 32 * vGet g (r + 1) i else 0)

/-- Latch n. -/
def latchOf (g : Group) (n : Nat) : Latch := if n = 0 then g.latch.1 else if n = 1 then g.latch.2.1 else g.latch.2.2

/-- The operand counts as a vector: a vector register, or a latch that holds a vector result (03 R52). -/
def isVecOpnd (g : Group) (o : Opnd) : Bool :=
  match o with
  | .v _ => true
  | .b n => (match latchOf g n.val with | .full v _ => v | .pending v _ => v | .empty => false)
  | _ => false

/-- Capture an operand in a slot (21 R345): a vector register or a vector latch lane by lane, a scalar register in lane 0,
and in a vector instruction `na` and a scalar latch in every lane (DEDUCED, log 18). -/
def capture (g : Group) (vec : Bool) (na : Nat) (pair : Bool) (o : Opnd) : Cells 64 :=
  match o with
  | .v n => cellsOf 64 g.width (fun i => vRead g n.val i pair)
  | .s n => cellsOf 64 1 (fun _ => sGet g n.val)
  | .na => cellsOf 64 (if vec then g.width else 1) (fun _ => na)
  | .b n =>
    (match latchOf g n.val with
     | .full true x => x
     | .full false x => cellsOf 64 (if vec then g.width else 1) (fun _ => (cellGet x 0).toNat)
     | _ => [])
  | .rsv _ => []

/-- The value of a captured operand in a lane. -/
def slotVal (vec : Bool) (o : Opnd) (m : Cells 64) (i : Nat) : Nat :=
  match o with
  | .s _ => (cellGet m 0).toNat
  | .v _ => (cellGet m i).toNat
  | _ => (cellGet m (if vec then i else 0)).toNat

/-! ### Elements by instruction -/

/-- The type classes an element-wise instruction accepts (09 R168); none for the others. -/
def acceptsType (i : Instr) (t : Ty) : Bool :=
  let f := t.isFlt
  let num := t.isInt || t.isF8 || t.isRaw
  match i with
  | .add .. | .sub .. | .mul .. | .div .. | .fma .. | .fms .. | .neg .. => num
  | .min .. | .max .. | .mov .. | .coal .. | .sel .. | .cmp .. | .li .. | .lih .. | .cvt .. => true
  | .mulhi .. | .addi .. => t.isInt || t.isRaw
  | .and .. | .or .. | .xor .. | .shl .. | .shr .. | .sar .. | .not .. | .popc .. | .clz .. => t.isRaw
  | .isna .. | .mkna .. => !t.isRaw
  | .abs .. => t.isInt || t.isF8
  | .sqrt .. | .rsqrt .. | .recip .. | .exp2 .. | .log2 .. | .sin .. | .cos .. | .tanh .. | .sigm .. => f
  | .floor .. | .ceil .. | .trunc .. | .rint .. | .frac .. => t.isF8
  | .redAdd .. | .scanAdd .. | .scanAddx .. | .dot .. => num
  | .redAnd .. | .redOr .. => t.isRaw
  | _ => true

/-- The word reads the rounding field at the type at which it executes (02 R33). -/
def readsRm (i : Instr) (t : Ty) : Bool :=
  match i with
  | .add .. | .sub .. | .mul .. | .div .. | .fma .. | .fms .. | .rint .. | .sqrt .. | .rsqrt .. | .recip .. | .exp2 ..
  | .log2 .. | .sin .. | .cos .. | .tanh .. | .sigm .. | .redAdd .. | .scanAdd .. | .scanAddx .. | .dot .. | .aadd ..
  | .spadd .. => t.isF8
  | .neg .. => t.isB8 && t.isSigned
  | .cvt _ _ _ _ f =>
    t == .e8m0 || (match Ty.ofCode f.toNat with | some ft => convertRounds ft t | none => false)
  | _ => false

/-- The type at which field `a` is read: the source type of `cvt` (09 R177; one of 32 bits for a reserved code, which faults),
else the word's type. -/
def srcType (i : Instr) (t : Ty) : Ty :=
  match i with
  | .cvt _ _ _ _ f => (Ty.ofCode f.toNat).getD (.raw 32)
  | _ => t

/-- A 16-bit immediate, sign-extended. -/
def simm (i : BitVec 16) : Int := i.toInt

/-- One element of an element-wise instruction (09): operands a, b and the destination's old value d, at type t, with the
stochastic state s. None for the other instructions. -/
def laneOp (i : Instr) (t : Ty) (m : RMode) (s a b d : Nat) : Option LRes :=
  match i with
  | .add .. => some (op2 .add t m s a b)
  | .sub .. => some (op2 .sub t m s a b)
  | .mul .. => some (op2 .mul t m s a b)
  | .div .. => some (op2 .div t m s a b)
  | .min .. => some (op2 .min t m s a b)
  | .max .. => some (op2 .max t m s a b)
  | .mulhi .. => some (op2 .mulhi t m s a b)
  | .and .. => some (op2 .and t m s a b)
  | .or .. => some (op2 .or t m s a b)
  | .xor .. => some (op2 .xor t m s a b)
  | .shl .. => some (op2 .shl t m s a b)
  | .shr .. => some (op2 .shr t m s a b)
  | .sar .. => some (op2 .sar t m s a b)
  | .coal .. => some (op2 .coal t m s a b)
  | .fma .. => some (opFma false t m s a b d)
  | .fms .. => some (opFma true t m s a b d)
  | .li _ _ _ x => some { code := intCode t.width (simm x), s := s }
  | .lih _ _ _ x => some { code := (d * 2 ^ 16 + x.toNat) % 2 ^ t.width, s := s }
  | .addi _ _ _ x =>
    if t.isTyped ∧ d = t.na then some (naRes t s) else some (deliverInt t s (intOf t d + simm x))
  | .cvt _ _ _ _ f => some (convert ((Ty.ofCode f.toNat).getD t) t m s a)
  | .mov .. => some (op1 .mov t m s a)
  | .neg .. => some (op1 .neg t m s a)
  | .abs .. => some (op1 .abs t m s a)
  | .sqrt .. => some (op1 .sqrt t m s a)
  | .rsqrt .. => some (op1 .rsqrt t m s a)
  | .recip .. => some (op1 .recip t m s a)
  | .exp2 .. => some (op1 .exp2 t m s a)
  | .log2 .. => some (op1 .log2 t m s a)
  | .sin .. => some (op1 .sin t m s a)
  | .cos .. => some (op1 .cos t m s a)
  | .tanh .. => some (op1 .tanh t m s a)
  | .sigm .. => some (op1 .sigm t m s a)
  | .floor .. => some (op1 .floor t m s a)
  | .ceil .. => some (op1 .ceil t m s a)
  | .trunc .. => some (op1 .trunc t m s a)
  | .rint .. => some (op1 .rint t m s a)
  | .frac .. => some (op1 .frac t m s a)
  | .popc .. => some (op1 .popc t m s a)
  | .clz .. => some (op1 .clz t m s a)
  | .not .. => some (op1 .not t m s a)
  | _ => none

/-! ### Recipes (08 R153 to R165) -/

/-- The bit of an extended register in the tagged, dropped and written sets. -/
def extBit (code : Nat) : BitVec 128 := (1 : BitVec 128) <<< (code - 64)

def isExt (code : Nat) : Bool := decide (64 ≤ code) && decide (code < 192)
def unitOf (code : Nat) : Nat := (code - 64) / 32
def isHeld (g : Group) (code : Nat) : Bool := g.held.getLsbD (unitOf code)
def isTagged (g : Group) (code : Nat) : Bool := isExt code && g.tagged.getLsbD (code - 64)
def isDropped (g : Group) (code : Nat) : Bool := isExt code && g.dropped.getLsbD (code - 64)

/-- The register codes that a word reads as sources: each field's register, and the odd half of a pair. -/
def wordSources (w : Word) (mode : BitVec 25) : List Nat :=
  match instrOf w with
  | none => []
  | some i =>
    let vec := [i.form.d, i.form.a, i.form.b].any (fun f => match f with | some (_, .v _) => true | _ => false)
    let wide (f : Bool) : Bool := match modeType mode vec with
      | some t => (if f then srcType i t else t).width == 64
      | none => false
    let one (o : Opnd) (pair : Bool) : List Nat :=
      match o with
      | .v n => if pair then [n.val, n.val + 1] else [n.val]
      | .s n => [0xC0 + n.val]
      | _ => []
    let a := match i.form.a with
      | some (_, o) => one o (match i with | .ld .. => true | _ => wide true)
      | none => []
    let b := match i.form.b with
      | some (_, o) => one o (match i with | .ld .. => false | _ => wide false)
      | none => []
    let d := match i.form.d with
      | some (.rw, o) => one o (wide false)
      | _ => []
    d ++ a ++ b

/-- The registers that a live recipe names as sources. -/
def recipeSources (r : Recipe) : List Nat := (r.words.map (fun w => wordSources w r.mode)).flatten

/-- A live recipe other than those that target `self` names the register (08 R160). -/
def frozenBy (g : Group) (code : Nat) : Bool := g.recipes.any (fun r => (recipeSources r).contains code)

/-- A group whose recipe for a register has ended (08 R157). -/
def endedRecipe (g : Group) (code : Nat) : Group :=
  match g.recipes.find? (·.target == code) with
  | none => g
  | some r =>
    { g with recipes := (g.recipes.filter (·.index != r.index)), tagged := g.tagged &&& ~~~(extBit code),
             dropped := g.dropped &&& ~~~(extBit code) }

/-- The references of the recipe that targets a register are gone. -/
def endRefs (s : State) (g : Group) (code : Nat) : State :=
  match g.recipes.find? (·.target == code) with
  | none => s
  | some r => dropSealRefs s (whoOf s g).ctx r.seals

/-- End the recipe that targets a register (08 R157), and its references. -/
def endRecipe (s : State) (g : Group) (code : Nat) : State × Group := (endRefs s g code, endedRecipe g code)

/-- Registers of a group that a write covers have no error any more (21 R361). -/
def healCodes (g : Group) (p : Nat → Bool) : Group :=
  if g.badRegs = [] then g else { g with badRegs := g.badRegs.filter (fun b => !p b.1) }

/-- The registers of a unit that are not dropped read as zero (08 R155, R165). -/
def clearUnit (g : Group) (k : Nat) : Group :=
  let inUnit (r : Nat) : Bool := decide (64 + 32 * k ≤ r) && decide (r < 96 + 32 * k) && !g.dropped.getLsbD (r - 64)
  healCodes { g with v := g.v.filter (fun e => !inUnit (e.1 / 64)) } inUnit

/-- A register's lane element has an uncorrectable error (21 R361). -/
def badElement (g : Group) (code lane : Nat) : Bool := g.badRegs.contains (code, if code < 192 then lane else 0)

/-- Write a lane of a vector register. -/
def vSet (v : Cells 32) (r i x : Nat) : Cells 32 := cellSet v (r * 64 + i) (BitVec.ofNat 32 x)

/-- Write every lane of a register (and of its odd half). -/
def vWrite (v : Cells 32) (r width : Nat) (pair : Bool) (f : Nat → Nat) : Cells 32 :=
  (List.range (min width 64)).foldl (fun v i =>
    let v := vSet v r i (f i)
    if pair then vSet v (r + 1) i (f i / 2 ^ 32) else v) v

/-- An operand of a recipe's word in a lane: registers of the group, latches of the recipe's own. -/
def recipeOpnd (g : Group) (lat : List Latch) (na : Nat) (pair : Bool) (o : Opnd) (i : Nat) : Nat :=
  match o with
  | .v n => vRead g n.val i pair
  | .s n => sGet g n.val
  | .na => na
  | .b n => (match lat.getD n.val .empty with
    | .full true x => (cellGet x i).toNat
    | .full false x => (cellGet x 0).toNat
    | _ => 0)
  | .rsv _ => 0

/-- The near address of a lane of an `ld` (07 R140); none where it touches nothing. -/
def nearAddr (base off : Nat) : Option Int :=
  match i64? base, i32? off with
  | some b, some o => some (b + o)
  | _, _ => none

/-- The fault that a near load meets in a lane of a recipe's word (07 R140, R147, 21 R361): its range, as where a team has
moved to a die whose allocation is smaller (07 R134), or an error. -/
def recipeLoadFault (s : State) (g : Group) (a : Int) (n : Nat) : Option FaultInfo :=
  let c (k : Nat) : FaultInfo := fault k (a % (2 ^ 64 : Int)).toNat
  match nearFault s (whoOf s g) a n n with
  | some k => some (c k)
  | none =>
    match nearLoc s (whoOf s g) a.toNat n with
    | some l => if locBad s false l n then some (c 0x50) else none
    | none => none

/-- One word of a recipe in private storage (08 R165): its result in the lanes of the captured `em`, or the fault of its first
lane that meets one, at a register or at a load. -/
def recipeWord (s : State) (g : Group) (mode : BitVec 25) (em : BitVec 64) (lat : List Latch) (w : Word) : FaultInfo ⊕ Latch :=
  match instrOf w with
  | none => .inr .empty
  | some i =>
    let ops := [i.form.d, i.form.a, i.form.b]
    let isV (o : Opnd) : Bool := match o with
      | .v _ => true
      | .b n => (lat.getD n.val .empty).isVec
      | _ => false
    let vec := ops.any (fun f => match f with | some (_, o) => isV o | none => false)
    match modeType mode vec with
    | none => .inr .empty
    | some t =>
      let m := roundMode mode
      let wide := t.width == 64
      let val (f : Option (Role × Opnd)) (ft : Ty) (pair : Bool) (k : Nat) : Nat :=
        match f with | some (_, o) => recipeOpnd g lat ft.na pair o k % 2 ^ ft.width | none => 0
      let addr (k : Nat) : Option Int :=
        match i with
        | .ld _ _ _ a b => nearAddr (recipeOpnd g lat na64 true a k) (recipeOpnd g lat (2 ^ 31) false b k)
        | _ => none
      let one (k : Nat) : Nat :=
        match i with
        | .ld .. =>
          (match addr k with
           | none => t.na
           | some x =>
             (match nearLoc s (whoOf s g) x.toNat (t.width / 8) with
              | some l => locGet s l (t.width / 8)
              | none => 0))
        | _ =>
          let st := srcType i t
          ((laneOp i t m 0 (val i.form.a st (st.width == 64) k) (val i.form.b t wide k) (val i.form.d t wide k)).getD
            { code := 0, s := 0 }).code
      let lanes := if vec then lanesOf em g.width else [0]
      let sources := if g.badRegs = [] then [] else wordSources w mode
      let bad (k : Nat) : Option FaultInfo :=
        if sources.any (fun c => badElement g c k) then some (fault 0x50 na64)
        else (addr k).bind (fun x => recipeLoadFault s g x (t.width / 8))
      match lanes.find? (fun k => (bad k).isSome) with
      | some k => (match bad k with | some f => .inl f | none => .inr .empty)
      | none =>
        .inr (if vec then .full true (cellsOf 64 g.width (fun k => if em.getLsbD k then one k else 0))
              else .full false (cellsOf 64 1 one))

/-- The result of a recipe's last word (08 R165), or its fault. -/
def recipeResult (s : State) (g : Group) (mode : BitVec 25) (em : BitVec 64) : List Latch → List Word → FaultInfo ⊕ Latch
  | lat, [] => .inr (lat.headD .empty)
  | lat, w :: ws =>
    match recipeWord s g mode em lat w with
    | .inl f => .inl f
    | .inr l => recipeResult s g mode em (l :: lat) ws

/-- Why a replay stops: it waits for a frame of a unit, or a word of it faults (0x09; 08 R165). -/
inductive ReplayStop where
  | frame (unit : Nat)
  | flt (f : FaultInfo)

/-- The recipe-replay fault: the inner cause, its data and the recipe's index (08 R165, 21 R344, R351). -/
def replayFault (r : Recipe) (f : FaultInfo) : FaultInfo :=
  { cause := 0x09, data := f.data, inner := f.cause, recipe := BitVec.ofNat 16 r.index }

/-- Rebuild a dropped register whose sources are not dropped and whose unit is held. -/
def rebuild (s : State) (g : Group) (code : Nat) : FaultInfo ⊕ Group :=
  match g.recipes.find? (·.target == code) with
  | none => .inr g
  | some r =>
    match recipeResult s g r.mode r.em [] r.words with
    | .inl f => .inl (replayFault r f)
    | .inr l =>
      .inr { healCodes g (· == code) with
        v := vWrite g.v code g.width false (fun i => if r.em.getLsbD i then (cellGet l.vals i).toNat else 0),
        dropped := g.dropped &&& ~~~(extBit code), written := g.written ||| extBit code }

/-- Take a frame for a replay: a pool frame, else the reserve (08 R165). None when it must wait. -/
def takeFrame (s : State) (core : Nat) (reserve : Bool) : Option State :=
  if 0 < poolFree s core then some s
  else if reserve && (getCore s core).reserveFull then some (modCore s core (fun c => { c with reserveFull := false }))
  else none

/-- Hold a unit for a replay; the registers of the unit that are not dropped read as zero. -/
def holdUnit (g : Group) (k : Nat) : Group :=
  let g := { g with held := g.held ||| ((1 : BitVec 4) <<< k),
                    written := g.written &&& ~~~((0xFFFFFFFF : BitVec 128) <<< (32 * k)) }
  clearUnit g k

/-- A register rebuilt, with its group put in the state. -/
def rebuilt (s : State) (g : Group) (code : Nat) : (State × Group) ⊕ (State × Group × ReplayStop) :=
  match rebuild s g code with
  | .inl f => .inr (s, g, .flt f)
  | .inr g => .inl (setGroup s g, g)

/-- `replay(X)` of 08 R165 with depth at most `fuel`: the state and group after it, or why it stops (with what it reached so
far). -/
def replay (fuel : Nat) (s : State) (g : Group) (code : Nat) : (State × Group) ⊕ (State × Group × ReplayStop) :=
  if !isDropped g code then .inl (s, g)
  else
    let k := unitOf code
    let got : Option (State × Group) :=
      if isHeld g code then some (s, g)
      else (takeFrame s (whoOf s g).phys true).map (fun s => let g := holdUnit g k; (setGroup s g, g))
    match got with
    | none => .inr (s, g, .frame k)
    | some (s, g) =>
      match fuel with
      | 0 => rebuilt s g code
      | n + 1 =>
        let src := match g.recipes.find? (·.target == code) with
          | some r => (recipeSources r).filter (fun c => isDropped g c)
          | none => []
        let r := src.foldl (fun (acc : (State × Group) ⊕ (State × Group × ReplayStop)) c =>
          match acc with
          | .inl (s, g) => replay n s g c
          | w => w) (.inl (s, g))
        match r with
        | .inl (s, g) => rebuilt s g code
        | w => w

/-- Replay several registers in ascending field order. -/
def replayAll (s : State) (g : Group) : List Nat → (State × Group) ⊕ (State × Group × ReplayStop)
  | [] => .inl (s, g)
  | c :: cs => match replay 2 s g c with
    | .inl (s, g) => replayAll s g cs
    | w => w

/-! ### Writing a destination -/

/-- A destination register's own value in a lane, for a lane that a word does not write. A dropped register whose unit is
held reads as zero once the write has ended its recipe (08 R157). Of an extended register that the word does not reach the
value is free (03 R55; DESIGN CHOICE, log 19). -/
def oldHalf (g : Group) (t : Bool) (r i : Nat) : Nat :=
  if isExt r && !isHeld g r then Config.freeElement 2 r i % 2 ^ 32
  else if isDropped g r then (if t then Config.freeElement 2 r i % 2 ^ 32 else 0)
  else vGet g r i

/-- The same of a register, or of the even pair of a 64-bit value. -/
def oldVal (g : Group) (t : Bool) (r i : Nat) (pair : Bool) : Nat :=
  oldHalf g t r i + (if pair then 2 ^ 32 * oldHalf g t (r + 1) i else 0)

/-- What a vector result changes in its group beside the registers and the latches (08 R156, R157): with t = 0 the recipes
that target the registers written end, and an extended register counts as written. -/
def afterWrite (g : Group) (t : Bool) (r : Nat) (pair : Bool) : Group :=
  if t then g
  else
    let g := endedRecipe g r
    let g := if pair then endedRecipe g (r + 1) else g
    if isExt r then { g with written := g.written ||| extBit r ||| (if pair then extBit (r + 1) else 0) } else g

/-- What it changes outside the group: the references of those recipes. -/
def afterWriteState (s : State) (g : Group) (t : Bool) (r : Nat) (pair : Bool) : State :=
  if t then s
  else
    let s := endRefs s g r
    if pair then endRefs s (endedRecipe g r) (r + 1) else s

/-- Write lanes of a vector register, outside the latches: the lanes that a word applied before it stopped (05 R108). -/
def partVec (s : State) (g : Group) (r : Nat) (pair : Bool) (lanes : List Nat) (f : Nat → Nat) : State :=
  let v := lanes.foldl (fun v i =>
    let v := vSet v r i (f i)
    if pair then vSet v (r + 1) i (f i / 2 ^ 32) else v) g.v
  setGroup (afterWriteState s g false r pair) { afterWrite g false r pair with v := v }

/-- Write a vector result (03 R54, R55, R59): `lanes` are written with `f`; the others keep the destination's value or are
zeroed; lanes applied before a trap or a suspension keep their results (21 R349); the result enters the latches; a write
that reaches a recipe's target ends the recipe (08 R157). -/
def putVec (s : State) (g : Group) (e : Entry) (t : Bool) (r : Nat) (pair : Bool) (lanes : BitVec 64) (f : Nat → Nat) :
    State :=
  let zero := zeroFlag e.mode
  let x (i : Nat) : Nat :=
    if lanes.getLsbD i then f i
    else if e.lanesDone.getLsbD i then (if t then (cellGet e.partials i).toNat else oldVal g t r i pair)
    else if zero && !(decide (i < e.first) && e.whole.getLsbD i) then 0 else oldVal g t r i pair
  let vals := cellsOf 64 g.width x
  let v := if t then g.v else vWrite g.v r g.width pair (fun i => (cellGet vals i).toNat)
  setGroup (afterWriteState s g t r pair)
    { afterWrite g t r pair with v := v, latch := pushLatch g.latch e.tag (.full true vals) }

/-- Write a scalar result (03 R54, R55). -/
def putScalar (s : State) (g : Group) (e : Entry) (t : Bool) (r x : Nat) : State :=
  let g := { g with latch := pushLatch g.latch e.tag (.full false (cellsOf 64 1 (fun _ => x))) }
  setGroup s (if t then g else { g with s := cellSet g.s r (BitVec.ofNat 64 x) })

/-- Write a scalar register outside the latches. -/
def putPlain (s : State) (g : Group) (r x : Nat) : State :=
  setGroup s { g with s := cellSet g.s r (BitVec.ofNat 64 x) }

/-- The stochastic state of a lane (02 R36). -/
def rngOf (g : Group) (i : Nat) : Nat := (cellGet g.rng i).toNat
def setRng (g : Group) (i x : Nat) : Group := { g with rng := cellSet g.rng i (BitVec.ofNat 32 x) }

end Sys2Proof.Machine
end

