-- ==== Sys2Proof/Machine/Issue.lean ====
section
/-! DEFINITION. Issuing a word, once for every instruction: the checks of 03 R63 in their order, the capture of operands
(21 R345), replays of dropped registers (08 R165), frozen registers (08 R160), and what a word's end does to the program
counter, the run and the latches (03 R53), or its fault (21 R342) or its wait. -/

namespace Sys2Proof.Machine

/-- What a word's meaning works on: the state, its group, the instruction, and the queue entry with the captured
operands. -/
structure Issue where
  s : State
  g : Group
  i : Instr
  e : Entry
  fresh : Bool      -- issued now, not re-executed from the queue
  badLane : Option Nat := none   -- the first lane at which a register that it reads has an error (21 R361)

/-- Why a word does not finish: a fault or a wait, either of them perhaps after some lanes were applied. -/
inductive Stop where
  | flt (f : FaultInfo)
  | wait (w : Wait)
  | part (s : State) (e : Entry) (why : FaultInfo ⊕ Wait)

/-- How a word finishes: in sequence, with a taken transfer, or with its group gone. -/
inductive Done where
  | ok (s : State)
  | go (s : State) (target : Nat)
  | gone (s : State)

/-- What a word asks for before its own work (03 R63 steps 1 to 4, and its operands). -/
structure Plan where
  bad : Bool := false              -- an illegality that depends on state (0x01)
  vec : Bool := false              -- a vector instruction (03 R52)
  ty : Option Nat := none          -- the type code that it reads from the mode (0x02 when reserved)
  own : Option FaultInfo := none   -- its own causes that precede its operands
  readA : Bool := false
  readB : Bool := false
  readD : Bool := false
  pairA : Bool := false
  pairB : Bool := false
  pairD : Bool := false
  naA : Nat := 0                   -- what `na` reads as in each field
  naB : Nat := 0
  naD : Nat := 0
  extra : List (Nat × Bool) := []  -- further registers read (field code, pair), in register order (21 R345)
  places : List Place := []        -- where they are captured, if the word itself does not fix it
  writes : List Nat := []          -- the registers written with t = 0
  active : BitVec 64 := 0          -- the lanes at issue, of a vector word or one that reads conditions lane by lane
  byLane : Bool := false           -- a word of scalar operands that acts on `active` all the same
  stops : Bool := false            -- an access that an error stops at its lane, with the lanes below applied (05 R108)
  cond0 : BitVec 128 := 0
  cond1 : BitVec 128 := 0

/-- An illegal latch read of an operand (03 R54): the latch number (DEDUCED, log 39). -/
def badLatch (g : Group) (o : Option Opnd) : Option Nat :=
  match o with
  | some (.b n) => (match latchOf g n.val with | .full _ _ => none | _ => some n.val)
  | _ => none

/-- A register that a read reaches in a unit that is neither held nor dropped (08 R153): the unit. -/
def badRead (g : Group) (c : Nat) : Option Nat :=
  if isExt c && !isHeld g c && !isDropped g c then some (unitOf c) else none

/-- A register that a write reaches in a unit not held (08 R153), unless the word reads it too. -/
def badWrite (g : Group) (reads : List Nat) (c : Nat) : Option Nat :=
  if isExt c && !isHeld g c && !(reads.contains c && isDropped g c) then some (unitOf c) else none

/-- The first answer of a list. -/
def firstSome {α β : Type} (f : α → Option β) : List α → Option β
  | [] => none
  | x :: xs => match f x with | some y => some y | none => firstSome f xs

/-- A further register as captured: 64 bits a lane, or a scalar in lane 0. -/
def captureExtra (g : Group) (x : Nat × Bool) : Cells 64 :=
  if x.1 < 192 then cellsOf 64 g.width (fun i => vRead g x.1 i x.2) else cellsOf 64 1 (fun _ => sGet g (x.1 - 0xC0))

/-- Pack two captured registers of 32 bits a lane in one slot, or two scalars in its first 16 bytes (21 R345). -/
def packSlots (vec : Bool) (lo hi : Cells 64) : Cells 64 :=
  if vec then cellsOf 64 64 (fun i => (cellGet lo i).toNat % 2 ^ 32 + 2 ^ 32 * ((cellGet hi i).toNat % 2 ^ 32))
  else cellSet lo 1 (cellGet hi 0)

def setSlot (e : Entry) (k : Nat) (m : Cells 64) : Entry :=
  if k = 0 then { e with slotA := m, captured := e.captured ||| 1 }
  else if k = 1 then { e with slotB := m, captured := e.captured ||| 2 }
  else { e with slotD := m, captured := e.captured ||| 4 }

/-- Put a further captured register in its place. -/
def placeExtra (vec : Bool) (e : Entry) (x : Place × Cells 64) : Entry :=
  match x.1 with
  | .upper k => setSlot e k (packSlots vec (slotOf e k) x.2)
  | .nth k n => setSlot e k (cellSet (slotOf e k) n (cellGet x.2 0))
  | .whole k => setSlot e k x.2

/-- The registers that a plan reads through the slots of `live` (a, b, d in bits 0 to 2): every one for a fresh word, those
not captured for a re-executed one (21 R345, R349). -/
def Plan.reads (p : Plan) (i : Instr) (places : List Place) (live : BitVec 3) : List Nat :=
  (if p.readD && live.getLsbD 2 then regCodes (opndOf i.form.d) p.pairD else []) ++
  (if p.readA && live.getLsbD 0 then regCodes (opndOf i.form.a) p.pairA else []) ++
  (if p.readB && live.getLsbD 1 then regCodes (opndOf i.form.b) p.pairB else []) ++
  ((places.zip p.extra).map (fun x =>
    if live.getLsbD x.1.slot then (if x.2.2 then [x.2.1, x.2.1 + 1] else [x.2.1]) else [])).flatten

/-- Capture one field in its slot, where the word reads it through a slot of `live`. -/
def captureSlot (g : Group) (vec : Bool) (live : BitVec 3) (k : Nat) (rd : Bool) (na : Nat) (pair : Bool)
    (f : Option (Role × Opnd)) (e : Entry) : Entry :=
  match live.getLsbD k && rd, opndOf f with
  | true, some o =>
    let e := setSlot e k (capture g vec na pair o)
    (match o with
     | .b n => if vec && !isVecOpnd g (.b n) then { e with bcast := e.bcast ||| ((1 : BitVec 3) <<< k) } else e
     | _ => e)
  | _, _ => e

/-- The slots of `live` that hold a dropped register. -/
def droppedSlots (g : Group) (i : Instr) (p : Plan) (places : List Place) (live : BitVec 3) : BitVec 3 :=
  let gone (k : Nat) : Bool := (p.reads i places (live &&& ((1 : BitVec 3) <<< k))).any (isDropped g)
  (if gone 0 then 1 else 0) ||| (if gone 1 then 2 else 0) ||| (if gone 2 then 4 else 0)

/-- Capture a plan's operands in the slots of `live` (21 R345). A slot that would hold a dropped register is left for the
re-execution to read. -/
def captureAll (g : Group) (i : Instr) (p : Plan) (places : List Place) (live : BitVec 3) (e : Entry) : Entry :=
  let e := captureSlot g p.vec live 0 p.readA p.naA p.pairA i.form.a e
  let e := captureSlot g p.vec live 1 p.readB p.naB p.pairB i.form.b e
  let e := captureSlot g p.vec live 2 p.readD p.naD p.pairD i.form.d e
  let e := ((places.zip p.extra).filter (fun x => live.getLsbD x.1.slot)).foldl
    (fun e x => placeExtra p.vec e (x.1, captureExtra g x.2)) e
  { e with captured := e.captured &&& ~~~(droppedSlots g i p places live) }

/-- A run ends: its words are forgotten, the latches are empty, the slot is free (03 R53, R54). -/
def endRun (g : Group) : Group :=
  { g with runCount := 0, runWords := [], latch := (.empty, .empty, .empty), slot := none, detached := false }

/-- What a word's end leaves of its group: the next word, the run's count, the queue. -/
def advance (x : Issue) (g : Group) : Group :=
  if x.fresh then
    { g with pc := x.e.addr + 4, runCount := g.runCount + 1, runWords := x.e.word :: g.runWords }
  else { g with rq := g.rq.drop 1, granted := false }

/-- The run ends with this word, if nothing of it is queued any more: the last word issued has `e` = 1, or is the 24th (03
R53). -/
def runOver (e : Entry) (g : Group) : Bool :=
  g.rq.isEmpty && (e.word.getLsbD 25 || (g.runWords.headD 0).getLsbD 25 || decide (24 ≤ g.runCount))

/-- The waits that stall the run in its slot: `task`'s (16 R307), and those for the answers of the index unit and of Luna (05
R98, 12 R247). -/
def keepsSlot : Wait → Bool
  | .taskRoom => true
  | .sparse .. => true
  | .luna .. => true
  | _ => false

/-- Finish a word. A run that its last word ends while the group waits for that word's answer holds the slot until then (05
R98, 12 R247) (DEDUCED, log 64), and its word stands for the run. -/
def finish (x : Issue) (d : Done) : State :=
  match d with
  | .gone s => s
  | .ok s =>
    modGroup s x.g.id (fun g =>
      let g := advance x g
      if !runOver x.e g then g
      else if g.wait.any keepsSlot then { endRun g with slot := g.slot, runWords := [x.e.word] }
      else endRun g)
  | .go s target =>
    modGroup s x.g.id (fun g => { endRun (advance x g) with pc := BitVec.ofNat 64 target })

/-- The waits that suspend a run (03 R53): it gives up its slot, and goes on once a slot is won again. -/
def suspends : Wait → Bool
  | .page .. => true
  | .fetch .. => true
  | .replay _ => true
  | .release => true
  | .items => true
  | .packets => true
  | _ => false

/-- The lanes below an entry's first lane: already applied (21 R345). -/
def Entry.below (e : Entry) : BitVec 64 := laneSet 64 (fun i => decide (i < e.first))

/-- A queued word as it is executed again: from its first lane (21 R349) (DEDUCED, log 58). -/
def Entry.resumed (e : Entry) : Entry := { e with whole := e.active, active := e.active &&& ~~~e.below }

/-- A re-executed word as it returns to the queue: it keeps its lanes below the first. -/
def requeued (g : Group) (e : Entry) : Entry :=
  match g.rq with
  | old :: _ => { e with active := e.active ||| (old.active &&& old.below) }
  | [] => e

/-- Queue a word that waits. One that neither suspends its run nor stalls it has ended the run, and finishes by itself when its
wait is over (03 R53). -/
def suspend (x : Issue) (s : State) (e : Entry) (w : Wait) : State :=
  modGroup s x.g.id (fun g =>
    let g := if x.fresh then
        { g with pc := x.e.addr + 4, runCount := g.runCount + 1, runWords := x.e.word :: g.runWords, rq := [e] }
      else { g with rq := requeued g e :: g.rq.drop 1 }
    { g with wait := some w, slot := if keepsSlot w then g.slot else none, detached := !keepsSlot w && !suspends w,
             serial := s.tick, granted := false })

/-- A fault at a word: it becomes the last queue entry, or stays at its place (21 R346). A group that is being drained
keeps the fault for its resume (21 R357). -/
def faultAt (x : Issue) (s : State) (e : Entry) (f : FaultInfo) : State :=
  match getGroup s x.g.id with
  | none => s
  | some g =>
    let e := { e with faulting := true }
    let g' := if x.fresh then
        { g with pc := x.e.addr + 4, runCount := g.runCount + 1, runWords := x.e.word :: g.runWords }
      else g
    let es := if x.fresh then [e] else requeued g e :: g.rq.drop 1
    if g.stopped then keepFault s g' f es
    else takeFault s g' f es 0 e.addr g'.pc

/-- Stop a word. -/
def stopWord (x : Issue) : Stop → State
  | .flt f => faultAt x x.s x.e f
  | .wait w => suspend x x.s x.e w
  | .part s e (.inl f) => faultAt x s e f
  | .part s e (.inr w) => suspend x s e w

/-- The lanes that a word which stops has done. -/
def Stop.done : Stop → Nat → Bool
  | .part _ e _, i => e.vec && e.lanesDone.getLsbD i
  | _, _ => false

/-- The checks of 03 R63, steps 1 to 4, and the word's own causes before its operands; `reads` are the registers it is
to read, and `live` the slots it reads now. -/
def checkPlan (g : Group) (i : Instr) (w : Word) (p : Plan) (reads : List Nat) (live : BitVec 3) : Option FaultInfo :=
  if !i.wf || p.bad then some (fault 0x01 w.toNat)
  else
    let lat (k : Nat) (rd : Bool) (f : Option (Role × Opnd)) : Option Opnd :=
      if live.getLsbD k && rd then opndOf f else none
    match firstSome (badLatch g) [lat 2 p.readD i.form.d, lat 0 p.readA i.form.a, lat 1 p.readB i.form.b] with
    | some n => some (fault 0x0C n)
    | none =>
      match p.ty with
      | some c =>
        if c = 8 ∨ c = 9 ∨ Ty.ofCode c = none then some (fault 0x02 c) else afterType
      | none => afterType
where
  /-- Step 4, and the word's own causes. -/
  afterType : Option FaultInfo :=
    match firstSome (badRead g) reads with
    | some u => some (fault 0x0B u)
    | none =>
      match firstSome (badWrite g reads) p.writes with
      | some u => some (fault 0x0B u)
      | none => p.own

/-- A frozen register among those written (08 R160): its field code. -/
def frozenWrite (g : Group) (p : Plan) : Option FaultInfo :=
  match p.writes.find? (frozenBy g) with
  | some c => some (fault 0x07 c)
  | none => none

/-- An uncorrectable error is reported to the host (25 R382). -/
def signalBad (s : State) (cause : BitVec 8) : State := if cause = 0x50 then signal s 2 else s

/-- The first lane at which a register that a word reads has an error. -/
def badLaneOf (g : Group) (p : Plan) (reads : List Nat) : Option Nat :=
  if g.badRegs = [] then none
  else (if p.vec then lanesOf p.active g.width else [0]).find? (fun i => reads.any (fun c => badElement g c i))

/-- The fault of such a lane: 0x50 (21 R361). A register has no address, so the data is absent (DESIGN CHOICE, log 30). An access
stops at the lane, with those below applied (05 R108); a word of arithmetic or between lanes changes nothing (09 R189, 10 R201). -/
def badRegister (g : Group) (p : Plan) (reads : List Nat) : Option FaultInfo :=
  (badLaneOf g p reads).map (fun i => { fault 0x50 na64 with lane := if p.vec then BitVec.ofNat 32 i else 0xFFFFFFFF })

/-- A word of a group has written the elements of its registers in the lanes `done`: their errors, if it had any, are gone. -/
def healRegs (g : Group) (p : Plan) (done : Nat → Bool) (s : State) : State :=
  if g.badRegs = [] then s
  else modGroup s g.id (fun g =>
    { g with badRegs := g.badRegs.filter (fun b => !(p.writes.contains b.1 && (!p.vec || done b.2))) })

/-- Ascending order without repeats, by insertion. -/
def insertNat (x : Nat) : List Nat → List Nat
  | [] => [x]
  | y :: ys => if x < y then x :: y :: ys else if x = y then y :: ys else y :: insertNat x ys

def sortNats (l : List Nat) : List Nat := l.foldl (fun acc x => insertNat x acc) []

/-- The places of a plan's further registers. -/
def Plan.placesOr (p : Plan) (places : List Place) : List Place := if p.places = [] then places else p.places

/-- Issue a word whose plan and own work are given: `places` says where its further registers are captured. -/
def runPlan (x : Issue) (p : Plan) (places : List Place) (body : Issue → Except Stop Done) : State :=
  let x := { x with e := { x.e with vec := p.vec } }
  let places := p.placesOr places
  let live : BitVec 3 := if x.fresh then 7 else ~~~x.e.captured
  let reads := p.reads x.i places live
  let cap (g : Group) (e : Entry) : Entry := captureAll g x.i p places live e
  match checkPlan x.g x.i x.e.word p reads live with
  | some f => faultAt x x.s (cap x.g x.e) f
  | none =>
    match replayAll x.s x.g (sortNats (reads.filter (isDropped x.g))) with
    | .inr (s, g, .frame k) => suspend { x with s := s, g := g } (setGroup s g) (cap g x.e) (.replay k)
    | .inr (s, g, .flt f) => faultAt x (setGroup (signalBad s f.inner) g) (cap g x.e) f
    | .inl (s, g) =>
      let x := { x with s := s, g := g, e := cap g x.e }
      match frozenWrite g p with
      | some f => faultAt x s x.e f
      | none =>
        match (if p.stops && p.vec then none else badRegister g p reads) with
        | some f => faultAt x (signal s 2) x.e f
        | none =>
          match body { x with badLane := badLaneOf g p reads } with
          | .ok d => healRegs x.g p (fun i => p.active.getLsbD i || zeroFlag g.mode) (finish x d)
          | .error st => healRegs x.g p st.done (stopWord x st)

/-- Run a word of the current group: the head of its replay queue, or a fresh word at its program counter (DEDUCED, log 54). -/
def runWord (i : Instr) (s : State) (plan : Issue → Plan) (places : List Place) (body : Issue → Except Stop Done) :
    Host.Outcome State Fault Refusal :=
  match s.cur.bind (getGroup s), encode i with
  | some g, some w =>
    (match g.rq with
     | e :: _ =>
       -- re-execution: the captured mode, lanes from the first one on, and operands (21 R349)
       let replayed := g.replaying
       let g := { g with replaying := false }
       let x : Issue := { s := if replayed then setGroup s g else s, g := { g with mode := e.mode }, i := i, e := e.resumed, fresh := false }
       let p := plan x
       .next (runPlan { x with g := g } p places body)
     | [] =>
       let e : Entry := { word := w, addr := g.pc, active := 0, mode := g.mode }
       let x : Issue := { s := s, g := g, i := i, e := e, fresh := true }
       let p := plan x
       -- the set `active` at issue, also of a scalar word (03 R59, 21 R345)
       let active := if p.vec || p.byLane then p.active else emSet g
       .next (runPlan { x with e := { e with active := active, whole := active, cond0 := p.cond0, cond1 := p.cond1 } } p places body))
  | _, _ => .fault .noGroup

end Sys2Proof.Machine
end

