-- ==== Sys2Proof/Machine/Vector.lean ====
section
/-! DEFINITION. Vector and scalar arithmetic (09): the common pattern of 09 R169, `sel` and `mkna`, the condition writers
(09 R184 to R188) and `mode` (03 R57). -/

namespace Sys2Proof.Machine

/-- The kind of a word by its operands (03 R52); a re-executed word keeps the kind it was issued with. -/
def kindOf (x : Issue) : Bool :=
  if x.fresh then
    [x.i.form.d, x.i.form.a, x.i.form.b].any (fun f => match f with | some (_, o) => isVecOpnd x.g o | none => false)
  else x.e.vec

/-- The operand is a vector register. -/
def isV (f : Option (Role × Opnd)) : Bool := match f with | some (_, .v _) => true | _ => false

/-- The operand is a vector register of an odd number. -/
def oddV (f : Option (Role × Opnd)) : Bool := match f with | some (_, .v n) => n.val % 2 == 1 | _ => false

/-- The register number of the destination. -/
def destReg (f : Option (Role × Opnd)) : Nat :=
  match f with | some (_, .v n) => n.val | some (_, .s n) => n.val | _ => 0

/-- The destination has the role of one that is read. -/
def isRw (f : Option (Role × Opnd)) : Bool := match f with | some (.rw, _) => true | _ => false

/-- The type of a word, or raw32 where the mode's code is reserved (which then faults). -/
def typeOf (mode : BitVec 25) (vec : Bool) : Ty := (modeType mode vec).getD (.raw 32)

/-- A source type code of `cvt` that raises 0x02, or a pair that 02 R38 refuses (09 R177). -/
def cvtFault (i : Instr) (t : Ty) (vec : Bool) : Option FaultInfo :=
  match i with
  | .cvt _ _ _ _ f =>
    let c := f.toNat
    (match Ty.ofCode c with
     | none => some (fault 0x02 c)
     | some ft =>
       if c = 8 ∨ c = 9 then some (fault 0x02 c)
       else if !vec && !([0x1B, 0x07, 0x1A, 0x05, 0x06, 0x10].contains c) then some (fault 0x02 c)
       else if convertRefused ft t then some (fault 0x02 c)
       else none)
  | _ => none

/-- The plan of an element-wise word (09 R169, R189). -/
def planElem (x : Issue) : Plan :=
  let f := x.i.form
  let vec := kindOf x
  let code := modeTypeCode x.g.mode vec
  let t := typeOf x.g.mode vec
  let st := srcType x.i t
  let wide := vec && t.width == 64
  let wideA := vec && st.width == 64
  let dn := destReg f.d
  { bad := (isS f.d && vec) || (wide && (oddV f.d || oddV f.b)) || (wideA && oddV f.a) ||
      (f.t && wide) || (readsRm x.i t && modeField x.g.mode 11 3 == 7)
    vec := vec, ty := some code
    own := match cvtFault x.i t vec with
      | some e => some e
      | none => if acceptsType x.i t then none else some (fault 0x02 code)
    readA := f.a.isSome, readB := f.b.isSome, readD := isRw f.d
    pairA := wideA, pairB := wide, pairD := wide, naA := st.na, naB := t.na, naD := t.na
    writes := if f.t then [] else if isV f.d then (if wide then [dn, dn + 1] else [dn]) else if isS f.d then [0xC0 + dn] else []
    active := if vec then activeSet x.g else 0
    cond0 := selector x.g }

/-- A source field's value in a lane, at a type (03 R52: the low bits of a scalar). -/
def srcVal (e : Entry) (f : Option (Role × Opnd)) (m : Cells 64) (t : Ty) (i : Nat) : Nat :=
  match f with
  | some (_, o) => slotVal e.vec o m i % 2 ^ t.width
  | none => 0

/-- Sum of the events of delivered lanes. -/
def sumEvents (l : List (Nat × LRes)) : Events := l.foldl (fun e r => e.plus r.2.events) {}

/-- The new stochastic states. -/
def setRngs (g : Group) (l : List (Nat × LRes)) : Group :=
  l.foldl (fun g r => if (cellGet g.rng r.1).toNat = r.2.s then g else setRng g r.1 r.2.s) g

/-- A result by lane. -/
def laneCode (l : List (Nat × LRes)) (i : Nat) : Nat := match l.find? (·.1 == i) with | some r => r.2.code | none => 0

/-- The effect of an element-wise word (09 R169). -/
def elemBody (x : Issue) : Except Stop Done :=
  let f := x.i.form
  let vec := x.e.vec
  let t := typeOf x.e.mode vec
  let st := srcType x.i t
  let m := roundMode x.e.mode
  let one (i : Nat) : LRes :=
    (laneOp x.i t m (rngOf x.g i) (srcVal x.e f.a x.e.slotA st i) (srcVal x.e f.b x.e.slotB t i)
      (srcVal x.e f.d x.e.slotD t i)).getD { code := 0, s := rngOf x.g i }
  if vec then
    let l := (lanesOf x.e.active x.g.width).map (fun i => (i, one i))
    let s := chargeGroup x.s x.g (sumEvents l)
    .ok (.ok (putVec s (setRngs x.g l) x.e f.t (destReg f.d) (t.width == 64) x.e.active (laneCode l)))
  else
    let r := one 0
    let s := chargeGroup x.s x.g r.events
    .ok (.ok (putScalar s (setRngs x.g [(0, r)]) x.e f.t (destReg f.d) r.code))

/-- An element-wise word: two operands, three, an immediate, a conversion or one operand. -/
def runElem (i : Instr) (s : State) : Host.Outcome State Fault Refusal := runWord i s planElem [] elemBody

/-- `sel` and `mkna` are vector instructions only (09 R184, R186). -/
def planSel (x : Issue) : Plan := let p := planElem x; { p with bad := p.bad || !p.vec }

/-- The effect of `sel` (09 R186). -/
def selBody (x : Issue) : Except Stop Done :=
  let f := x.i.form
  let t := typeOf x.e.mode true
  .ok (.ok (putVec x.s x.g x.e f.t (destReg f.d) (t.width == 64) x.e.active (fun i =>
    let c := condRead (condAt x.e.cond0 i)
    if c = condT then srcVal x.e f.a x.e.slotA t i
    else if c = condF then srcVal x.e f.b x.e.slotB t i else t.na)))

/-- The effect of `mkna` (09 R184). -/
def mknaBody (x : Issue) : Except Stop Done :=
  let f := x.i.form
  let t := typeOf x.e.mode true
  .ok (.ok (putVec x.s x.g x.e f.t (destReg f.d) (t.width == 64) x.e.active (fun i =>
    if condRead (condAt x.e.cond0 i) = condF then srcVal x.e f.a x.e.slotA t i else t.na)))

/-- Write a condition register in the lanes of `active`, or from a scalar in every lane below the width (09 R187). -/
def condResult (x : Issue) (q : Nat) (f : Nat → Cond) : Except Stop Done :=
  let lanes := if x.e.vec then lanesOf x.e.active x.g.width else List.range x.g.width
  .ok (.ok (setGroup x.s (setConds x.g q lanes (fun i => f (if x.e.vec then i else 0)))))

/-- The effect of `cmp` (09 R185). -/
def cmpBody (rel q : Nat) (x : Issue) : Except Stop Done :=
  let f := x.i.form
  let t := typeOf x.e.mode x.e.vec
  condResult x q (fun i =>
    relation t (roundMode x.e.mode).flush rel (srcVal x.e f.a x.e.slotA t i) (srcVal x.e f.b x.e.slotB t i))

/-- The effect of `isna` (09 R184). -/
def isnaBody (q : Nat) (x : Issue) : Except Stop Done :=
  let f := x.i.form
  let t := typeOf x.e.mode x.e.vec
  condResult x q (fun i => condOf (!t.present (srcVal x.e f.a x.e.slotA t i)))

/-- The plan of the condition logic (09 R188): no register operand, over `active`. -/
def planCond (qa qb : Nat) (x : Issue) : Plan :=
  { vec := true, active := activeSet x.g, cond0 := cellGet x.g.q qa, cond1 := cellGet x.g.q qb }

/-- The effect of the condition logic. -/
def condBody (q : Nat) (f : Cond → Cond → Cond) (x : Issue) : Except Stop Done :=
  condResult x q (fun i => f (condAt x.e.cond0 i) (condAt x.e.cond1 i))

def runCond (i : Instr) (q qa qb : Nat) (f : Cond → Cond → Cond) (s : State) : Host.Outcome State Fault Refusal :=
  runWord i s (planCond qa qb) [] (condBody q f)

/-- The plan of a word without operands. -/
def planNone (_ : Issue) : Plan := {}

/-- `mode` (03 R57). -/
def modeBody (p : BitVec 25) (x : Issue) : Except Stop Done :=
  .ok (.ok (setGroup x.s { x.g with mode := p }))

/-- `add` (09 R171): a + b. -/
def execAdd (e : Bool) (t : Bool) (d : Opnd) (a : Opnd) (b : Opnd) (s : State) :
    Host.Outcome State Fault Refusal := runElem (.add e t d a b) s

/-- `sub` (09 R171): a − b. -/
def execSub (e : Bool) (t : Bool) (d : Opnd) (a : Opnd) (b : Opnd) (s : State) :
    Host.Outcome State Fault Refusal := runElem (.sub e t d a b) s

/-- `mul` (09 R171): a × b. -/
def execMul (e : Bool) (t : Bool) (d : Opnd) (a : Opnd) (b : Opnd) (s : State) :
    Host.Outcome State Fault Refusal := runElem (.mul e t d a b) s

/-- `div` (09 R171): a / b. -/
def execDiv (e : Bool) (t : Bool) (d : Opnd) (a : Opnd) (b : Opnd) (s : State) :
    Host.Outcome State Fault Refusal := runElem (.div e t d a b) s

/-- `fma` (09 R173): c + a × b. -/
def execFma (e : Bool) (t : Bool) (d : Opnd) (a : Opnd) (b : Opnd) (s : State) :
    Host.Outcome State Fault Refusal := runElem (.fma e t d a b) s

/-- `fms` (09 R173): a × b − c. -/
def execFms (e : Bool) (t : Bool) (d : Opnd) (a : Opnd) (b : Opnd) (s : State) :
    Host.Outcome State Fault Refusal := runElem (.fms e t d a b) s

/-- `min` (09 R172). -/
def execMin (e : Bool) (t : Bool) (d : Opnd) (a : Opnd) (b : Opnd) (s : State) :
    Host.Outcome State Fault Refusal := runElem (.min e t d a b) s

/-- `max` (09 R172). -/
def execMax (e : Bool) (t : Bool) (d : Opnd) (a : Opnd) (b : Opnd) (s : State) :
    Host.Outcome State Fault Refusal := runElem (.max e t d a b) s

/-- `mulhi` (09 R174). -/
def execMulhi (e : Bool) (t : Bool) (d : Opnd) (a : Opnd) (b : Opnd) (s : State) :
    Host.Outcome State Fault Refusal := runElem (.mulhi e t d a b) s

/-- `and` (09 R175). -/
def execAnd (e : Bool) (t : Bool) (d : Opnd) (a : Opnd) (b : Opnd) (s : State) :
    Host.Outcome State Fault Refusal := runElem (.and e t d a b) s

/-- `or` (09 R175). -/
def execOr (e : Bool) (t : Bool) (d : Opnd) (a : Opnd) (b : Opnd) (s : State) :
    Host.Outcome State Fault Refusal := runElem (.or e t d a b) s

/-- `xor` (09 R175). -/
def execXor (e : Bool) (t : Bool) (d : Opnd) (a : Opnd) (b : Opnd) (s : State) :
    Host.Outcome State Fault Refusal := runElem (.xor e t d a b) s

/-- `shl` (09 R175). -/
def execShl (e : Bool) (t : Bool) (d : Opnd) (a : Opnd) (b : Opnd) (s : State) :
    Host.Outcome State Fault Refusal := runElem (.shl e t d a b) s

/-- `shr` (09 R175). -/
def execShr (e : Bool) (t : Bool) (d : Opnd) (a : Opnd) (b : Opnd) (s : State) :
    Host.Outcome State Fault Refusal := runElem (.shr e t d a b) s

/-- `sar` (09 R175). -/
def execSar (e : Bool) (t : Bool) (d : Opnd) (a : Opnd) (b : Opnd) (s : State) :
    Host.Outcome State Fault Refusal := runElem (.sar e t d a b) s

/-- `coal` (09 R183). -/
def execCoal (e : Bool) (t : Bool) (d : Opnd) (a : Opnd) (b : Opnd) (s : State) :
    Host.Outcome State Fault Refusal := runElem (.coal e t d a b) s

/-- `li` (09 R176). -/
def execLi (e : Bool) (t : Bool) (d : Opnd) (i : BitVec 16) (s : State) :
    Host.Outcome State Fault Refusal := runElem (.li e t d i) s

/-- `lih` (09 R176). -/
def execLih (e : Bool) (t : Bool) (d : Opnd) (i : BitVec 16) (s : State) :
    Host.Outcome State Fault Refusal := runElem (.lih e t d i) s

/-- `addi` (09 R176). -/
def execAddi (e : Bool) (t : Bool) (d : Opnd) (i : BitVec 16) (s : State) :
    Host.Outcome State Fault Refusal := runElem (.addi e t d i) s

/-- `cvt` (09 R177). -/
def execCvt (e : Bool) (t : Bool) (d : Opnd) (a : Opnd) (f : BitVec 8) (s : State) :
    Host.Outcome State Fault Refusal := runElem (.cvt e t d a f) s

/-- `mov` (09 R179). -/
def execMov (e : Bool) (t : Bool) (d : Opnd) (a : Opnd) (s : State) :
    Host.Outcome State Fault Refusal := runElem (.mov e t d a) s

/-- `neg` (09 R179). -/
def execNeg (e : Bool) (t : Bool) (d : Opnd) (a : Opnd) (s : State) :
    Host.Outcome State Fault Refusal := runElem (.neg e t d a) s

/-- `abs` (09 R179). -/
def execAbs (e : Bool) (t : Bool) (d : Opnd) (a : Opnd) (s : State) :
    Host.Outcome State Fault Refusal := runElem (.abs e t d a) s

/-- `sqrt` (09 R180). -/
def execSqrt (e : Bool) (t : Bool) (d : Opnd) (a : Opnd) (s : State) :
    Host.Outcome State Fault Refusal := runElem (.sqrt e t d a) s

/-- `rsqrt` (09 R180). -/
def execRsqrt (e : Bool) (t : Bool) (d : Opnd) (a : Opnd) (s : State) :
    Host.Outcome State Fault Refusal := runElem (.rsqrt e t d a) s

/-- `recip` (09 R180). -/
def execRecip (e : Bool) (t : Bool) (d : Opnd) (a : Opnd) (s : State) :
    Host.Outcome State Fault Refusal := runElem (.recip e t d a) s

/-- `exp2` (09 R180). -/
def execExp2 (e : Bool) (t : Bool) (d : Opnd) (a : Opnd) (s : State) :
    Host.Outcome State Fault Refusal := runElem (.exp2 e t d a) s

/-- `log2` (09 R180). -/
def execLog2 (e : Bool) (t : Bool) (d : Opnd) (a : Opnd) (s : State) :
    Host.Outcome State Fault Refusal := runElem (.log2 e t d a) s

/-- `sin` (09 R180). -/
def execSin (e : Bool) (t : Bool) (d : Opnd) (a : Opnd) (s : State) :
    Host.Outcome State Fault Refusal := runElem (.sin e t d a) s

/-- `cos` (09 R180). -/
def execCos (e : Bool) (t : Bool) (d : Opnd) (a : Opnd) (s : State) :
    Host.Outcome State Fault Refusal := runElem (.cos e t d a) s

/-- `tanh` (09 R180). -/
def execTanh (e : Bool) (t : Bool) (d : Opnd) (a : Opnd) (s : State) :
    Host.Outcome State Fault Refusal := runElem (.tanh e t d a) s

/-- `sigm` (09 R180). -/
def execSigm (e : Bool) (t : Bool) (d : Opnd) (a : Opnd) (s : State) :
    Host.Outcome State Fault Refusal := runElem (.sigm e t d a) s

/-- `floor` (09 R181). -/
def execFloor (e : Bool) (t : Bool) (d : Opnd) (a : Opnd) (s : State) :
    Host.Outcome State Fault Refusal := runElem (.floor e t d a) s

/-- `ceil` (09 R181). -/
def execCeil (e : Bool) (t : Bool) (d : Opnd) (a : Opnd) (s : State) :
    Host.Outcome State Fault Refusal := runElem (.ceil e t d a) s

/-- `trunc` (09 R181). -/
def execTrunc (e : Bool) (t : Bool) (d : Opnd) (a : Opnd) (s : State) :
    Host.Outcome State Fault Refusal := runElem (.trunc e t d a) s

/-- `rint` (09 R181). -/
def execRint (e : Bool) (t : Bool) (d : Opnd) (a : Opnd) (s : State) :
    Host.Outcome State Fault Refusal := runElem (.rint e t d a) s

/-- `frac` (09 R181). -/
def execFrac (e : Bool) (t : Bool) (d : Opnd) (a : Opnd) (s : State) :
    Host.Outcome State Fault Refusal := runElem (.frac e t d a) s

/-- `popc` (09 R182). -/
def execPopc (e : Bool) (t : Bool) (d : Opnd) (a : Opnd) (s : State) :
    Host.Outcome State Fault Refusal := runElem (.popc e t d a) s

/-- `clz` (09 R182). -/
def execClz (e : Bool) (t : Bool) (d : Opnd) (a : Opnd) (s : State) :
    Host.Outcome State Fault Refusal := runElem (.clz e t d a) s

/-- `not` (09 R182). -/
def execNot (e : Bool) (t : Bool) (d : Opnd) (a : Opnd) (s : State) :
    Host.Outcome State Fault Refusal := runElem (.not e t d a) s

/-- `sel` (09 R186). -/
def execSel (e : Bool) (t : Bool) (d : Opnd) (a : Opnd) (b : Opnd) (s : State) :
    Host.Outcome State Fault Refusal := runWord (.sel e t d a b) s planSel [] selBody

/-- `mkna` (09 R184). -/
def execMkna (e : Bool) (t : Bool) (d : Opnd) (a : Opnd) (s : State) :
    Host.Outcome State Fault Refusal := runWord (.mkna e t d a) s planSel [] mknaBody

/-- `cmp` (09 R185). -/
def execCmp (e : Bool) (r : BitVec 5) (q : BitVec 3) (a : Opnd) (b : Opnd) (s : State) :
    Host.Outcome State Fault Refusal := runWord (.cmp e r q a b) s planElem [] (cmpBody r.toNat q.toNat)

/-- `isna` (09 R184). -/
def execIsna (e : Bool) (d : BitVec 3) (a : Opnd) (s : State) :
    Host.Outcome State Fault Refusal := runWord (.isna e d a) s planElem [] (isnaBody d.toNat)

/-- `qand` (09 R188). -/
def execQand (e : Bool) (d : BitVec 3) (b : BitVec 3) (a : BitVec 3) (s : State) :
    Host.Outcome State Fault Refusal := runCond (.qand e d b a) d.toNat a.toNat b.toNat condAnd s

/-- `qor` (09 R188). -/
def execQor (e : Bool) (d : BitVec 3) (b : BitVec 3) (a : BitVec 3) (s : State) :
    Host.Outcome State Fault Refusal := runCond (.qor e d b a) d.toNat a.toNat b.toNat condOr s

/-- `qnot` (09 R188). -/
def execQnot (e : Bool) (d : BitVec 3) (a : BitVec 3) (s : State) :
    Host.Outcome State Fault Refusal := runCond (.qnot e d a) d.toNat a.toNat 0 (fun x _ => condNot x) s

/-- `qis.t` (09 R188). -/
def execQisT (e : Bool) (d : BitVec 3) (a : BitVec 3) (s : State) :
    Host.Outcome State Fault Refusal := runCond (.qisT e d a) d.toNat a.toNat 0 (fun x _ => condOf (condRead x == condT)) s

/-- `qis.u` (09 R188). -/
def execQisU (e : Bool) (d : BitVec 3) (a : BitVec 3) (s : State) :
    Host.Outcome State Fault Refusal := runCond (.qisU e d a) d.toNat a.toNat 0 (fun x _ => condOf (condRead x == condU)) s

/-- `qis.f` (09 R188). -/
def execQisF (e : Bool) (d : BitVec 3) (a : BitVec 3) (s : State) :
    Host.Outcome State Fault Refusal := runCond (.qisF e d a) d.toNat a.toNat 0 (fun x _ => condOf (condRead x == condF)) s

/-- `qmov` (09 R188). -/
def execQmov (e : Bool) (d : BitVec 3) (a : BitVec 3) (s : State) :
    Host.Outcome State Fault Refusal := runCond (.qmov e d a) d.toNat a.toNat 0 (fun x _ => condRead x) s

/-- `mode` (03 R57). -/
def execMode (e : Bool) (p : BitVec 25) (s : State) :
    Host.Outcome State Fault Refusal := runWord (.mode e p) s planNone [] (modeBody p)

end Sys2Proof.Machine
end

