-- ==== Sys2Proof/Machine/CrossLane.lean ====
section
/-! DEFINITION. Across the lanes (10): the cross-lane reads `lrd`, `bcast` and `lidx`, the reductions and `dot`, the scans,
`match` and the votes. -/

namespace Sys2Proof.Machine

/-- A source that must be a vector (03 R52): a vector register, or a latch that holds a vector result. -/
def vecSource (x : Issue) (f : Option (Role × Opnd)) : Bool :=
  match f with
  | some (_, .b n) => !x.fresh || isVecOpnd x.g (.b n) || latchOf x.g n.val == .empty
  | some (_, .v _) => true
  | _ => false

/-- The plan of a word that reads vectors across lanes at the vector type (10 R191, R192, R201); `writes` are the registers
it writes with t = 0. -/
def planLanes (wide2 : Bool) (writes : List Nat) (x : Issue) : Plan :=
  let f := x.i.form
  let code := modeTypeCode x.g.mode true
  let t := typeOf x.g.mode true
  let wide := t.width == 64
  { bad := (wide && (oddV f.a || oddV f.b || (isV f.d && oddV f.d))) || (f.t && (wide && isV f.d)) || (f.t && wide2) ||
      (readsRm x.i t && modeField x.g.mode 11 3 == 7)
    vec := true, ty := some code
    own := if acceptsType x.i t then none else some (fault 0x02 code)
    readA := f.a.isSome, readB := f.b.isSome, pairA := wide, pairB := wide, naA := t.na, naB := t.na
    writes := if f.t then [] else writes, active := activeSet x.g }

/-- The plan of a reduction: two scalar results (10 R191). -/
def planRed (x : Issue) : Plan :=
  let p := planLanes false [0xC0 + destReg x.i.form.d, 0xC1 + destReg x.i.form.d] x
  { p with bad := p.bad || !vecSource x x.i.form.a }

/-- The plan of a scan (10 R191). -/
def planScan (x : Issue) : Plan :=
  let dn := destReg x.i.form.d
  let wide := (typeOf x.g.mode true).width == 64
  let p := planLanes false (if wide then [dn, dn + 1] else [dn]) x
  { p with bad := p.bad || !vecSource x x.i.form.a }

/-- log2 of a group's width. -/
def levels (w : Nat) : Nat := if w = 8 then 3 else if w = 16 then 4 else if w = 32 then 5 else 6

/-- The element of lane i of a source, or empty where the lane is not in `active` or its element is absent (10 R195). -/
def laneElem (x : Issue) (t : Ty) (i : Nat) : Option Nat :=
  let v := srcVal x.e x.i.form.a x.e.slotA t i
  if x.e.active.getLsbD i && t.present v then some v else none

/-- The same element as a reduction or a scan reads it (02 R27, R35). -/
def laneInput (x : Issue) (t : Ty) (i : Nat) : Option Nat := (laneElem x t i).map (asRead t (roundMode x.e.mode))

/-- Write the two results of a reduction: `S[d]` also enters the latches (10 R191). -/
def putTwo (s : State) (g : Group) (e : Entry) (d a b : Nat) : State :=
  let g := { g with latch := pushLatch g.latch e.tag (.full false (cellsOf 64 1 (fun _ => a))) }
  setGroup s { g with s := cellSet (cellSet g.s d (BitVec.ofNat 64 a)) (d + 1) (BitVec.ofNat 64 b) }

/-- The result of a reduction over elements (10 R195, R198). -/
def redResult (o : OpC) (x : Issue) (t : Ty) (xs : List (Option Nat)) (ev : Events) : Except Stop Done :=
  let (r, e) := tree o t (roundMode x.e.mode) (levels x.g.width) xs
  let kept := (xs.filter (·.isSome)).length
  let e := e.plus ev
  let e := if r.isNone && t.isTyped then { e with absent := e.absent + 1 } else e
  .ok (.ok (putTwo (chargeGroup x.s x.g e) x.g x.e (destReg x.i.form.d) (r.getD t.na) kept))

/-- `red.add`, `red.min`, `red.max`, `red.and` and `red.or` (10 R195). -/
def redBody (o : OpC) (x : Issue) : Except Stop Done :=
  let t := typeOf x.e.mode true
  redResult o x t ((List.range x.g.width).map (laneInput x t)) {}

/-- `red.cnt` (10 R196). -/
def redCntBody (x : Issue) : Except Stop Done :=
  let t := typeOf x.e.mode true
  let kept := ((List.range x.g.width).filter (fun i => (laneElem x t i).isSome)).length
  .ok (.ok (putTwo x.s x.g x.e (destReg x.i.form.d) kept (lanesOf x.e.active x.g.width).length))

/-- The plan of `dot`: at least one vector source (10 R191). -/
def planDot (x : Issue) : Plan :=
  let p := planLanes false [0xC0 + destReg x.i.form.d, 0xC1 + destReg x.i.form.d] x
  { p with bad := p.bad || !(vecSource x x.i.form.a || vecSource x x.i.form.b) }

/-- `dot` (10 R195): the products are rounded as `mul` rounds, never stochastically. -/
def dotBody (x : Issue) : Except Stop Done :=
  let t := typeOf x.e.mode true
  let m0 := roundMode x.e.mode
  let m := if m0.rm = 6 then { m0 with rm := 0 } else m0
  let one (i : Nat) : Option LRes :=
    let a := srcVal x.e x.i.form.a x.e.slotA t i
    let b := srcVal x.e x.i.form.b x.e.slotB t i
    if x.e.active.getLsbD i && t.present a && t.present b then some (op2 .mul t m 0 a b) else none
  let rs := (List.range x.g.width).map one
  let ev := rs.foldl (fun (e : Events) r => match r with | some r => e.plus r.events | none => e) {}
  redResult .add x t (rs.map (fun r => r.map (·.code))) ev

/-- The scans (10 R197, R198). -/
def scanBody (o : OpC) (exclusive : Bool) (x : Issue) : Except Stop Done :=
  let t := typeOf x.e.mode true
  let w := x.g.width
  let xs := (List.range w).map (laneInput x t)
  let n := if exclusive then w - 1 else w
  let (rs, ev) := scanLoop o t (roundMode x.e.mode) xs n 0 [] {}
  let rs := if exclusive then none :: rs else rs
  let ev := (lanesOf x.e.active w).foldl (fun e i =>
    if (rs.getD i none).isNone && t.isTyped then { e with absent := e.absent + 1 } else e) ev
  .ok (.ok (putVec (chargeGroup x.s x.g ev) x.g x.e x.i.form.t (destReg x.i.form.d) (t.width == 64) x.e.active
    (fun i => (rs.getD i none).getD t.na)))

/-- The plan of `match`: an even pair is written, whatever the type (10 R191). -/
def planMatch (x : Issue) : Plan :=
  let dn := destReg x.i.form.d
  let p := planLanes false [dn, dn + 1] x
  { p with bad := p.bad || !vecSource x x.i.form.a }

/-- The canonical key of an element (10 R199). -/
def matchKey (t : Ty) (v : Nat) : Nat :=
  if t.isF8 then
    (match valOf t false v with
     | .nan => 2 ^ 64
     | .fin _ n _ => if n = 0 then 0 else v
     | _ => v)
  else v

/-- `match` (10 R199). -/
def matchBody (x : Issue) : Except Stop Done :=
  let t := typeOf x.e.mode true
  let key (i : Nat) : Option Nat := (laneElem x t i).map (matchKey t)
  let mask (i : Nat) : Nat :=
    match key i with
    | none => 0
    | some k => (laneSet x.g.width (fun j => key j == some k)).toNat
  .ok (.ok (putVec x.s x.g x.e false (destReg x.i.form.d) true x.e.active mask))

/-- The plan of a vote (10 R200). -/
def planVote (q : Nat) (x : Issue) : Plan :=
  let f := x.i.form
  { active := activeSet x.g, byLane := true, cond0 := cellGet x.g.q q, writes := if f.t then [] else [0xC0 + destReg f.d] }

/-- A vote (10 R200). -/
def voteBody (c : Cond) (x : Issue) : Except Stop Done :=
  .ok (.ok (putScalar x.s x.g x.e x.i.form.t (destReg x.i.form.d)
    (laneSet x.g.width (fun i => x.e.active.getLsbD i && condRead (condAt x.e.cond0 i) == c)).toNat))

/-- The plan of `lidx`. -/
def planLidx (x : Issue) : Plan :=
  let f := x.i.form
  { vec := true, active := activeSet x.g, writes := if f.t then [] else [destReg f.d] }

/-- `lidx` (10 R194). -/
def lidxBody (x : Issue) : Except Stop Done :=
  .ok (.ok (putVec x.s x.g x.e x.i.form.t (destReg x.i.form.d) false x.e.active (fun i => i)))

/-- `bcast` of a lane (10 R194). -/
def bcastBody (lane : Nat) (x : Issue) : Except Stop Done :=
  let t := typeOf x.e.mode true
  let v := if lane < x.g.width then srcVal x.e x.i.form.a x.e.slotA t lane else t.na
  .ok (.ok (putVec x.s x.g x.e x.i.form.t (destReg x.i.form.d) (t.width == 64) x.e.active (fun _ => v)))

/-- The plan of `lrd` (10 R193): a vector `a`; a vector `d`, or a scalar `d` with a scalar `b`. The index is 32 bits. -/
def planLrd (x : Issue) : Plan :=
  let f := x.i.form
  let dn := destReg f.d
  let wide := (typeOf x.g.mode true).width == 64
  let bVec := match f.b with | some (_, o) => (if x.fresh then isVecOpnd x.g o else isV f.b) | none => false
  let p := planLanes false (if isV f.d then (if wide then [dn, dn + 1] else [dn]) else [0xC0 + dn]) x
  { p with bad := (wide && (oddV f.a || (isV f.d && oddV f.d))) || (f.t && wide && isV f.d) || !vecSource x f.a ||
                  (isS f.d && bVec)
           pairB := false, naB := 2 ^ 31 }

/-- `lrd` (10 R193): stored contents of another lane. -/
def lrdBody (x : Issue) : Except Stop Done :=
  let f := x.i.form
  let t := typeOf x.e.mode true
  let elem (k : Nat) : Nat :=
    match i32? (srcVal x.e f.b x.e.slotB (.raw 32) k) with
    | some j => if 0 ≤ j ∧ j < x.g.width then srcVal x.e f.a x.e.slotA t j.toNat else t.na
    | none => t.na
  if isS f.d then .ok (.ok (putScalar x.s x.g x.e f.t (destReg f.d) (elem 0)))
  else .ok (.ok (putVec x.s x.g x.e f.t (destReg f.d) (t.width == 64) x.e.active elem))

/-- `lrd` (10 R193). -/
def execLrd (e : Bool) (t : Bool) (d : Opnd) (a : Opnd) (b : Opnd) (s : State) :
    Host.Outcome State Fault Refusal := runWord (.lrd e t d a b) s planLrd [] lrdBody

/-- `bcast` (10 R194). -/
def execBcast (e : Bool) (t : Bool) (d : Opnd) (a : Opnd) (L : BitVec 6) (s : State) :
    Host.Outcome State Fault Refusal := runWord (.bcast e t d a L) s planScan [] (bcastBody L.toNat)

/-- `lidx` (10 R194). -/
def execLidx (e : Bool) (t : Bool) (d : Opnd) (s : State) :
    Host.Outcome State Fault Refusal := runWord (.lidx e t d) s planLidx [] lidxBody

/-- `red.add` (10 R195). -/
def execRedAdd (e : Bool) (d : Opnd) (a : Opnd) (s : State) :
    Host.Outcome State Fault Refusal := runWord (.redAdd e d a) s planRed [] (redBody .add)

/-- `red.min` (10 R195). -/
def execRedMin (e : Bool) (d : Opnd) (a : Opnd) (s : State) :
    Host.Outcome State Fault Refusal := runWord (.redMin e d a) s planRed [] (redBody .min)

/-- `red.max` (10 R195). -/
def execRedMax (e : Bool) (d : Opnd) (a : Opnd) (s : State) :
    Host.Outcome State Fault Refusal := runWord (.redMax e d a) s planRed [] (redBody .max)

/-- `red.and` (10 R195). -/
def execRedAnd (e : Bool) (d : Opnd) (a : Opnd) (s : State) :
    Host.Outcome State Fault Refusal := runWord (.redAnd e d a) s planRed [] (redBody .and)

/-- `red.or` (10 R195). -/
def execRedOr (e : Bool) (d : Opnd) (a : Opnd) (s : State) :
    Host.Outcome State Fault Refusal := runWord (.redOr e d a) s planRed [] (redBody .or)

/-- `red.cnt` (10 R196). -/
def execRedCnt (e : Bool) (d : Opnd) (a : Opnd) (s : State) :
    Host.Outcome State Fault Refusal := runWord (.redCnt e d a) s planRed [] redCntBody

/-- `dot` (10 R195). -/
def execDot (e : Bool) (d : Opnd) (a : Opnd) (b : Opnd) (s : State) :
    Host.Outcome State Fault Refusal := runWord (.dot e d a b) s planDot [] dotBody

/-- `scan.add` (10 R197). -/
def execScanAdd (e : Bool) (t : Bool) (d : Opnd) (a : Opnd) (s : State) :
    Host.Outcome State Fault Refusal := runWord (.scanAdd e t d a) s planScan [] (scanBody .add false)

/-- `scan.addx` (10 R197). -/
def execScanAddx (e : Bool) (t : Bool) (d : Opnd) (a : Opnd) (s : State) :
    Host.Outcome State Fault Refusal := runWord (.scanAddx e t d a) s planScan [] (scanBody .add true)

/-- `scan.max` (10 R197). -/
def execScanMax (e : Bool) (t : Bool) (d : Opnd) (a : Opnd) (s : State) :
    Host.Outcome State Fault Refusal := runWord (.scanMax e t d a) s planScan [] (scanBody .max false)

/-- `match` (10 R199). -/
def execMatchLanes (e : Bool) (d : Opnd) (a : Opnd) (s : State) :
    Host.Outcome State Fault Refusal := runWord (.matchLanes e d a) s planMatch [] matchBody

/-- `vote.t` (10 R200). -/
def execVoteT (e : Bool) (t : Bool) (d : Opnd) (q : BitVec 3) (s : State) :
    Host.Outcome State Fault Refusal := runWord (.voteT e t d q) s (planVote q.toNat) [] (voteBody condT)

/-- `vote.f` (10 R200). -/
def execVoteF (e : Bool) (t : Bool) (d : Opnd) (q : BitVec 3) (s : State) :
    Host.Outcome State Fault Refusal := runWord (.voteF e t d q) s (planVote q.toNat) [] (voteBody condF)

/-- `vote.u` (10 R200). -/
def execVoteU (e : Bool) (t : Bool) (d : Opnd) (q : BitVec 3) (s : State) :
    Host.Outcome State Fault Refusal := runWord (.voteU e t d q) s (planVote q.toNat) [] (voteBody condU)

end Sys2Proof.Machine
end

