-- ==== Sys2Proof/Machine/Near.lean ====
section
/-! DEFINITION. Near memory: `ld`, `st`, `ldfe`, `stfe` and `wfe` (07 R140 to R147), and the shape-register instructions
(04 R85 to R88). -/

namespace Sys2Proof.Machine

/-- The group as a state holds it after part of a word's work. -/
def groupNow (s : State) (x : Issue) : Group := (getGroup s x.g.id).getD x.g

/-- The plan of a near access (07 R140, R141): a 64-bit base in `a`, a 32-bit offset in `b`. -/
def planNear (load : Bool) (x : Issue) : Plan :=
  let f := x.i.form
  let vec := kindOf x
  let code := modeTypeCode x.g.mode vec
  let t := typeOf x.g.mode vec
  let wide := vec && t.width == 64
  let dn := destReg f.d
  { bad := (load && isS f.d && vec) || (wide && oddV f.d) || (f.t && wide)
    vec := vec, ty := some code
    readA := f.a.isSome, readB := f.b.isSome, readD := !load && f.d.isSome
    pairA := vec, pairB := false, pairD := wide, naA := na64, naB := 2 ^ 31, naD := t.na
    writes := if f.t || !load then [] else if isV f.d then (if wide then [dn, dn + 1] else [dn]) else if isS f.d then [0xC0 + dn] else []
    stops := match x.i with | .wfeFull .. => false | .wfeEmpty .. => false | _ => true
    active := if vec then activeSet x.g else 0 }

/-- The lanes in which a word acts: those of `active`, or once. -/
def actingLanes (x : Issue) : List Nat := if x.e.vec then lanesOf x.e.active x.g.width else [0]

/-- The near address of a lane; none where it touches nothing (07 R140). A form without `b` has a zero offset. -/
def laneAddr (x : Issue) (i : Nat) : Option Int :=
  let f := x.i.form
  let base := srcVal x.e f.a x.e.slotA (.raw 64) i
  let off := match f.b with | some _ => srcVal x.e f.b x.e.slotB (.raw 32) i | none => 0
  nearAddr base off

/-- The lanes and addresses that a word touches. -/
def touched (x : Issue) : List (Nat × Int) :=
  (actingLanes x).filterMap (fun i => (laneAddr x i).map (fun a => (i, a)))

/-- An address as the data of a fault. -/
def addrData (a : Int) : Nat := (a % (2 ^ 64 : Int)).toNat

/-- The first fault of a list of near addresses of `n` bytes (07 R147): each cause over all lanes, in order. -/
def nearFaults (s : State) (w : Who) (store : Bool) (n al : Nat) (l : List Int) : Option FaultInfo :=
  let first (c : Nat) : Option FaultInfo :=
    (l.find? (fun a => nearFault s w a n al == some c)).map (fun a => fault c (addrData a))
  match first 0x11 with
  | some f => some f
  | none =>
    match first 0x10 with
    | some f => some f
    | none =>
      match first 0x12 with
      | some f => some f
      | none =>
        if store then (l.find? (fun a => sealHit s w a.toNat n)).map (fun a => fault 0x13 (addrData a)) else none

/-- An access at a near address meets an uncorrectable error (21 R361). -/
def nearBad (s : State) (w : Who) (store : Bool) (a n : Nat) : Bool :=
  match nearLoc s w a n with | some l => locBad s store l n | none => false

/-- The value at a near address. -/
def nearRead (s : State) (w : Who) (a n : Nat) : Nat :=
  match nearLoc s w a n with | some l => locGet s l n | none => 0

/-- Store at a near address. -/
def nearWrite (s : State) (w : Who) (a n x : Nat) : State :=
  match nearLoc s w a n with | some l => locSet s l n x | none => s

/-- The value at a near address as a group sees it, and as an engine sees it (24 R363). -/
def nearSeen (s : State) (w : Who) (v : View) (a n : Nat) : Nat :=
  match nearLoc s w a n with | some l => locSeen s v l n | none => 0

/-- What a group's reads at near addresses make it observe from then on (13 R262). -/
def nearNoted (s : State) (w : Who) (g : Group) (n : Nat) (l : List Nat) : State :=
  acquireAges s g.id (l.foldl (fun acc a => match nearLoc s w a n with
    | some l => joinAges acc (seenAges s (groupView s g) l n)
    | none => acc) [])

/-- Store at a near address, as a writer. -/
def nearStore (s : State) (w : Who) (by_ : Writer) (a n x : Nat) : State :=
  match nearLoc s w a n with | some l => locStore s by_ l n x | none => s

/-- The 8-byte parts of a record, of which each is single-copy atomic and the whole is not (04 R88). -/
def partAddrs (a n : Nat) : List Nat := (List.range (n / 8)).map (a + 8 * ·)

/-- A record of `n` bytes at a near address as a group sees it, part by part, and its store. -/
def recordSeen (s : State) (w : Who) (v : View) (a n : Nat) : Nat :=
  ((partAddrs a n).zipIdx).foldl (fun acc p => acc + nearSeen s w v p.1 8 * 2 ^ (64 * p.2)) 0
def recordStore (s : State) (w : Who) (by_ : Writer) (a n x : Nat) : State :=
  ((partAddrs a n).zipIdx).foldl (fun s p => nearStore s w by_ p.1 8 (x / 2 ^ (64 * p.2) % 2 ^ 64)) s

/-- The full/empty bit at a near address, and its change. -/
def nearFe (s : State) (w : Who) (a : Nat) : Bool := match nearLoc s w a 1 with | some l => feGet s l | none => false
def nearSetFe (s : State) (w : Who) (a : Nat) (b : Bool) : State :=
  match nearLoc s w a 1 with | some l => feSet s l b | none => s

/-- The point of a granule, and what the last change of its bit released (07 R149). -/
def nearPoint (s : State) (w : Who) (a : Nat) : Option Point := (nearLoc s w a 1).map (fun l => .granule l.granule)
def nearReleased (s : State) (w : Who) (a : Nat) : List Nat :=
  match nearPoint s w a with | some p => released s p | none => []

/-- Change a granule's bit, which releases what a group carries (07 R149), in place of what its last change released
(DEDUCED, log 70). -/
def changeFe (s : State) (w : Who) (a : Nat) (b : Bool) (ages : List Nat) : State :=
  match nearPoint s w a with | some p => replaceAt (nearSetFe s w a b) p ages | none => s

/-- A word stops after some of its lanes (04 R71, 05 R108): the lanes done are recorded with their results, and written
outside the latches when the word writes a register. -/
def stopAfter (x : Issue) (s : State) (writes wide : Bool) (done rest : List Nat) (f : Nat → Nat)
    (why : FaultInfo ⊕ Wait) : Except Stop Done :=
  let e := x.e
  let e : Entry := { e with
    active := e.active &&& ~~~(laneSet 64 (fun i => done.contains i && decide (rest.headD 64 < i)))
    first := rest.headD 64
    lanesDone := e.lanesDone ||| laneSet 64 (fun i => done.contains i)
    partials := done.foldl (fun m i => cellSet m i (BitVec.ofNat 64 (f i))) e.partials }
  let s := if writes && !x.i.form.t then partVec s (groupNow s x) (destReg x.i.form.d) wide done f else s
  .error (.part s e why)

/-- A word meets an uncorrectable error in a lane, at an address: 0x50 there, reported to the host, with the lanes below
applied as `s` holds them (21 R361, 25 R382). -/
def stopBad (x : Issue) (s : State) (writes wide : Bool) (lane : Nat) (addr : Nat) (f : Nat → Nat) : Except Stop Done :=
  let s := signal s 2
  if x.e.vec then
    stopAfter x s writes wide ((actingLanes x).filter (fun i => decide (i < lane)))
      ((actingLanes x).filter (fun i => decide (lane ≤ i))) f
      (.inl { fault 0x50 addr with lane := BitVec.ofNat 32 lane })
  else .error (.part s x.e (.inl (fault 0x50 addr)))

/-- Write the result of a load: lanes of `active` with a value by lane, or a scalar. -/
def putLoad (s : State) (x : Issue) (t : Ty) (f : Nat → Nat) : State :=
  let g := groupNow s x
  if x.e.vec then putVec s g x.e x.i.form.t (destReg x.i.form.d) (t.width == 64) x.e.active f
  else putScalar s g x.e x.i.form.t (destReg x.i.form.d) (f 0)

/-- The element that a load gives in a lane (07 R142). -/
def loadLane (s : State) (x : Issue) (t : Ty) (i : Nat) : Nat :=
  match laneAddr x i with
  | none => t.na
  | some a => nearSeen s (whoOf s x.g) (groupView s (groupNow s x)) a.toNat (t.width / 8)

/-- What the loads of some lanes leave: what they observed, their group observes from then on. -/
def loadNoted (s : State) (x : Issue) (t : Ty) (l : List (Nat × Int)) : State :=
  nearNoted s (whoOf s x.g) (groupNow s x) (t.width / 8) (l.map (·.2.toNat))

/-- The lower of two lanes at which a word stops, each with the data of its fault: at a register with an error comes before at the
bytes of the same lane. -/
def lowerStop (reg : Option Nat) (mem : Option (Nat × Nat)) : Option (Nat × Nat) :=
  match reg, mem with
  | some k, some y => if k ≤ y.1 then some (k, na64) else some y
  | some k, none => some (k, na64)
  | none, m => m

/-- The first lane at which the loads of a word meet an error, with the data of its fault. -/
def loadStop (x : Issue) (t : Ty) : Option (Nat × Nat) :=
  lowerStop x.badLane (((touched x).find? (fun ia => nearBad x.s (whoOf x.s x.g) false ia.2.toNat (t.width / 8))).map
    (fun ia => (ia.1, addrData ia.2)))

/-- `ld` (07 R142). -/
def ldBody (x : Issue) : Except Stop Done :=
  let t := typeOf x.e.mode x.e.vec
  let n := t.width / 8
  match nearFaults x.s (whoOf x.s x.g) false n n ((touched x).map (·.2)) with
  | some f => .error (.flt f)
  | none =>
    match loadStop x t with
    | some (k, a) =>
      stopBad x (loadNoted x.s x t ((touched x).filter (fun y => decide (y.1 < k)))) true (t.width == 64) k a
        (loadLane x.s x t)
    | none => .ok (.ok (putLoad (loadNoted x.s x t (touched x)) x t (loadLane x.s x t)))

/-- The store of one lane. -/
def storeLane (x : Issue) (t : Ty) (s : State) (ia : Nat × Int) : State :=
  nearStore s (whoOf x.s x.g) (groupWriter x.g false []) ia.2.toNat (t.width / 8) (srcVal x.e x.i.form.d x.e.slotD t ia.1)

/-- The stores of a word, lane by lane, ascending (07 R142). -/
def storeLanes (x : Issue) (t : Ty) : State := (touched x).foldl (storeLane x t) x.s

/-- The stores of lanes up to the first that meets an error: the state, the lanes stored, and that lane. -/
def storeUntil (x : Issue) (t : Ty) : State → List (Nat × Int) → State × List (Nat × Int) × Option (Nat × Nat)
  | s, [] => (s, [], x.badLane.map (fun k => (k, na64)))
  | s, ia :: rest =>
    if x.badLane.any (· ≤ ia.1) then (s, [], x.badLane.map (fun k => (k, na64)))
    else if nearBad s (whoOf x.s x.g) true ia.2.toNat (t.width / 8) then (s, [], some (ia.1, addrData ia.2))
    else
      let r := storeUntil x t (storeLane x t s ia) rest
      (r.1, ia :: r.2.1, r.2.2)

/-- Change the full/empty bits of the granules of some lanes, but for those that a lane of `rest` names: a release of a group's
earlier accesses and the word's own (07 R149). -/
def setGranules (s : State) (w : Who) (full : Bool) (ages : List Nat) (l rest : List (Nat × Int)) : State :=
  l.foldl (fun s ia => if rest.any (fun y => y.2 / 16 == ia.2 / 16) then s else changeFe s w ia.2.toNat full ages) s

/-- The same by the group of a word, which releases what it carries now. -/
def releaseGranules (s : State) (x : Issue) (full : Bool) (l rest : List (Nat × Int)) : State :=
  setGranules s (whoOf x.s x.g) full (groupCarries s (groupNow s x)) l rest

/-- `st`, and `stfe`, which then sets the granules that it wrote full (07 R142, R143). -/
def stBody (fill : Bool) (x : Issue) : Except Stop Done :=
  let t := typeOf x.e.mode x.e.vec
  let n := t.width / 8
  let w := whoOf x.s x.g
  match nearFaults x.s w true n n ((touched x).map (·.2)) with
  | some f => .error (.flt f)
  | none =>
    match storeUntil x t x.s (touched x) with
    | (s, done, some (k, a)) =>
      stopBad x (if fill then releaseGranules s x true done ((touched x).filter (fun y => decide (k ≤ y.1))) else s)
        false false k a (fun _ => 0)
    | _ =>
      let s := storeLanes x t
      .ok (.ok (if fill then releaseGranules s x true (touched x) [] else s))

/-- Every granule that a word names is in the awaited state (07 R144, R145). -/
def granulesAre (x : Issue) (full : Bool) : Bool :=
  (touched x).all (fun ia => nearFe x.s (whoOf x.s x.g) ia.2.toNat == full)

/-- A word observes the bits that it waited for: its group acquires what their last changes released (07 R149). -/
def acquireGranules (x : Issue) : State :=
  acquireAges x.s x.g.id ((touched x).foldl (fun acc ia => joinAges acc (nearReleased x.s (whoOf x.s x.g) ia.2.toNat)) [])

/-- `ldfe` (07 R144): wait until every granule is full, load, and with `clear` empty them. -/
def ldfeBody (clear : Bool) (x : Issue) : Except Stop Done :=
  let t := typeOf x.e.mode x.e.vec
  let n := t.width / 8
  let w := whoOf x.s x.g
  match nearFaults x.s w false n n ((touched x).map (·.2)) with
  | some f => .error (.flt f)
  | none =>
    if granulesAre x true then
      let h := acquireGranules x
      match loadStop x t with
      | some (k, a) =>
        let done := (touched x).filter (fun y => decide (y.1 < k))
        let rest := (touched x).filter (fun y => decide (k ≤ y.1))
        let s := loadNoted h x t done
        stopBad x (if clear then releaseGranules s x false done rest else s) true (t.width == 64) k a (loadLane h x t)
      | none =>
        let s := loadNoted h x t (touched x)
        .ok (.ok (putLoad (if clear then releaseGranules s x false (touched x) [] else s) x t (loadLane h x t)))
    else .error (.wait .fullEmpty)

/-- `wfe` (07 R145). -/
def wfeBody (full : Bool) (x : Issue) : Except Stop Done :=
  let t := typeOf x.e.mode x.e.vec
  let n := t.width / 8
  match nearFaults x.s (whoOf x.s x.g) false n n ((touched x).map (·.2)) with
  | some f => .error (.flt f)
  | none => if granulesAre x full then .ok (.ok (acquireGranules x)) else .error (.wait .fullEmpty)

/-! ### Shape registers (04 R84 to R88) -/

/-- The plan of a word whose `a` names a scalar register read as 64 bits. -/
def planA (x : Issue) : Plan := { readA := x.i.form.a.isSome, naA := na64 }

/-- The plan of a word with a scalar source in `a` and a scalar destination in `d`. -/
def planAD (x : Issue) : Plan :=
  let f := x.i.form
  { readA := f.a.isSome, naA := na64, writes := if f.t then [] else [0xC0 + destReg f.d] }

/-- The scalar in slot a. -/
def scalarA (x : Issue) : Nat := (cellGet x.e.slotA 0).toNat
def scalarB (x : Issue) : Nat := (cellGet x.e.slotB 0).toNat
def scalarD (x : Issue) : Nat := (cellGet x.e.slotD 0).toNat

def hGet (g : Group) (n : Nat) : BitVec 512 := cellGet g.h n
def hSet (g : Group) (n : Nat) (x : BitVec 512) : Group := { g with h := cellSet g.h n x }

/-- The fault of a 64-byte access at a shape register's place, an error among them (04 R87, 21 R361). A present address with bit
63 set is a negative one (DEDUCED, log 65). -/
def shapeFault (x : Issue) (store : Bool) (a : Int) : Option FaultInfo :=
  match nearFaults x.s (whoOf x.s x.g) store 64 64 [a] with
  | some f => some f
  | none => if nearBad x.s (whoOf x.s x.g) store a.toNat 64 then some (fault 0x50 (addrData a)) else none

/-- A scalar word ends in a fault; an error is reported to the host (25 R382). -/
def stopFault (x : Issue) (f : FaultInfo) : Except Stop Done := .error (.part (signalBad x.s f.cause) x.e (.inl f))

/-- `shld` (04 R86, R87). -/
def shldBody (n : Nat) (x : Issue) : Except Stop Done :=
  match i64? (scalarA x) with
  | none => .ok (.ok x.s)
  | some a =>
    (match shapeFault x false a with
     | some f => stopFault x f
     | none =>
       let w := whoOf x.s x.g
       let s := nearNoted x.s w x.g 8 (partAddrs a.toNat 64)
       .ok (.ok (setGroup s (hSet (groupNow s x) n (BitVec.ofNat 512 (recordSeen x.s w (groupView x.s x.g) a.toNat 64))))))

/-- `shst` (04 R86, R87). -/
def shstBody (n : Nat) (x : Issue) : Except Stop Done :=
  match i64? (scalarA x) with
  | none => .ok (.ok x.s)
  | some a =>
    (match shapeFault x true a with
     | some f => stopFault x f
     | none => .ok (.ok (recordStore x.s (whoOf x.s x.g) (groupWriter x.g false []) a.toNat 64 (hGet x.g n).toNat)))

/-- The place of a `shset` field: lowest bit and width (04 R75, R85). -/
def shapeField (k : Nat) : Nat × Nat :=
  match k with
  | 0 => (0, 64) | 1 => (64, 32) | 2 => (96, 32) | 3 => (128, 32) | 4 => (160, 32)
  | 5 => (192, 48) | 6 => (240, 48) | 7 => (288, 48) | 8 => (336, 48)
  | 9 => (384, 8) | 10 => (392, 2) | 11 => (394, 2) | 12 => (396, 4) | 13 => (400, 16) | 14 => (416, 32) | _ => (448, 64)

/-- Replace a field of a record. -/
def setField (h : BitVec 512) (lo n x : Nat) : BitVec 512 :=
  (h &&& ~~~(BitVec.ofNat 512 ((2 ^ n - 1) * 2 ^ lo))) ||| BitVec.ofNat 512 (x % 2 ^ n * 2 ^ lo)

/-- `shset` (04 R86): the rank stores its value less 1, modulo 4. -/
def shsetBody (k n : Nat) (x : Issue) : Except Stop Done :=
  let (lo, w) := shapeField k
  let v := if k = 10 then scalarA x + 3 else scalarA x
  .ok (.ok (setGroup x.s (hSet x.g n (setField (hGet x.g n) lo w v))))

/-- `ld` (07 R142). -/
def execLd (e : Bool) (t : Bool) (d : Opnd) (a : Opnd) (b : Opnd) (s : State) :
    Host.Outcome State Fault Refusal := runWord (.ld e t d a b) s (planNear true) [] ldBody

/-- `st` (07 R142). -/
def execSt (e : Bool) (d : Opnd) (a : Opnd) (b : Opnd) (s : State) :
    Host.Outcome State Fault Refusal := runWord (.st e d a b) s (planNear false) [] (stBody false)

/-- `stfe` (07 R143). -/
def execStfe (e : Bool) (d : Opnd) (a : Opnd) (b : Opnd) (s : State) :
    Host.Outcome State Fault Refusal := runWord (.stfe e d a b) s (planNear false) [] (stBody true)

/-- `ldfe` (07 R144). -/
def execLdfe (d : Opnd) (a : Opnd) (c : BitVec 1) (s : State) :
    Host.Outcome State Fault Refusal := runWord (.ldfe d a c) s (planNear true) [] (ldfeBody (c == 1))

/-- `wfe.full` (07 R145). -/
def execWfeFull (a : Opnd) (s : State) :
    Host.Outcome State Fault Refusal := runWord (.wfeFull a) s (planNear false) [] (wfeBody true)

/-- `wfe.empty` (07 R145). -/
def execWfeEmpty (a : Opnd) (s : State) :
    Host.Outcome State Fault Refusal := runWord (.wfeEmpty a) s (planNear false) [] (wfeBody false)

/-- `shld` (04 R86). -/
def execShld (e : Bool) (h : BitVec 4) (a : Opnd) (s : State) :
    Host.Outcome State Fault Refusal := runWord (.shld e h a) s planA [] (shldBody h.toNat)

/-- `shst` (04 R86). -/
def execShst (e : Bool) (h : BitVec 4) (a : Opnd) (s : State) :
    Host.Outcome State Fault Refusal := runWord (.shst e h a) s planA [] (shstBody h.toNat)

/-- `shset` (04 R86). -/
def execShset (e : Bool) (k : BitVec 4) (h : BitVec 4) (a : Opnd) (s : State) :
    Host.Outcome State Fault Refusal := runWord (.shset e k h a) s planA [] (shsetBody k.toNat h.toNat)

end Sys2Proof.Machine
end

