-- ==== Sys2Proof/Machine/Registers.lean ====
section
/-! DEFINITION. The register instructions (08 R154 to R164): `xacq`, `xrel`, `rtag`, `rdrop`, `rfree`, `seal` and
`unseal`. -/

namespace Sys2Proof.Machine

/-- The registers of an extended unit. -/
def unitMask (k : Nat) : BitVec 128 := (0xFFFFFFFF : BitVec 128) <<< (32 * k)

/-- Release a unit (08 R155): its tagged registers are dropped, its contents are lost, its frame returns. -/
def releaseUnit (s : State) (g : Group) (k : Nat) : State :=
  let g := { g with
    dropped := g.dropped ||| (g.tagged &&& unitMask k)
    held := g.held &&& ~~~((1 : BitVec 4) <<< k)
    v := cellClear g.v ((64 + 32 * k) * 64) (32 * 64) }
  returnFrame (setGroup s g) (whoOf s g).phys

/-- Another group of the core has asked for a pool frame before (08 R151). -/
def frameQueued (s : State) (core : Nat) (self : Nat) : Bool :=
  (coreGroups s core).any (fun g => g.id != self &&
    (match g.wait with | some (.unit _) => true | some .split => true | some (.replay _) => true | _ => false))

/-- `xacq` (08 R155). -/
def xacqBody (k : Nat) (x : Issue) : Except Stop Done :=
  let core := (whoOf x.s x.g).phys
  if x.g.held.getLsbD k then .ok (.ok x.s)
  else if 0 < poolFree x.s core && !frameQueued x.s core x.g.id then .ok (.ok (setGroup x.s (holdUnit x.g k)))
  else .error (.wait (.unit k))

/-- `xrel` (08 R155). -/
def xrelBody (k : Nat) (x : Issue) : Except Stop Done :=
  if x.g.held.getLsbD k then .ok (.ok (releaseUnit x.s x.g k)) else .ok (.ok x.s)

/-- The register code that `rtag`, `rdrop` and `rfree` name. -/
def targetOf (x : Issue) : Nat := destReg x.i.form.d

/-- `rdrop` (08 R156). -/
def rdropBody (x : Issue) : Except Stop Done :=
  let c := targetOf x
  let k := unitOf c
  if !isTagged x.g c then .error (.flt (fault 0x08 8))
  else
    let g := { x.g with dropped := x.g.dropped ||| extBit c, v := cellClear x.g.v (c * 64) 64 }
    let kept := g.written &&& ~~~g.dropped &&& unitMask k
    if g.held.getLsbD k && kept == 0 then .ok (.ok (releaseUnit x.s g k)) else .ok (.ok (setGroup x.s g))

/-- `rfree` (08 R157). -/
def rfreeBody (x : Issue) : Except Stop Done :=
  let c := targetOf x
  if !isTagged x.g c then .ok (.ok x.s)
  else if frozenBy x.g c then .error (.flt (fault 0x07 c))
  else
    let (s, g) := endRecipe x.s x.g c
    .ok (.ok (setGroup s g))

/-! ### `rtag` (08 R158) -/

/-- The words that precede a word in its run, the latest first: a queued word has been counted itself, with those after
it. -/
def wordsBefore (x : Issue) : List Word := if x.fresh then x.g.runWords else x.g.runWords.drop x.g.rq.length

/-- Check 2: a legal operation of a recipe. -/
def recipeOp (w : Word) : Bool :=
  let op := (w.extractLsb' 26 6).toNat
  match instrOf w with
  | none => false
  | some (.mkna ..) => false
  | some _ => (decide (1 ≤ op) && decide (op ≤ 0x0E)) || [0x11, 0x38, 0x1A, 0x1B, 0x1C, 0x1E, 0x32, 0x14].contains op

/-- Check 3: words before the last are transient; the last writes X as one 32-bit vector register. -/
def recipeForm (c : Nat) (mode : BitVec 25) (last : Bool) (w : Word) : Bool :=
  match instrOf w with
  | none => false
  | some i =>
    if last then !i.form.t && isV i.form.d && destReg i.form.d == c && ((modeType mode true).map Ty.width).getD 64 != 64
    else i.form.t

/-- Check 4 for one register: a base register, a scalar register, or the target of a recipe without targets among its own
sources. -/
def recipeSource (g : Group) (self c : Nat) : Bool :=
  if isExt c then c != self && (match g.recipes.find? (·.target == c) with | some r => !r.depth | none => false)
  else true

/-- Check 4 for the latches of word j (from 0): a latch holds the result of an earlier word of the same n. -/
def recipeLatches (j : Nat) (w : Word) : Bool :=
  match instrOf w with
  | none => false
  | some i => [i.form.d, i.form.a, i.form.b].all (fun f => match f with | some (_, .b n) => decide (n.val < j) | _ => true)

/-- The lowest valid seal entry that the group can see and that holds `n` bytes at a near address. -/
def sealOver (s : State) (w : Who) (a n : Nat) : Option Nat :=
  match getCtx s w.ctx with
  | none => none
  | some c =>
    let y := nearCanon w.core a
    (c.seals.find? (fun e => (decide (y ≥ 0x80000000) || e.team == w.team) && decide (e.start ≤ y) &&
      decide (y + n ≤ e.start + e.size))).map (·.index)

/-- Check 6 for one `ld`: the seal entries that it reaches; none when the check fails. -/
def recipeSeals (s : State) (g : Group) (w : Word) : Option (List Nat) :=
  match instrOf w with
  | some (.ld _ _ d a b) =>
    let isB (o : Opnd) : Bool := match o with | .b _ => true | _ => false
    let vec := [d, a, b].any (fun o => match o with | .v _ => true | _ => false)
    let t := typeOf g.mode vec
    if isB a || isB b then none
    else
      (if vec then lanesOf (emSet g) g.width else [0]).foldl (fun acc i =>
        match acc with
        | none => none
        | some l =>
          (match nearAddr (recipeOpnd g [] na64 true a i) (recipeOpnd g [] (2 ^ 31) false b i) with
           | none => some l
           | some y =>
             if y < 0 || y ≥ 2 ^ 32 then none
             else
               (match sealOver s (whoOf s g) y.toNat (t.width / 8) with
                | some k => some (insertNat k l)
                | none => none))) (some [])
  | _ => some []

/-- The first number below `n` that satisfies a predicate. -/
def lowest (n : Nat) (p : Nat → Bool) : Option Nat := (List.range n).find? p

/-- `rtag` (08 R158). -/
def rtagBody (n : Nat) (x : Issue) : Except Stop Done :=
  let c := targetOf x
  let g := x.g
  let before := wordsBefore x
  let ws := (before.take n).reverse
  let refuse (k : Nat) : Except Stop Done := .error (.flt (fault 0x08 k))
  let mode := x.e.mode
  let sources := (ws.map (fun w => wordSources w mode)).flatten
  let sealLists := ws.map (recipeSeals x.s { g with mode := mode })
  let live := (coreGroups x.s (whoOf x.s g).phys).foldl (fun k y => k + y.recipes.length) 0
  if before.length < n then refuse 1
  else if !(ws.all recipeOp) then refuse 2
  else if !((ws.zipIdx).all (fun w => recipeForm c mode (w.2 + 1 == n) w.1)) then refuse 3
  else if !(sources.all (recipeSource g c)) || !((ws.zipIdx).all (fun w => recipeLatches w.2 w.1)) then refuse 4
  else if modeField mode 11 3 == 6 || mode.getLsbD 8 then refuse 5
  else if sealLists.any (·.isNone) then refuse 6
  else
    match lowest 256 (fun k => !(g.recipes.any (·.index == k))) with
    | none => refuse 7
    | some k =>
      if 256 ≤ live then refuse 7
      else
        let seals := sortNats ((sealLists.map (·.getD [])).flatten)
        let r : Recipe := { index := k, words := ws, mode := mode, em := emSet g, target := c,
                            depth := sources.any isExt, seals := seals }
        let s := modCtx x.s (whoOf x.s g).ctx (fun y => { y with seals := y.seals.map (fun e =>
          if seals.contains e.index then { e with refs := e.refs + 1 } else e) })
        .ok (.ok (setGroup s { g with
          recipes := r :: g.recipes
          tagged := g.tagged ||| extBit c
          dropped := g.dropped &&& ~~~(extBit c) }))

/-! ### `seal` and `unseal` (08 R161, R162) -/

/-- The plan of `seal`: the size is in the register after `a`, captured beside it (21 R345). -/
def planSeal (x : Issue) : Plan :=
  let p := planAD x
  { p with extra := [(0xC0 + destReg x.i.form.a + 1, false)], bad := match x.i.form.a with | some (_, o) => !o.notLast | none => false }

/-- The bytes of a range are backed, in team memory or in one scratchpad window (08 R162). -/
def sealable (s : State) (w : Who) (a n : Nat) : Bool :=
  match nearWindow w.core a with
  | some (1, _, _) => false
  | some _ => (nearLoc s w a n).isSome
  | none => false

/-- The kept writes to a range of near memory, by age. -/
def writesTo (s : State) (w : Who) (a n : Nat) : List Nat :=
  match nearLoc s w a n with | some l => (s.past.filter (·.meets l n)).map (·.age) | none => []

/-- `seal` (08 R162). -/
def sealBody (x : Issue) : Except Stop Done :=
  let a := scalarA x
  let n := (cellGet x.e.slotA 1).toNat
  let w := whoOf x.s x.g
  let give (s : State) (v : Nat) : Except Stop Done :=
    .ok (.ok (putScalar s (groupNow s x) x.e x.i.form.t (destReg x.i.form.d) v))
  if a = na64 ∨ n = na64 then give x.s na64
  else if 2 ^ 32 ≤ a ∧ a < 2 ^ 63 then .error (.flt (fault 0x11 a))   -- a negative start lies in no window
  else if !sealable x.s w a n then .error (.flt (fault 0x10 a))
  else if a % 64 ≠ 0 ∨ n % 64 ≠ 0 ∨ n = 0 then .error (.flt (fault 0x12 a))
  else
    match getCtx x.s w.ctx with
    | none => .error (.flt (fault 0x15 a))
    | some c =>
      match lowest 64 (fun k => !(c.seals.any (·.index == k))) with
      | none => .error (.flt (fault 0x15 a))
      | some k =>
        let e : Seal := { index := k, start := nearCanon w.core a, size := n, team := w.team, refs := 0 }
        -- the range's earlier writes are acquired (08 R164), and every reader observes them while it is sealed (R165; log 4)
        let s := acquireAges (modCtx x.s w.ctx (fun c => { c with seals := c.seals ++ [e] })) x.g.id (writesTo x.s w a n)
        give (match nearLoc s w a n with | some l => settleRange s l n | none => s) k

/-- `unseal` (08 R162). -/
def unsealBody (x : Issue) : Except Stop Done :=
  let k := scalarA x
  let w := whoOf x.s x.g
  if k = na64 then .ok (.ok x.s)
  else
    match (getCtx x.s w.ctx).bind (fun c => c.seals.find? (·.index == k)) with
    | none => .error (.flt (fault 0x15 k))
    | some e =>
      if e.refs ≠ 0 || !(decide (e.start ≥ 0x80000000) || e.team == w.team) then .error (.flt (fault 0x15 k))
      else .ok (.ok (modCtx x.s w.ctx (fun c => { c with seals := (c.seals.filter (·.index != k)) })))

/-- The plan of a word without register operands. -/
def planNo (_ : Issue) : Plan := {}

/-- `xacq` (08 R155). -/
def execXacq (u : BitVec 2) (s : State) :
    Host.Outcome State Fault Refusal := runWord (.xacq u) s planNo [] (xacqBody u.toNat)

/-- `xrel` (08 R155). -/
def execXrel (e : Bool) (u : BitVec 2) (s : State) :
    Host.Outcome State Fault Refusal := runWord (.xrel e u) s planNo [] (xrelBody u.toNat)

/-- `rtag` (08 R158). -/
def execRtag (e : Bool) (d : Opnd) (c : BitVec 3) (s : State) :
    Host.Outcome State Fault Refusal := runWord (.rtag e d c) s planNo [] (rtagBody c.toNat)

/-- `rdrop` (08 R156). -/
def execRdrop (e : Bool) (d : Opnd) (s : State) :
    Host.Outcome State Fault Refusal := runWord (.rdrop e d) s planNo [] rdropBody

/-- `rfree` (08 R157). -/
def execRfree (e : Bool) (d : Opnd) (s : State) :
    Host.Outcome State Fault Refusal := runWord (.rfree e d) s planNo [] rfreeBody

/-- `seal` (08 R162). -/
def execSealRange (e : Bool) (t : Bool) (d : Opnd) (a : Opnd) (s : State) :
    Host.Outcome State Fault Refusal := runWord (.sealRange e t d a) s planSeal [.upper 0] sealBody

/-- `unseal` (08 R162). -/
def execUnsealRange (e : Bool) (a : Opnd) (s : State) :
    Host.Outcome State Fault Refusal := runWord (.unsealRange e a) s planA [] unsealBody

end Sys2Proof.Machine
end

