-- ==== Sys2Proof/Machine/Control.lean ====
section
/-! DEFINITION. Control flow (14): uniform operands, branches, calls and jumps, the three-armed conditional, `exit`, and the
changes of width, `fuse` and `split`. -/

namespace Sys2Proof.Machine

/-! ### Uniform operands (14 R284) -/

/-- What a uniform operand gives: a present value; nothing, so that the instruction is a no-op; or a mix, which raises
0x03. -/
inductive Uni where
  | val (n : Nat)
  | noop
  | mixed
  deriving DecidableEq, Repr

/-- The value that every lane of a list shares. -/
def uniVals (na : Nat) : List Nat → Uni
  | [] => .noop
  | x :: xs => if xs.all (· == x) then (if x = na then .noop else .val x) else .mixed

/-- A uniform operand of `w` bits over a set of lanes. -/
def uniform (x : Issue) (f : Option (Role × Opnd)) (m : Cells 64) (w : Nat) (lanes : BitVec 64) : Uni :=
  uniVals (2 ^ (w - 1)) (if x.e.vec then (lanesOf lanes x.g.width).map (srcVal x.e f m (.raw w)) else [srcVal x.e f m (.raw w) 0])

/-- The plan of a word whose `a` is a uniform 64-bit operand, over lanes of `em`. -/
def planUniA (x : Issue) : Plan :=
  let f := x.i.form
  { vec := kindOf x, readA := f.a.isSome, pairA := kindOf x, naA := na64, active := emSet x.g
    writes := if f.t || !isS f.d then [] else [0xC0 + destReg f.d] }

/-! ### Control words (14 R275 to R281) -/

/-- The plan of a control word that reads a condition register in the lanes of `em`. -/
def planQ (q : Nat) (x : Issue) : Plan := { active := emSet x.g, cond0 := cellGet x.g.q q }

/-- The lanes of a set in which a condition has a value. -/
def lanesWith (q : BitVec 128) (m : BitVec 64) (width : Nat) (c : Cond) : BitVec 64 :=
  laneSet width (fun i => m.getLsbD i && condRead (condAt q i) == c)

/-- A target: the word's address plus 4 × offset (03 R49), as a 64-bit address. -/
def targetAt (x : Issue) (off : Int) : Nat := ((x.e.addr.toNat : Int) + 4 * off).toNat % 2 ^ 64

/-- Whether `bra` is taken (14 R280). -/
def braTaken (c : Nat) (q : BitVec 128) (lanes : List Nat) : Bool :=
  let has (v : Cond) : Bool := lanes.any (fun i => condRead (condAt q i) == v)
  match c with
  | 0 => has condT
  | 1 => lanes.all (fun i => condRead (condAt q i) == condT)
  | 2 => !has condT
  | 3 => has condU
  | 4 => !has condU
  | 5 => has condF
  | _ => true

/-- `bra` (14 R280). -/
def braBody (c : Nat) (off : Int) (x : Issue) : Except Stop Done :=
  if braTaken c x.e.cond0 (lanesOf x.e.active x.g.width) then .ok (.go x.s (targetAt x off)) else .ok (.ok x.s)

/-- `call` writes `lk`, outside the latches (14 R281). -/
def callBody (off : Int) (x : Issue) : Except Stop Done :=
  .ok (.go (putPlain x.s x.g 55 (x.e.addr.toNat + 4)) (targetAt x off))

/-- `jmp` (14 R281). -/
def jmpBody (x : Issue) : Except Stop Done :=
  match uniform x x.i.form.a x.e.slotA 64 x.e.active with
  | .noop => .ok (.ok x.s)
  | .mixed => .error (.flt (fault 0x03))
  | .val a =>
    if !isMain a then .error (.flt (fault 0x15 a))
    else if a % 4 ≠ 0 then .error (.flt (fault 0x12 a))
    else .ok (.go x.s a)

/-- A predicate-stack entry (14 R274). -/
def stackEntry (em els unk : BitVec 64) (arm disp : Nat) : BitVec 256 :=
  (em.setWidth 256 <<< 192) ||| (els.setWidth 256 <<< 128) ||| (unk.setWidth 256 <<< 64) |||
  BitVec.ofNat 256 (4 * arm + disp)

def entryEm (p : BitVec 256) : BitVec 64 := p.extractLsb' 192 64
def entryElse (p : BitVec 256) : BitVec 64 := p.extractLsb' 128 64
def entryUnk (p : BitVec 256) : BitVec 64 := p.extractLsb' 64 64

/-- An entry with its arm replaced. -/
def withArm (p : BitVec 256) (arm : Nat) : BitVec 256 := (p &&& ~~~(12 : BitVec 256)) ||| BitVec.ofNat 256 (4 * arm)

/-- A set of lanes as `em` holds it: bits at or above the width read as zero (14 R274). -/
def clipLanes (g : Group) (m : BitVec 64) : BitVec 64 := laneSet g.width (fun i => m.getLsbD i)

/-- The innermost conditional's arm becomes `k`; and the conditional is left (14 R279). A predicate stack that a handler has
made deeper holds conditionals that the record of arms does not know. -/
def enterArm (g : Group) (k : Nat) : List (Nat × Nat) :=
  if g.arms.length = g.stack.length then (match g.arms with | a :: l => (a.1, k) :: l | [] => []) else g.arms
def leaveArm (g : Group) : List (Nat × Nat) := if g.arms.length = g.stack.length then g.arms.drop 1 else g.arms

/-- Take an arm's lanes; with none, branch. -/
def takeArm (x : Issue) (g : Group) (off : Int) : Except Stop Done :=
  let s := setGroup x.s g
  if g.em = 0 then .ok (.go s (targetAt x off)) else .ok (.ok s)

/-- `ift` (14 R277). -/
def iftBody (disp : Nat) (off : Int) (x : Issue) : Except Stop Done :=
  if 16 ≤ x.g.stack.length then .error (.flt (fault 0x05))
  else
    let tset := lanesWith x.e.cond0 x.e.active x.g.width condT
    let fset := lanesWith x.e.cond0 x.e.active x.g.width condF
    let uset := lanesWith x.e.cond0 x.e.active x.g.width condU
    let thn := if disp = 1 then tset ||| uset else tset
    let els := if disp = 2 then fset ||| uset else fset
    let unk := if disp = 0 then uset else 0
    takeArm x { x.g with
      stack := stackEntry x.g.em els unk 0 disp :: x.g.stack, em := thn
      arms := (x.g.ifts, 0) :: x.g.arms, ifts := x.g.ifts + 1 } off

/-- `els` and `uarm` (14 R278). -/
def armBody (arm : Nat) (off : Int) (x : Issue) : Except Stop Done :=
  match x.g.stack with
  | [] => .error (.flt (fault 0x06))
  | p :: ps =>
    takeArm x { x.g with
      stack := withArm p arm :: ps, em := clipLanes x.g (if arm = 1 then entryElse p else entryUnk p)
      arms := enterArm x.g arm } off

/-- `endif` (14 R278). -/
def endifBody (x : Issue) : Except Stop Done :=
  match x.g.stack with
  | [] => .error (.flt (fault 0x06))
  | p :: ps => .ok (.ok (setGroup x.s { x.g with stack := ps, em := clipLanes x.g (entryEm p), arms := leaveArm x.g }))

/-- The collective-diverged fault (14 R283). -/
def diverged (g : Group) : Option FaultInfo := if g.stack = [] then none else some (fault 0x04 g.stack.length)

/-- The plan of a word without operands that is collective over the group. -/
def planCollective (x : Issue) : Plan := { own := diverged x.g }

/-- `exit` (14 R282). -/
def exitBody (x : Issue) : Except Stop Done := .ok (.gone (retireGroup x.s x.g))

/-! ### Changing width (14 R285 to R289) -/

/-- The sibling that the top entry of a record names: the index, if the entry is valid and its sibling has not retired. -/
def topSibling (g : Group) : Option Nat :=
  if g.sibling.getLsbD 7 && !g.sibRetired.getLsbD 0 then some (g.sibling.extractLsb' 0 4).toNat else none

/-- The group is the upper half of its pair. -/
def isUpper (g : Group) : Bool := g.sibling.getLsbD 6

/-- The lanes of two halves side by side: keys register × 64 + lane. -/
def joinLanes (w : Nat) (l u : Cells 32) : Cells 32 :=
  let low (m : Cells 32) : Cells 32 := m.filter (fun e => decide (e.1 % 64 < w))
  cellSetAll (low l) (((low u).map (fun e => (e.1 + w, e.2))).reverse)

/-- The condition registers of two halves. -/
def joinConds (w : Nat) (l u : Cells 128) : Cells 128 :=
  cellsOf 128 8 (fun k => (cellGet l k).toNat % 2 ^ (2 * w) + 2 ^ (2 * w) * (cellGet u k).toNat)

/-- The fused group of a lower and an upper half (14 R287). -/
def fused (l u : Group) : Group :=
  let w := l.width
  { l with
    width := 2 * w
    v := joinLanes w l.v u.v
    q := joinConds w l.q u.q
    em := BitVec.ofNat 64 (l.em.toNat % 2 ^ w + 2 ^ w * u.em.toNat)
    rng := joinLanes w l.rng u.rng
    badRegs := l.badRegs ++ (u.badRegs.filter (fun b => decide (b.1 < 192))).map (fun b => (b.1, b.2 + w))
    held := l.held ||| u.held
    written := l.written ||| u.written
    stack := []
    sibling := l.sibling >>> 8
    sibRetired := l.sibRetired >>> 1
    wait := none
    unfinished := [] }

/-- The outstanding operations of a group become another's: a fused group's earlier operations are those of both halves. -/
def takeOver (s : State) (core old new : Nat) : State :=
  let s := { s with ops := s.ops.map (fun (o : EngineOp) => if o.group = old then { o with group := new } else o) }
  modCore s core (fun c => { c with matrix := c.matrix.map (fun o => if o.group = old then { o with group := new } else o) })

/-- Put a fused group in place of its halves: the upper half's index, residency slot and spill window are freed. The accesses of
both are ordered before its own (14 R289). -/
def fuseGroups (s : State) (a b : Group) : State :=
  let l := if isUpper a then b else a
  let u := if isUpper a then a else b
  let g := { fused (endRun l) u with acquired := acquiredToo (atEnd (l.acquired ++ u.acquired)) [] (groupCarries s u), arms := [] }
  let core := (whoOf s l).phys
  let s := setGroup { s with groups := s.groups.filter (·.id != u.id) } g
  let s := takeOver s core u.id l.id
  let s := if groupFrames g < groupFrames l + groupFrames u then returnFrame s core else s
  modTeam s l.team (fun t => { t with live := (t.live.filter (· != u.id)), barriers := t.barriers.map (barrierLess u.id) })

/-- The group that waits in `fuse` for a group. -/
def fusePartner (s : State) (g : Group) : Option Group :=
  match topSibling g with
  | none => none
  | some k => s.groups.find? (fun o => o.team == g.team && o.index == k)

/-- The plan of `fuse`. There is no group of 128 lanes (01 R19), so a 64-lane group's `fuse` is no legal word (DEDUCED, log 45). -/
def planFuse (x : Issue) : Plan := { bad := decide (x.g.width = 64), own := diverged x.g }

/-- `fuse` (14 R287). -/
def fuseBody (x : Issue) : Except Stop Done :=
  if x.g.recipes ≠ [] then .error (.flt (fault 0x08 9))
  else
    match fusePartner x.s x.g with
    | none => .error (.flt (fault 0x04 0))
    | some o =>
      if o.wait = some .fuse ∧ topSibling o = some x.g.index then
        .ok (.gone (fuseGroups x.s (advance x x.g) { o with rq := o.rq.drop 1 }))
      else .error (.wait .fuse)

/-- The lanes from `lo` to `lo + w - 1` of every register, as lanes 0 to w − 1. -/
def takeLanes (lo w : Nat) (m : Cells 32) : Cells 32 :=
  (m.filter (fun e => decide (lo ≤ e.1 % 64) && decide (e.1 % 64 < lo + w))).map (fun e => (e.1 - lo, e.2))

/-- One half of a group (14 R288). -/
def half (g : Group) (lo : Nat) : Group :=
  let w := g.width / 2
  { g with
    width := w
    v := takeLanes lo w g.v
    rng := takeLanes lo w g.rng
    badRegs := (g.badRegs.filter (fun b => decide (192 ≤ b.1) || (decide (lo ≤ b.2) && decide (b.2 < lo + w)))).map
      (fun b => if b.1 < 192 then (b.1, b.2 - lo) else b)
    q := cellsOf 128 8 (fun k => (cellGet g.q k).toNat / 2 ^ (2 * lo) % 2 ^ (2 * w))
    em := BitVec.ofNat 64 (g.em.toNat / 2 ^ lo % 2 ^ w) }

/-- Push a sibling entry. -/
def pushSibling (g : Group) (idx : Nat) (upper : Bool) : Group :=
  { g with sibling := (g.sibling <<< 8) ||| BitVec.ofNat 32 (0x80 + (if upper then 0x40 else 0) + idx),
           sibRetired := g.sibRetired <<< 1 }

/-- The spill windows of a context's resident groups on a virtual die: base and size (07 R137). -/
def spillWindows (s : State) (ctx die : Nat) : List (Nat × Nat) :=
  s.groups.filterMap (fun g =>
    let w := whoOf s g
    if w.ctx = ctx ∧ dieOf w.core = die ∧ g.quota ≠ 0 then some (g.spillAt, g.quota) else none)

/-- The lowest place for `n` bytes in a pool, between windows in use. -/
def gapFor (base size n : Nat) (used : List (Nat × Nat)) : Option Nat :=
  (sortNats (base :: used.map (fun w => w.1 + w.2))).find? (fun a =>
    decide (base ≤ a) && decide (a + n ≤ base + size) && used.all (fun w => decide (a + n ≤ w.1) || decide (w.1 + w.2 ≤ a)))

/-- Places for `k` windows of `n` bytes in a pool. -/
def gapsFor (base size n : Nat) : Nat → List (Nat × Nat) → Option (List Nat)
  | 0, _ => some []
  | k + 1, used =>
    match gapFor base size n used with
    | none => none
    | some a => (gapsFor base size n k ((a, n) :: used)).map (a :: ·)

/-- Where the spill pool of a virtual die gives `k` windows of `n` bytes: the lowest gaps (DESIGN CHOICE, log 40). -/
def placeSpills (s : State) (ctx die n k : Nat) : Option (List Nat) :=
  match getCtx s ctx with
  | none => none
  | some c => gapsFor (c.pool.getD die 0) c.poolSize n k (spillWindows s ctx die)

/-- The lowest group index that a team does not use, and the lowest free residency slot of a core. -/
def freeIndex (s : State) (team : Nat) : Option Nat := lowest 16 (fun k => !(s.groups.any (fun g => g.team == team && g.index == k)))
def freeSlot (s : State) (core : Nat) : Option Nat := lowest 32 (fun k => !((coreGroups s core).any (·.residency == k)))

/-- Make two halves of a group (14 R288). -/
def splitGroup (s : State) (p : Group) (d idx slot core spill : Nat) : State :=
  let (id, s) := fresh s
  let w := p.width / 2
  let p := { p with acquired := acquiredToo (atEnd p.acquired) [] (groupCarries s p), arms := [] }   -- ordered before both halves' (14 R289)
  let l := half p 0
  let l := healCodes (pushSibling { l with s := cellSet l.s d 0 } idx false) (· == 0xC0 + d)
  let u := half p w
  let sp : Cells 64 := cellSet u.s 54 (BitVec.ofNat 64 (0x4000000 + p.quota))
  let u : Group := healCodes (pushSibling { u with
    id := id, index := idx, residency := slot, spillAt := spill, s := cellSet sp d 1,
    barToken := none, lastCause := 0 } p.index true) (fun c => c == 0xC0 + d || c == 0xC0 + 54)
  let s := clearPad (setGroup s l) spill p.quota
  let s := { s with groups := s.groups ++ [u] }
  let s := if p.width = 64 then returnFrame s core else s
  modTeam s p.team (fun t => { t with live := t.live ++ [id] })

/-- The plan of `split`. -/
def planSplit (x : Issue) : Plan := { bad := decide (x.g.width = 8), own := diverged x.g }

/-- `split` (14 R288) (DEDUCED, log 44). -/
def splitBody (x : Issue) : Except Stop Done :=
  let w := whoOf x.s x.g
  if x.g.recipes ≠ [] then .error (.flt (fault 0x08 9))
  else
    match freeIndex x.s x.g.team, freeSlot x.s w.phys, placeSpills x.s w.ctx (dieOf w.core) x.g.quota 1 with
    | some idx, some slot, some [a] =>
      if 1 + bits4 x.g.held ≤ poolFree x.s w.phys && (x.g.granted || !frameQueued x.s w.phys x.g.id) then
        .ok (.gone (splitGroup x.s (endRun (advance x x.g)) (destReg x.i.form.d) idx slot w.phys a))
      else .error (.wait .split)
    | _, _, _ => .error (.flt (fault 0x0A))

/-- `bra` (14 R280). -/
def execBra (e : Bool) (c : BitVec 4) (q : BitVec 3) (x : BitVec 17) (s : State) :
    Host.Outcome State Fault Refusal := runWord (.bra e c q x) s (planQ q.toNat) [] (braBody c.toNat x.toInt)

/-- `call` (14 R281). -/
def execCall (e : Bool) (x : BitVec 24) (s : State) :
    Host.Outcome State Fault Refusal := runWord (.call e x) s (fun _ => { writes := [0xC0 + 55] }) [] (callBody x.toInt)

/-- `ift` (14 R277). -/
def execIft (e : Bool) (q : BitVec 3) (sf : BitVec 2) (x : BitVec 19) (s : State) :
    Host.Outcome State Fault Refusal := runWord (.ift e q sf x) s (planQ q.toNat) [] (iftBody sf.toNat x.toInt)

/-- `els` (14 R278). -/
def execEls (e : Bool) (x : BitVec 19) (s : State) :
    Host.Outcome State Fault Refusal := runWord (.els e x) s planNo [] (armBody 1 x.toInt)

/-- `uarm` (14 R278). -/
def execUarm (e : Bool) (x : BitVec 19) (s : State) :
    Host.Outcome State Fault Refusal := runWord (.uarm e x) s planNo [] (armBody 2 x.toInt)

/-- `endif` (14 R278). -/
def execEndif (e : Bool) (s : State) :
    Host.Outcome State Fault Refusal := runWord (.endif e) s planNo [] endifBody

/-- `jmp` (14 R281). -/
def execJmp (e : Bool) (a : Opnd) (s : State) :
    Host.Outcome State Fault Refusal := runWord (.jmp e a) s planUniA [] jmpBody

/-- `exit` (14 R282). -/
def execExit (e : Bool) (s : State) :
    Host.Outcome State Fault Refusal := runWord (.exit e) s planCollective [] exitBody

/-- `fuse` (14 R287). -/
def execFuse (s : State) :
    Host.Outcome State Fault Refusal := runWord (.fuse) s planFuse [] fuseBody

/-- `split` (14 R288). -/
def execSplit (d : Opnd) (s : State) :
    Host.Outcome State Fault Refusal := runWord (.split d) s planSplit [] splitBody

end Sys2Proof.Machine
end

