-- ==== Sys2Proof/Machine/Engine.lean ====
section
/-! DEFINITION. Engine operations, once for every engine: element accesses, running a list of element moves with its fault (06 R114 to R117), timelines (06 R126 to R130). -/

namespace Sys2Proof.Machine

/-! ### Accesses -/

/-- Why an engine's access does not go on: a fault, or a page that is not there, with the line of the access. -/
inductive EStop where
  | flt (cause : Nat)
  | park (page line : Nat)
  deriving DecidableEq, Repr

/-- On whose behalf an engine works, and the pages of its accesses that the host answered failed. -/
structure Eng where
  who : Who
  failed : List Nat := []
  view : Option View := none       -- what it observes: every write so far, where there is none
  writer : Writer := {}

/-- The bytes at a location as an engine sees them. -/
def Eng.see (e : Eng) (s : State) (l : Loc) (n : Nat) : Nat :=
  match e.view with | some v => locSeen s v l n | none => locGet s l n

/-- A main access of `n` bytes by an engine (04 R67, R71, 06 R117). -/
def engMain (s : State) (e : Eng) (a : Int) (al : Nat) (p : Perm) : EStop ⊕ Nat :=
  if a < 2 ^ 32 ∨ a ≥ 2 ^ 57 then .inl (.flt 0x15)
  else if a.toNat % al ≠ 0 then .inl (.flt 0x12)
  else match mainAcc s e.who.ctx a.toNat p with
    | .ok phys => .inr phys
    | .flt c => .inl (.flt c)
    | .park pg => if e.failed.contains pg then .inl (.flt 0x14) else .inl (.park pg (a.toNat / 64))

/-- A near access by an engine: an address of 2^32 or above counts as out of range (06 R117). -/
def engNear (s : State) (e : Eng) (a : Int) (n al : Nat) : Option Nat :=
  match nearFault s e.who a n al with
  | some 0x11 => some 0x10
  | f => f

/-- Read `n` bytes at an address of a near or main base; an uncorrectable error stops it (06 R117, 21 R361). -/
def engRead (s : State) (e : Eng) (near : Bool) (a : Int) (n al : Nat) : EStop ⊕ (Nat × State) :=
  if near then
    match engNear s e a n al with
    | some c => .inl (.flt c)
    | none => if nearBad s e.who false a.toNat n then .inl (.flt 0x50)
      else .inr ((match nearLoc s e.who a.toNat n with | some l => e.see s l n | none => 0), s)
  else match engMain s e a al .read with
    | .inl x => .inl x
    | .inr p => if physBad s false p n then .inl (.flt 0x50) else .inr (e.see s (.phys p) n, bumpAccess s p)

/-- Write `n` bytes at an address of a near or main base; a sealed range refuses (08 R162), and so does a part with an error
that they do not cover. -/
def engWrite (s : State) (e : Eng) (near : Bool) (a : Int) (n al x : Nat) : EStop ⊕ State :=
  if near then
    match engNear s e a n al with
    | some c => .inl (.flt c)
    | none =>
      if sealHit s e.who a.toNat n then .inl (.flt 0x13)
      else if nearBad s e.who true a.toNat n then .inl (.flt 0x50)
      else .inr (nearStore s e.who e.writer a.toNat n x)
  else match engMain s e a al .write with
    | .inl y => .inl y
    | .inr p => if physBad s true p n then .inl (.flt 0x50) else .inr (bumpAccess (locStore s e.writer (.phys p) n x) p)

/-- A value's bytes cut where a page ends (04 R67: 64 KiB at least). -/
def pageCuts (a n : Nat) : List (Nat × Nat) :=
  let k := 65536 - a % 65536
  if n ≤ k then [(a, n)] else [(a, k), (a + k, n - k)]

/-- Read a value at any place: one read, in one page or two. -/
def engReadAny (s : State) (e : Eng) (near : Bool) (a n : Nat) : EStop ⊕ (Nat × State) :=
  (pageCuts a n).foldl (fun acc c =>
    match acc with
    | .inl x => .inl x
    | .inr (v, s) =>
      (match engRead s e near (Int.ofNat c.1) c.2 1 with
       | .inl x => .inl x
       | .inr (b, s) => .inr (v + b * 256 ^ (c.1 - a), s))) (.inr (0, s))

/-- Write a value at any place: one write, in one page or two. -/
def engWriteAny (s : State) (e : Eng) (near : Bool) (a n x : Nat) : EStop ⊕ State :=
  match (pageCuts a n).foldl (fun (acc : EStop ⊕ State) c =>
    match acc with
    | .inl y => .inl y
    | .inr s => engWrite s e near (Int.ofNat c.1) c.2 1 (x / 256 ^ (c.1 - a))) (.inr s) with
  | .inl y => .inl y
  | .inr t => .inr (asOneWrite s t)

/-- An element as it is read: a code, perhaps a fill of the out-of-bounds policy, or a class 2 code with its scale. -/
inductive Elem where
  | code (x : Nat) (fill : Bool)
  | scaled (x scale : Nat)
  deriving DecidableEq, Repr

/-- The number of 1 bits of `x` below bit `p`. -/
def popBelow (x p : Nat) : Nat := (List.range p).foldl (fun k i => k + x / 2 ^ i % 2) 0

/-- Row-major row index over dimensions 1 to 3 (04 R80, R81). -/
def Shape.rowOf (h : Shape) (l : List Int) : Nat :=
  let c (d : Nat) : Nat := (l.getD d 0).toNat
  (c 3 * h.extAt 2 + c 2) * h.extAt 1 + c 1

/-- Read an element of class 3 (04 R81). -/
def readRun (s : State) (e : Eng) (h : Shape) (l : List Int) : EStop ⊕ (Elem × State) :=
  let c0 := (l.getD 0 0).toNat
  let q := h.rowOf l * ((h.extAt 0 + 31) / 32) + c0 / 32
  match engRead s e h.near (Int.ofNat (h.base + h.aux + 4 * q)) 4 4 with
  | .inl x => .inl x
  | .inr (dir, s) =>
    if dir = 0xFFFFFFFF then .inr (.code h.ty.na false, s)
    else match engRead s e h.near (Int.ofNat (h.base + dir)) 4 4 with
      | .inl x => .inl x
      | .inr (bits, s) =>
        if bits / 2 ^ (c0 % 32) % 2 = 0 then .inr (.code h.ty.na false, s)
        else
          match engReadAny s e h.near (h.base + dir + 4 + popBelow bits (c0 % 32) * h.bytes) h.bytes with
          | .inl x => .inl x
          | .inr (v, s) => .inr (.code v false, s)

/-- The index of an element's scale byte in class 2 (04 R80). -/
def Shape.scaleIndex (h : Shape) (l : List Int) : Nat :=
  let c (d : Nat) : Nat := (l.getD d 0).toNat
  let e (d : Nat) : Nat := if d < h.rank then h.extAt d else 0
  ((c 3 * (if 2 < h.rank then e 2 else 0) + c 2) * ((e 1 + 31) / 32) + c 1 / 32) * ((e 0 + 31) / 32) + c 0 / 32

/-- Read an element of a record of class 0, 2 or 3 (04 R77, R80, R81). -/
def readElem (s : State) (e : Eng) (h : Shape) (c : List Coord) : EStop ⊕ (Elem × State) :=
  match h.locate c, h.clamped c with
  | some a, some l =>
    if h.cls = 3 then readRun s e h l
    else match engRead s e h.near a h.bytes h.bytes with
      | .inl x => .inl x
      | .inr (v, s) =>
        if h.cls = 2 then
          match engRead s e h.near (Int.ofNat (h.base + h.aux + h.scaleIndex l)) 1 1 with
          | .inl x => .inl x
          | .inr (k, s) => .inr (.scaled v k, s)
        else .inr (.code v false, s)
  | _, _ => .inr (.code h.fill true, s)

/-- The rounding that an engine uses: stochastic rounding is replaced by nearest-even (06 R114). -/
def engMode (m : BitVec 25) : RMode :=
  let r := roundMode m
  if r.rm = 6 then { r with rm := 0 } else r

/-- An element converted to a destination type (06 R114). A block-scaled element is its exact value, rounded, a subnormal code
too under the flush bit (DEDUCED, log 62); where a raw type meets a scale, the spec states no value: free (DESIGN CHOICE, log
20). -/
def convElem (f t : Ty) (m : RMode) (x : Elem) : LRes :=
  match x with
  | .code x fill =>
    let r := convert f t m 0 x
    if fill then { r with absent := !t.present r.code } else r
  | .scaled x k =>
    if f.isRaw || t.isRaw then
      (if k = 0 then { code := if t.isRaw then (if f.isRaw then 0 else f.na % 2 ^ t.width) else t.na, absent := t.isTyped, s := 0 }
       else { code := Config.freeElement 7 (x * 256 + k) (f.width * 256 + t.width) % 2 ^ t.width, s := 0 })
    else if k = 0 then { code := t.na, absent := true, s := 0 }
    else
      match valOf f false x with
      | .na => { code := t.na, absent := true, s := 0 }
      | v =>
        if k = 0xFF then deliver t m 0 .nan
        else match v with
          | .fin neg n d =>
            deliver t m 0 (if 127 ≤ k then .fin neg (n * 2 ^ (k - 127)) d else .fin neg n (d * 2 ^ (127 - k)))
          | v => deliver t m 0 v

/-- What moving an element gives: its events, and the near address that it wrote. -/
abbrev Moved := EStop ⊕ (State × Events × Option Nat)

/-- Write an element; where nothing is located it is discarded and counted (04 R77). -/
def writeElem (s : State) (e : Eng) (h : Shape) (c : List Coord) (x : Nat) : Moved :=
  match h.target c with
  | none => .inr (s, { discard := 1 }, none)
  | some a => match engWrite s e h.near a h.bytes h.bytes x with
    | .inl y => .inl y
    | .inr s => .inr (s, {}, if h.near then some a.toNat else none)

/-! ### Running an operation (06 R114 to R117, 04 R71, R72) -/

/-- How far an operation's elements have come: the first not begun, those below it that wait for pages, with the pages and
lines; the element that failed with its cause; the near addresses written. `stuck` once no further element is begun. -/
structure Run where
  s : State
  ev : Events := {}
  failed : Option (Nat × Nat) := none
  next : Nat := 0
  pending : List Nat := []
  pages : List Nat := []
  lines : List Nat := []
  wrote : List (Nat × Nat) := []
  stuck : Bool := false

/-- Element k is done. -/
def Run.done (r : Run) (k : Nat) (x : State × Events × Option Nat) : Run :=
  { r with s := x.1, ev := r.ev.plus x.2.1, next := max r.next (k + 1)
           wrote := match x.2.2 with | some a => (k, a) :: r.wrote | none => r.wrote }

/-- Element k waits. -/
def Run.waits (r : Run) (k : Nat) : Run := { r with pending := r.pending ++ [k], next := max r.next (k + 1) }

/-- No element is begun from here on; one that waited goes on waiting. -/
def Run.halt (r : Run) (k : Nat) : Run := { (if k < r.next then r.waits k else r) with stuck := true }

/-- Element k fails with a cause, once every element below it is done. -/
def Run.fails (r : Run) (k c : Nat) : Run := if r.pending.isEmpty then { r with failed := some (k, c) } else r.halt k

/-- Add to a list without repeats. -/
def addNew (l : List Nat) (x : Nat) : List Nat := if l.contains x then l else l ++ [x]

/-- Element k waits for a page: with an entry for its line, of which an operation holds 64 at most (04 R72). -/
def Run.parks (r : Run) (k page line : Nat) : Run :=
  let lines := addNew r.lines line
  if 64 < lines.length then r.halt k else { r.waits k with pages := addNew r.pages page, lines := lines }

/-- Move one element: `f` gives its effect, `dest` the place it writes. An element behind another of its place that waits
waits too. Once an element has failed, each later one is written or not (06 R117, DESIGN CHOICE, log 10). -/
def runOne (op : Nat) (stopAt : Option (Nat × Nat)) (f : Nat → State → Moved) (dest : Nat → State → Option Int) (r : Run)
    (k : Nat) : Run :=
  if r.failed.isSome then
    (if Config.landed op k then (match f k r.s with | .inr x => r.done k x | .inl _ => r) else r)
  else if r.stuck then (if k < r.next then r.waits k else r)
  else
    match stopAt.filter (·.1 == k) with
    | some x => r.fails k x.2
    | none =>
      if r.pending.any (fun j => (dest k r.s).isSome && dest j r.s == dest k r.s) then r.waits k
      else match f k r.s with
        | .inr x => r.done k x
        | .inl (.flt c) => r.fails k c
        | .inl (.park p l) => r.parks k p l

/-- Move an operation's elements, in order: those that waited, and those from the first not begun to n − 1. -/
def runElems (op : EngineOp) (n : Nat) (stopAt : Option (Nat × Nat)) (f : Nat → State → Moved)
    (dest : Nat → State → Option Int) (s : State) : Run :=
  (op.pending ++ (List.range (n - op.next)).map (· + op.next)).foldl (runOne op.id stopAt f dest)
    { s := s, next := op.next, wrote := op.wrote }

/-- Set the full bit of a granule that an operation of an engine wrote: it releases that operation's writes there alone (06 R115, 07
R149; DEDUCED, log 70). -/
def fillGranule (s : State) (w : Who) (by_ : Writer) (a : Nat) : State :=
  match nearLoc s w a 1 with
  | none => s
  | some l =>
    let k := l.granule
    let mine := s.past.filter (fun r => by_.made r && r.meets k 16)
    replaceAt (feSet s l true) (.granule k) (mine.map (·.age))

/-- Set full bits (06 R115, R117): of the granules that the operation wrote. A granule that holds a byte of the failing element
or of a later one gets none; `dest k` is the near address that element k names. -/
def fillGranules (s : State) (e : Eng) (n : Nat) (failed : Option (Nat × Nat)) (wrote : List (Nat × Nat))
    (dest : Nat → Option Int) : State :=
  let lim := match failed with | some (k, _) => k | none => n
  let granule (a : Nat) : Nat := nearCanon e.who.core a / 16
  let later := ((List.range n).filter (fun k => decide (lim ≤ k))).filterMap (fun k =>
    match dest k with | some a => if 0 ≤ a ∧ a < 2 ^ 32 then some (granule a.toNat) else none | none => none)
  let bad := later ++ (wrote.filter (fun w => decide (lim ≤ w.1))).map (fun w => granule w.2)
  wrote.foldl (fun s w => if bad.contains (granule w.2) then s else fillGranule s e.who e.writer w.2) s

/-! ### Timelines (06 R126 to R130) -/

/-- A timeline of a team. -/
def getTl (s : State) (team tl : Nat) : Timeline :=
  match getTeam s team with | some t => t.tl.getD tl {} | none => {}

def modTl (s : State) (team tl : Nat) (f : Timeline → Timeline) : State :=
  modTeam s team (fun t => { t with tl := putAt {} t.tl tl (f (t.tl.getD tl {})) })

/-- Advance `completed` over the complete operations that follow it. -/
def advanceTl : Nat → Timeline → Timeline
  | 0, t => t
  | fuel + 1, t =>
    let n := t.completed.toNat + 1
    if t.done.contains n then advanceTl fuel { t with completed := t.completed + 1, done := t.done.filter (· != n) } else t

/-- An operation completes on its timeline, perhaps with a failure (06 R127). -/
def completeTl (t : Timeline) (number : DWord) (fail : Option (DWord × BitVec 8)) : Timeline :=
  let t := { t with done := number.toNat :: t.done }
  let t := advanceTl t.done.length t
  match fail with
  | none => t
  | some (k, c) =>
    let new : TlFailure := { number := number, elem := k, cause := c }
    (match t.failure with
     | none => { t with failure := some new }
     | some old => if number.toNat < old.number.toNat then { t with failure := some new } else t)

/-- The fault of a full timeline (06 R116). -/
def tlFull (s : State) (team tl : Nat) : Option FaultInfo :=
  if (getTl s team tl).issued = 0xFFFFFFFFFFFFFFFF then some (fault 0x30 tl) else none

/-- The class of an operation's accesses (13 R257), and its bit in a mask. -/
def OpKind.cls : OpKind → AccessClass
  | .copy => .copy | .fetch => .copy | .mmav => .copy | .coll => .peer | .reform => .peer | .launch => .group
  | .luna => .luna
  | .select => .engine
def OpKind.maskBit (k : OpKind) : Nat :=
  match k.cls with | .group => maskT | .copy => maskC | .engine => maskX | .luna => maskX | .peer => maskP

/-- Issue an operation on a timeline (06 R111, R127): it takes the next number. -/
def issueOp (s : State) (g : Group) (op : EngineOp) : State :=
  let (id, s) := fresh s
  let w := whoOf s g
  let n := (getTl s g.team op.tl).issued + 1
  let s := modTl s g.team op.tl (fun t => { t with issued := n })
  { s with ops := s.ops ++ [{ op with
      id := id, context := w.ctx, team := g.team, group := g.id, core := w.core, number := n, serial := s.tick, index := g.index,
      acquired := gained g op.kind.maskBit, issueAge := s.age, arms := g.arms }] }

/-- A blank operation of a kind. -/
def blankOp (kind : OpKind) (tl : Nat) (word : Word) (mode : BitVec 25) (recs : List (BitVec 512)) (args : List DWord) :
    EngineOp :=
  { id := 0, kind := kind, context := 0, team := 0, group := 0, core := 0, tl := tl, number := 0, word := word,
    mode := mode, recs := recs, args := args }

/-- Charge an operation's events to a tensor of its grid (06 R114). -/
def chargeOp (s : State) (op : EngineOp) (tensor : Nat) (e : Events) : State :=
  match getTeam s op.team with
  | some t => charge s t.grid tensor e
  | none => s

/-- An event that `snapsel` names with a bit pulls the common trigger (25 R374, R375): 0 a timeline failure, 1 a collective
abort. -/
def pullNamed (s : State) (op : EngineOp) (bit event : Nat) : State :=
  if (snapselOf s op.context).getLsbD bit then pullTrigger s 3 event (some op.context) (getGroup s op.group) else s

/-- What an operation leaves for those that wait for its number, and for its grid's end: its writes, with what its issue ordered
before them (06 R131, 16 R299; DEDUCED, log 70). -/
def releaseOp (s : State) (op : EngineOp) : State :=
  let ages := (opView op).carried s
  let s := releaseAt s (.number op.team op.tl op.number.toNat) ages
  match getTeam s op.team with | some t => releaseAt s (.finish t.grid) ages | none => s

/-- An operation ends: its buffer entries return, its number is complete. -/
def closeOp (s : State) (op : EngineOp) (fail : Option (DWord × BitVec 8)) : State :=
  let s := giveEntries (releaseOp s op) (opDie s op) op.lines.length
  let s := { s with ops := s.ops.filter (·.id != op.id) }
  modTl s op.team op.tl (fun t => completeTl t op.number fail)

/-- An operation ends; a failure may be a snapshot's event, and an error is reported to the host (25 R382). -/
def endOp (s : State) (op : EngineOp) (fail : Option (DWord × BitVec 8)) : State :=
  match fail with
  | some (k, c) => closeOp (signalBad (pullNamed s op 0 0xFF) c) op (some (k, c))
  | none => closeOp s op none

/-- On whose behalf an operation runs. -/
def opEng (op : EngineOp) : Eng :=
  { who := { group := op.group, team := op.team, ctx := op.context, core := op.core }, failed := op.failed
    view := some (opView op), writer := { cls := op.kind.cls, group := op.group, op := op.id } }

/-- The same as it moves element k: where its own writes meet its source, it observes them or what stood there before it, for each
element (06 R131; DESIGN CHOICE, log 10). -/
def opEngAt (op : EngineOp) (k : Nat) : Eng :=
  { opEng op with view := some { opView op with blind := if Config.ownSeen op.id k then 0 else op.id } }

/-- Park an operation on pages, with an entry of its die's fault buffer for each line (04 R72): one whose pages were answered
gives up the entries that it still holds, and keeps its turn. One that cannot have them, or whose engine has another parked, asks
for them, with its progress alone. -/
def parkOp (s : State) (op : EngineOp) (pages lines : List Nat) : State :=
  let d := opDie s op
  let again := !op.lines.isEmpty
  let serial := if again then op.serial else s.tick
  let s := giveEntries s d op.lines.length
  if (getDie s d).buffered + lines.length ≤ 4096 ∧ (again || !bufferQueued s d) ∧ !engineParked s op then
    setOp (pages.foldl (fun s p => postPage s op.context p) (takeEntries s d lines.length))
      { op with parked := pages, lines := lines, asks := none, serial := s.tick }
  else setOp s { op with parked := [], lines := [], asks := some (pages, lines), serial := serial }

/-! ### The timeline instructions -/

/-- Further scalar registers of an engine instruction, captured one after another in slot `b`, which holds them all (21 R345). -/
def scalarPlaces : List Place := [.whole 1, .nth 1 1, .nth 1 2, .nth 1 3]

/-- A further scalar operand of an engine instruction. -/
def scalarK (x : Issue) (k : Nat) : Nat :=
  match scalarPlaces[k]? with
  | some p => extraVal false x.e p 0
  | none => 0

/-- Raise a recorded failure and clear it (06 R129, 21 R352). -/
def raiseFailure (x : Issue) (tl : Nat) (f : TlFailure) : Except Stop Done :=
  .error (.part (modTl x.s x.g.team tl (fun t => { t with failure := none })) x.e
    (.inl { cause := f.cause, data := f.number, elem := f.elem }))

/-- The plan of `tlbind`: the limit in `d`, the base in a further register. -/
def planTlbind (n : Nat) (x : Issue) : Plan :=
  { readD := x.i.form.d.isSome, naD := na64, extra := [(0xC0 + n, false)] }

/-- `tlbind` (06 R129). -/
def tlbindBody (tl : Nat) (x : Issue) : Except Stop Done :=
  let t := getTl x.s x.g.team tl
  let lim := scalarD x
  let base := scalarK x 0
  if t.issued ≠ t.completed then .error (.wait (.timeline tl))
  else match t.failure with
    | some f => raiseFailure x tl f
    | none =>
      .ok (.ok (modTl x.s x.g.team tl (fun t =>
        let t := if base = na64 then t
          else { t with issued := BitVec.ofNat 64 base, completed := BitVec.ofNat 64 base, done := [] }
        if lim = na64 then t else { t with limit := BitVec.ofNat 32 lim })))

/-- The plan of an engine instruction that reads one scalar `S[n]`. -/
def planOne (n : Nat) (_ : Issue) : Plan := { extra := [(0xC0 + n, false)] }

/-- What the operations numbered n or below on a timeline have left (06 R131). -/
def releasedUpTo (s : State) (team tl n : Nat) : List Nat :=
  (s.sync.filter (fun y => match y.point with
    | .number t l k => t == team && l == tl && decide (k ≤ n)
    | _ => false)).foldl (fun acc y => joinAges acc y.ages) []

/-- `tlwait` (06 R129): the group acquires what those operations have left (06 R131). -/
def tlwaitBody (tl : Nat) (x : Issue) : Except Stop Done :=
  let n := scalarK x 0
  let t := getTl x.s x.g.team tl
  if n = na64 then .ok (.ok x.s)
  else if t.completed.toNat < n then .error (.wait (.timeline tl))
  else match t.failure with
    | some f => if f.number.toNat ≤ n then raiseFailure x tl f
      else .ok (.ok (acquireAges x.s x.g.id (releasedUpTo x.s x.g.team tl n)))
    | none => .ok (.ok (acquireAges x.s x.g.id (releasedUpTo x.s x.g.team tl n)))

/-- `tlread` writes `S[d]` and `S[d+1]` (06 R130). -/
def planTlread (x : Issue) : Plan :=
  let d := destReg x.i.form.d
  { writes := [0xC0 + d, 0xC0 + d + 1] }

def tlreadBody (tl : Nat) (x : Issue) : Except Stop Done :=
  let t := getTl x.s x.g.team tl
  let d := destReg x.i.form.d
  let s := putPlain x.s x.g (d + 1) t.issued.toNat
  .ok (.ok (putScalar s (groupNow s x) x.e false d t.completed.toNat))

/-- `tlbind` (06 R129). -/
def execTlbind (d : Opnd) (l : BitVec 3) (n : BitVec 5) (s : State) :
    Host.Outcome State Fault Refusal := runWord (.tlbind d l n) s (planTlbind n.toNat) scalarPlaces (tlbindBody l.toNat)

/-- `tlwait` (06 R129). -/
def execTlwait (l : BitVec 3) (n : BitVec 5) (s : State) :
    Host.Outcome State Fault Refusal := runWord (.tlwait l n) s (planOne n.toNat) scalarPlaces (tlwaitBody l.toNat)

/-- `tlread` (06 R130). -/
def execTlread (e : Bool) (d : Opnd) (l : BitVec 3) (s : State) :
    Host.Outcome State Fault Refusal := runWord (.tlread e d l) s planTlread [] (tlreadBody l.toNat)

end Sys2Proof.Machine
end

