-- ==== Sys2Proof/Machine/Placement.lean ====
section
/-! DEFINITION. From launch record to resident team (16 R290 to R297, R305, R309, R394): the checks of a record, room on a
core, starting a team, dealing tickets, gangs, and the order in which waiting work is taken. -/

namespace Sys2Proof.Machine

/-! ### Launch records (16 R290, R291) -/

def recEntry (r : List Byte) : Nat := leAt r 0 8
def recX (r : List Byte) : Nat := leAt r 0x10 4
def recY (r : List Byte) : Nat := leAt r 0x14 4
def recZ (r : List Byte) : Nat := leAt r 0x18 4
def recTeams (r : List Byte) : Nat := recX r * recY r * recZ r
def recGroups (r : List Byte) : Nat := leAt r 0x1C 1
def recWidth (r : List Byte) : Nat := 8 * 2 ^ (leAt r 0x1D 1 % 4)
def recTiles (r : List Byte) : Nat := leAt r 0x1E 1
def recFlags (r : List Byte) : Nat := leAt r 0x1F 1
def recGang (r : List Byte) : Bool := recFlags r % 2 == 1
def recLatency (r : List Byte) : Nat := recFlags r / 2 % 4
def recPrio (r : List Byte) : Nat := recFlags r / 8 % 4
def recSerial (r : List Byte) : Bool := recFlags r / 32 % 2 == 1
def recMem (r : List Byte) : Nat := leAt r 0x20 4
def recQuota (r : List Byte) : Nat := leAt r 0x24 4
def recSeed (r : List Byte) : Nat := leAt r 0x28 4
def recPeers (r : List Byte) : Nat := leAt r 0x2C 2
def recStats (r : List Byte) : Nat := leAt r 0x38 8
def recDone (r : List Byte) : Nat := leAt r 0x40 8

/-- The shape of a team: groups, width, tiles, team memory and quota. -/
structure TeamShape where
  groups : Nat
  width : Nat
  tiles : Nat
  mem : Nat
  quota : Nat
  deriving DecidableEq, Repr

def recShape (r : List Byte) : TeamShape :=
  { groups := recGroups r, width := recWidth r, tiles := recTiles r, mem := recMem r, quota := recQuota r }

/-- The ranges that R291 asks of a team's shape, and that one team fits on an empty core. -/
def TeamShape.ok (t : TeamShape) : Bool :=
  decide (1 ≤ t.groups) && decide (t.groups ≤ 16) && decide (t.tiles ≤ 4) &&
  t.mem % 1024 == 0 && decide (t.mem ≤ 0x40000) && t.quota % 256 == 0 && decide (t.quota ≤ 0x1000000) &&
  decide (t.groups * baseFrames t.width + 1 ≤ 64)

/-- How many such teams an empty core holds (01 R16, 07 R136, 08 R151, 11 R207). -/
def TeamShape.perCore (t : TeamShape) : Nat :=
  let a := min 8 (min (32 / t.groups) (63 / (t.groups * baseFrames t.width)))
  let b := if t.mem = 0 then a else min a (0x40000 / t.mem)
  if t.tiles = 0 then b else min b (4 / t.tiles)

/-- The sets of cores of a latency class, lowest first (16 R296). -/
def latencySets (c : Nat) : List (List Nat) :=
  if c = 0 then (List.range 4).map (fun k => (List.range 128).map (fun i => 128 * k + i))
  else if c = 1 then [List.range 256, (List.range 256).map (· + 256)]
  else [List.range 512]

/-- The bytes of a range are all zero. -/
def zeros (r : List Byte) (o n : Nat) : Bool := ((r.drop o).take n).all (· == 0)

/-- The teams that a package holds of a grid: all, or a member's share of a cross-package gang (16 R297): first index and
count. -/
def packageShare (peer : Option PeerSet) (r : List Byte) : Nat × Nat :=
  let t := recTeams r
  match peer with
  | some p =>
    let n := max 1 p.members.length
    (p.rank * t / n, (p.rank + 1) * t / n - p.rank * t / n)
  | none => (0, t)

/-- The peer set that a record names. -/
def recPeer (s : State) (ctx : Nat) (r : List Byte) : Option PeerSet :=
  if recPeers r = 0xFFFF then none
  else (getCtx s ctx).bind (fun c => c.peers.find? (·.set == recPeers r))

/-- The checks of 16 R291; `child` for a record given to `launch`. -/
def recordOk (s : State) (ctx : Nat) (r : List Byte) (child : Bool) : Bool :=
  let sh := recShape r
  let hnd := leAt r 0x30 8
  leAt r 0x1D 1 / 4 == 0 && recFlags r / 64 == 0 && zeros r 0x2E 2 && zeros r 0x48 0x38 &&
  recLatency r != 3 &&
  decide (1 ≤ recX r) && decide (1 ≤ recY r) && decide (1 ≤ recZ r) && decide (recTeams r ≤ 2 ^ 32) &&
  sh.ok &&
  codeAddr (recEntry r) && (hnd == 0 || codeAddr hnd) && isMain (recDone r) && recDone r % 16 == 0 &&
  (recPeers r == 0xFFFF || (recGang r && !child)) && !(child && recSerial r) &&
  (!recGang r ||
    ((latencySets (recLatency r)).any (fun l =>
      decide ((packageShare (recPeer s ctx r) r).2 ≤ l.length * sh.perCore))))

/-! ### Room on a core -/

def gridCtx (s : State) (n : Nat) : Nat := match getGrid s n with | some g => g.context | none => 0
def gridPrio (s : State) (n : Nat) : Nat := match getGrid s n with | some g => recPrio g.record | none => 0

/-- The teams resident on a core. -/
def residents (s : State) (core : Nat) : List Team := s.teams.filter (fun x => teamCore s x == core && !x.saved)

/-- A core has room for one team of a context (01 R16, 07 R136, R137, 08 R151, 11 R207), and has not been taken from it (21
R357). Here and below a core is named by its place in the package (01 R11). -/
def teamFits (s : State) (core ctx : Nat) (t : TeamShape) : Bool :=
  let res := residents s core
  !(getCore s core).takenFrom.any (fun x => x.1 == ctx) &&
  decide (res.length + 1 ≤ 8) && decide ((coreGroups s core).length + t.groups ≤ 32) &&
  decide (res.foldl (fun k x => k + x.memSize) 0 + t.mem ≤ 0x40000) &&
  decide (res.foldl (fun k x => k + x.tiles) 0 + t.tiles ≤ 4) &&
  decide (t.groups * baseFrames t.width ≤ poolFree s core) &&
  (placeSpills s ctx (dieOf (virtCore s ctx core)) t.quota t.groups).isSome

/-- A gang comes before another: by class, then by age (16 R394). -/
def gangBefore (a b : Grid) : Bool :=
  decide (recPrio a.record < recPrio b.record) || (recPrio a.record == recPrio b.record && decide (a.order < b.order))

/-- A waiting gang holds a core of its target set that is free for one of its teams (16 R296) (DEDUCED, log 47): against every
other work, and against the gangs that it comes before. -/
def heldByGang (s : State) (core : Nat) (self : Option Grid) : Bool :=
  s.grids.any (fun g => !g.placed && !g.reserved && !g.ended && g.target.contains (virtCore s g.context core) &&
    (match self with | some me => g.id != me.id && gangBefore g me | none => true) &&
    teamFits s core g.context (recShape g.record))

/-! ### Starting a team (16 R292) -/

/-- The stochastic state at a launch (02 R36). -/
def seedOf (seed linear idx lane : Nat) : Nat :=
  let k := ((linear * 16 + idx) * 64 + lane) % 2 ^ 32
  let x := Nat.xor seed (k * 0x9E3779B9 % 2 ^ 32)
  if x = 0 then 1 else x

/-- What a new team begins with. -/
structure TeamStart where
  grid : Nat
  linear : DWord
  origin : Nat
  core : Nat
  shape : TeamShape
  prio : Nat
  pc : Nat
  arg : Nat
  s1 : Nat
  seed : Nat
  carried : List Nat := []         -- what its groups begin having acquired beside their grid's (16 R304, R308)
  deriving DecidableEq, Repr

/-- The sibling entry of a group at launch (14 R285). -/
def launchSibling (i n : Nat) : Nat :=
  let j := if i % 2 = 0 then i + 1 else i - 1
  if j < n then 0x80 + (if i % 2 = 0 then 0 else 0x40) + j else 0

/-- Start group i of a team: its spill window is zero and its bits are empty (07 R137). -/
def startGroup (p : TeamStart) (team : Nat) (spills : List Nat) (s : State) (i : Nat) : State :=
  let (id, s) := fresh s
  let at_ := spills.getD i 0
  let w := p.shape.width
  let g : Group :=
    { id := id, team := team, index := i, width := w, pc := BitVec.ofNat 64 p.pc
      em := BitVec.ofNat 64 (2 ^ w - 1)
      s := (((([] : Cells 64) |> fun m => cellSet m 0 (BitVec.ofNat 64 p.arg)) |> fun m => cellSet m 1 (BitVec.ofNat 64 p.s1)) |>
        fun m => cellSet m 2 (BitVec.ofNat 64 i)) |> fun m => cellSet m 54 (BitVec.ofNat 64 (0x4000000 + p.shape.quota))
      rng := cellsOf 32 w (seedOf p.seed p.linear.toNat i)
      sibling := BitVec.ofNat 32 (launchSibling i p.shape.groups)
      spillAt := at_
      quota := p.shape.quota
      acquired := acquiredToo [] [] (joinAges (released s (.start p.grid)) p.carried)
      residency := (freeSlot s p.core).getD 0 }
  let s := clearPad { s with groups := s.groups ++ [g] } at_ p.shape.quota
  modTeam s team (fun t => { t with live := t.live ++ [id] })

/-- Start a team with its groups: team memory zero and every full/empty bit empty. -/
def startTeam (s : State) (p : TeamStart) : State :=
  let (id, s) := fresh s
  let ctx := gridCtx s p.grid
  let core := virtCore s ctx p.core
  let spills := (placeSpills s ctx (dieOf core) p.shape.quota p.shape.groups).getD []
  let t : Team :=
    { id := id, grid := p.grid, linear := p.linear, origin := p.origin, core := core, groups := p.shape.groups,
      width := p.shape.width, tiles := p.shape.tiles, memSize := p.shape.mem, quota := p.shape.quota, prio := p.prio,
      accs := List.replicate p.shape.tiles {} }
  (List.range p.shape.groups).foldl (startGroup p id spills) { s with teams := s.teams ++ [t] }

/-- Start the team of a grid with a linear index on a core. -/
def startIndex (s : State) (g : Grid) (core idx : Nat) : State :=
  startTeam s { grid := g.id, linear := BitVec.ofNat 64 idx, origin := 0, core := core, shape := recShape g.record,
                prio := recPrio g.record, pc := recEntry g.record, arg := leAt g.record 8 8, s1 := idx,
                seed := recSeed g.record }

/-! ### Gangs (16 R296, R297) -/

/-- One pass over a set of virtual cores: a team to each core that has room, in ascending order, until `todo` runs out. -/
def gangPass (g : Grid) (set : List Nat) (acc : State × Nat × Nat) : State × Nat × Nat :=
  set.foldl (fun (acc : State × Nat × Nat) core =>
    let (s, next, todo) := acc
    let c := physCore s g.context core
    if todo = 0 then acc
    else if teamFits s c g.context (recShape g.record) && !heldByGang s c (some g) then
      (startIndex s g c next, next + 1, todo - 1)
    else acc) acc

/-- Place a gang's teams in a set, at most 8 passes: the state, and how many teams find no place. -/
def gangTry (s : State) (g : Grid) (set : List Nat) : State × Nat :=
  let r := (List.range 8).foldl (fun acc _ => gangPass g set acc) (s, g.firstTeam, g.total)
  (r.1, r.2.2)

/-- Place a gang that waits, whole and in its target set. -/
def gangPlace (s : State) (g : Grid) : Option State :=
  let r := gangTry s g g.target
  if r.2 = 0 then some r.1 else none

/-- The cores that a placement of a gang gives a team. -/
def gangCores (s : State) (g : Grid) : List Nat :=
  match gangPlace s g with
  | some t => sortNats ((t.teams.drop s.teams.length).map (teamCore t))
  | none => []

/-- The set in which the fewest of its teams cannot be placed, the lower on a tie; so the lowest that holds it, if one does. -/
def gangTarget (s : State) (g : Grid) : List Nat :=
  let scored := (latencySets (recLatency g.record)).map (fun set => (set, (gangTry s g set).2))
  match scored with
  | [] => []
  | x :: xs => (xs.foldl (fun best y => if y.2 < best.2 then y else best) x).1

/-! ### Starting a grid -/

/-- The tickets of a non-gang grid of T teams (16 R295). -/
def ticketsOf (t : Nat) : List Ticket := (List.range 4).map (fun k => { next := k * t / 4, stop := (k + 1) * t / 4 })

/-- Start a grid from an accepted record: it takes an identifier and an age. A gang begins to wait with its target set, the set
that holds it where there is one. -/
def startGrid (s : State) (ctx : Nat) (r : List Byte) (depth queue ring : Nat) (parent : Option (Nat × Nat × DWord))
    (parentGrid : Nat) : Nat × State :=
  let (id, s) := fresh s
  let peer := recPeer s ctx r
  let share := packageShare peer r
  let g : Grid :=
    { id := id, context := ctx, record := r, depth := depth, queue := queue, ring := ring, parent := parent,
      parentGrid := parentGrid, order := id, total := share.2, firstTeam := share.1,
      tickets := if recGang r then [] else ticketsOf (recTeams r), placed := !recGang r }
  let s := { s with grids := s.grids ++ [g] }
  if recGang r then (id, setGrid s { g with target := gangTarget s g }) else (id, s)

/-- A host record that 16 R291 refuses starts nothing; it retires with status 4 (R299), and in a cross-package gang with
status 2 and cause 0x32, as on every member (R297) (DEDUCED, log 32). -/
def refuseGrid (s : State) (ctx : Nat) (r : List Byte) (queue ring : Nat) : Nat × State :=
  let (id, s) := fresh s
  let g : Grid := { id := id, context := ctx, record := r, depth := 0, queue := queue, ring := ring, parent := none,
                    order := id, placed := true, ended := true,
                    status := if recGang r && recPeers r != 0xFFFF then 2 else 4
                    cause := if recGang r && recPeers r != 0xFFFF then 0x32 else 0 }
  (id, { s with grids := s.grids ++ [g] })

/-! ### The order of waiting work (16 R394) -/

/-- A piece of waiting work that a core may take. -/
inductive Work where
  | ticket (grid : Nat)
  | task (die index context : Nat)
  | items (die k : Nat)
  | gang (grid : Nat)
  deriving DecidableEq, Repr

/-- The dies in the order in which work of die d looks for a core (16 R295): its own, the other of its pair, the rest. -/
def nearDies (d : Nat) : List Nat :=
  if d = 0 then [0, 1, 2, 3] else if d = 1 then [1, 0, 2, 3] else if d = 2 then [2, 3, 0, 1] else [3, 2, 0, 1]

/-- Some core of a context's virtual die has room for a team of it, held for no gang. -/
def dieHasRoom (s : State) (die ctx : Nat) (t : TeamShape) : Bool :=
  (List.range 128).any (fun i =>
    let c := physCore s ctx (128 * die + i)
    teamFits s c ctx t && !heldByGang s c none)

/-- Work of a home die may go to a die: its own, or the nearest with room; dies as the context sees them. -/
def dieOpen (s : State) (home die ctx : Nat) (t : TeamShape) : Bool :=
  ((nearDies home).takeWhile (· != die)).all (fun d => !dieHasRoom s d ctx t)

def taskShape (r : List Byte) : TeamShape :=
  { groups := leAt r 0x14 1, width := 8 * 2 ^ (leAt r 0x15 1 % 4), tiles := leAt r 0x16 1, mem := leAt r 0x18 4, quota := leAt r 0x1C 4 }

/-- The shape of an item group's team (16 R305). -/
def itemShape (s : State) (grid : Nat) : TeamShape :=
  { groups := 1, width := 64, tiles := 0, mem := 0,
    quota := match getGrid s grid with | some g => recQuota g.record | none => 0 }

/-- Every piece of waiting work that fits on a core, with its class and age. A gang waits for the cores that its placement
fills. -/
def coreWork (s : State) (core : Nat) : List (Work × Nat × Nat) :=
  let die (ctx : Nat) : Nat := virtDie s ctx (dieOf core)
  let free := !heldByGang s core none
  let tickets := (s.grids.filter (fun g => free && !g.ended && g.tickets.any (fun t => decide (t.next < t.stop)) &&
    teamFits s core g.context (recShape g.record))).map (fun g => (Work.ticket g.id, recPrio g.record, g.order))
  let gangs := (s.grids.filter (fun g => !g.placed && !g.reserved && !g.ended && (gangCores s g).contains core)).map
    (fun g => (Work.gang g.id, recPrio g.record, g.order))
  let tasks := (s.tasks.filter (fun t => free && t.inUse && t.released && !t.placed &&
    teamFits s core t.context (taskShape t.record) && dieOpen s t.die (die t.context) t.context (taskShape t.record))).map
    (fun t => (Work.task t.die t.index t.context, leAt t.record 0x17 1 % 4, t.order))
  let items := ((s.dies.zipIdx).map (fun x => ((x.1.formed.zipIdx).filter (fun y =>
    let ctx := gridCtx s y.1.grid
    free && teamFits s core ctx (itemShape s y.1.grid) &&
    dieOpen s (virtDie s ctx x.2) (die ctx) ctx (itemShape s y.1.grid))).map
    (fun y => (Work.items x.2 y.2, gridPrio s y.1.grid, y.1.order)))).flatten
  tickets ++ gangs ++ tasks ++ items

/-- The first by class, then by age. -/
def firstWork (l : List (Work × Nat × Nat)) : Option Work :=
  match l with
  | [] => none
  | x :: xs =>
    some (xs.foldl (fun (b : Work × Nat × Nat) y =>
      if y.2.1 < b.2.1 ∨ (y.2.1 = b.2.1 ∧ y.2.2 < b.2.2) then y else b) x).1

/-- A drained team waits for a core that could be this one: nothing else goes before it (16 R394, 21 R360). -/
def resumable (s : State) (t : Team) (core : Nat) : Bool :=
  let gs := t.savedGroups
  let frames := gs.foldl (fun k g => k + groupFrames g) 0
  let recipes := gs.foldl (fun k g => k + g.recipes.length) 0
  let res := residents s core
  let ctx := gridCtx s t.grid
  t.saved &&
  !(getCore s core).takenFrom.any (fun x => x.1 == ctx) &&
  decide (res.length + 1 ≤ 8) && decide ((coreGroups s core).length + gs.length ≤ 32) &&
  decide (res.foldl (fun k x => k + x.memSize) 0 + t.memSize ≤ 0x40000) &&
  decide (res.foldl (fun k x => k + x.tiles) 0 + t.tiles ≤ 4) &&
  decide (res.foldl (fun k x => k + x.slots.length) 0 + t.slots.length ≤ 16) &&
  decide (frames ≤ poolFree s core) &&
  decide ((coreGroups s core).foldl (fun (k : Nat) g => k + g.recipes.length) 0 + recipes ≤ 256) &&
  (placeSpills s ctx (dieOf (virtCore s ctx core)) t.quota gs.length).isSome

/-- The work that a core takes next. -/
def nextWork (s : State) (core : Nat) : Option Work :=
  if s.teams.any (fun t => resumable s t core) then none else firstWork (coreWork s core)

/-- A gang may be placed: it fits, and it is next on each core that it fills (16 R296, R394). A member whose share of a cross-package
gang has no team fills none, and may reserve at once (16 R297). -/
def gangNextWork (s : State) (g : Grid) : Bool :=
  let cs := gangCores s g
  (g.total == 0 || !cs.isEmpty) && cs.all (fun c => nextWork s c == some (.gang g.id))

/-- Take a team index from the tickets of a grid for a core of a virtual die: its own die's lowest, else another die's
highest (16 R295). -/
def takeTicket (g : Grid) (die : Nat) : Option (Nat × Grid) :=
  let own := g.tickets.getD die { next := 0, stop := 0 }
  if own.next < own.stop then some (own.next, { g with tickets := g.tickets.set die { own with next := own.next + 1 } })
  else
    match ((nearDies die).drop 1).find? (fun k =>
      let t := g.tickets.getD k { next := 0, stop := 0 }
      decide (t.next < t.stop)) with
    | none => none
    | some k =>
      let t := g.tickets.getD k { next := 0, stop := 0 }
      some (t.stop - 1, { g with tickets := g.tickets.set k { t with stop := t.stop - 1 } })

end Sys2Proof.Machine
end

