-- ==== Sys2Proof/Machine/Work.lean ====
section
/-! DEFINITION. The work instructions (16 R301 to R309), the barriers (16 R310 to R314), `yield` and `gid` (16 R316, R317),
and the trap instructions `nop`, `trap`, `rth` and `kill` (21 R347 to R353). -/

namespace Sys2Proof.Machine

/-- The grid and the team of a group. -/
def gridOf (s : State) (g : Group) : Option Grid := (getTeam s g.team).bind (fun t => getGrid s t.grid)

/-! ### `launch` and `task` -/

/-- A record of `n` bytes at near address S[a] (16 R302): the fault, an uncorrectable error among them (21 R361), or the
bytes. -/
def nearRecord (x : Issue) (a n : Nat) : FaultInfo ⊕ List Byte :=
  match i64? a with
  | none => .inr []
  | some y =>
    (match nearFaults x.s (whoOf x.s x.g) false n 64 [y] with
     | some f => .inl f
     | none =>
       if nearBad x.s (whoOf x.s x.g) false y.toNat n then .inl (fault 0x50 (addrData y))
       else .inr (leBytes n (recordSeen x.s (whoOf x.s x.g) (groupView x.s x.g) y.toNat n)))

/-- A group has read a record: what it observed there, it observes from then on (13 R262). -/
def recordNoted (x : Issue) (a n : Nat) : State := nearNoted x.s (whoOf x.s x.g) x.g 8 (partAddrs a n)

/-- `launch` (16 R302, R303). -/
def launchBody (tl : Nat) (x : Issue) : Except Stop Done :=
  let a := scalarA x
  if a = na64 then .ok (.ok x.s)
  else
    match nearRecord x a 128, gridOf x.s x.g with
    | .inl f, _ => stopFault x f
    | _, none => .ok (.ok x.s)
    | .inr r, some gr =>
      if !recordOk x.s gr.context r true then .error (.flt (fault 0x02))
      else if gr.depth = 10 then .error (.flt (fault 0x40))
      else
        match tlFull x.s x.g.team tl with
        | some f => .error (.flt f)
        | none =>
          let n := (getTl x.s x.g.team tl).issued + 1
          let (child, s) := startGrid (recordNoted x a 128) gr.context r (gr.depth + 1) 0xFFFF 0 (some (x.g.team, tl, n)) gr.id
          let g := groupNow s x
          let s := replaceAt s (.start child) (groupCarries s g)   -- what the child's groups begin with (16 R303)
          .ok (.ok (issueOp s g { blankOp .launch tl x.e.word x.e.mode [] [] with child := child }))

/-- A task record obeys 16 R306 and R291. -/
def taskOk (r : List Byte) : Bool :=
  codeAddr (leAt r 0 8) && leAt r 0x10 4 != 0xFFFFFFFF && leAt r 0x15 1 / 4 == 0 && leAt r 0x17 1 / 4 == 0 &&
  zeros r 0x20 0x20 && (taskShape r).ok

/-- The handle of a task-table entry (16 R307). -/
def handleOf (gen die index : Nat) : Nat := gen * 2 ^ 14 + die * 2 ^ 12 + index

/-- Copy a record into the lowest free entry of a die's task table (16 R307): the handle; none when the table is full. -/
def addTask (s : State) (ctx die grid : Nat) (r : List Byte) : Option (Nat × State) :=
  let mine := s.tasks.filter (fun t => t.context == ctx && t.die == die)
  match lowest 4096 (fun k => !(mine.any (fun t => t.index == k && t.inUse))) with
  | none => none
  | some k =>
    let gen := match mine.find? (·.index == k) with | some t => t.gen % 0x3FFFF + 1 | none => 1
    let (age, s) := fresh s
    let c := leAt r 0x10 4
    let t : TaskEntry := { context := ctx, die := die, index := k, gen := gen, inUse := true, grid := grid, record := r,
                           counter := c, released := c == 0, order := age }
    let rest := s.tasks.filter (fun t => !(t.context == ctx && t.die == die && t.index == k))
    some (handleOf gen die k, { s with tasks := t :: rest })

/-- `task` (16 R307): a release toward the task (16 R308). -/
def taskBody (x : Issue) : Except Stop Done :=
  let a := scalarA x
  let w := whoOf x.s x.g
  let give (s : State) (v : Nat) : Except Stop Done :=
    .ok (.ok (putScalar s (groupNow s x) x.e x.i.form.t (destReg x.i.form.d) v))
  if a = na64 then give x.s 0xFFFFFFFF
  else
    match nearRecord x a 64, gridOf x.s x.g with
    | .inl f, _ => stopFault x f
    | _, none => give x.s 0xFFFFFFFF
    | .inr r, some gr =>
      if !taskOk r then .error (.flt (fault 0x02))
      else
        match addTask (recordNoted x a 64) w.ctx (dieOf w.core) gr.id r with
        | some (h, s) => give (replaceAt s (.task w.ctx (dieOf w.core) (h % 2 ^ 12)) (groupCarries s (groupNow s x))) h
        | none => .error (.wait .taskRoom)

/-- Where the groups of the task of a handle acquire (16 R308). -/
def taskPoint (ctx h : Nat) : Point := .task ctx (h / 2 ^ 12 % 4) (h % 2 ^ 12)

/-- What one decrement finds (16 R308): nothing to do, a stale or foreign handle, or the state after it. -/
inductive Dec where
  | skip
  | bad
  | done (s : State)

/-- Decrement a task's counter, and release it at zero. -/
def decTask (s : State) (ctx h n : Nat) : Dec :=
  if h = 0xFFFFFFFF ∨ n = 0xFFFFFFFF ∨ n = 0 then .skip
  else
    let here (t : TaskEntry) : Bool :=
      t.context == ctx && t.die == h / 2 ^ 12 % 4 && t.index == h % 2 ^ 12
    match s.tasks.find? here with
    | none => .bad
    | some t =>
      if t.gen ≠ h / 2 ^ 14 then .bad
      else if t.released then .skip
      else
        let c := t.counter - n
        let (age, s1) := fresh s
        let t' := if c = 0 then { t with counter := 0, released := true, order := age } else { t with counter := c }
        .done { (if c = 0 then s1 else s) with tasks := s.tasks.map (fun y => if here y then t' else y) }

/-- The plan of `dep.dec`: handle in `d`, amount in `a`, at uint32. -/
def planDep (x : Issue) : Plan :=
  { vec := kindOf x, readA := true, readD := true, naA := 0xFFFFFFFF, naD := 0xFFFFFFFF,
    active := if kindOf x then activeSet x.g else 0 }

/-- Apply `f` lane by lane, ascending from the entry's first lane; a fault stops at its lane (05 R108). -/
def laneByLane (x : Issue) (f : State → Nat → FaultInfo ⊕ State) : Except Stop Done :=
  let lanes := (actingLanes x).filter (fun i => decide (x.e.first ≤ i))
  let r := lanes.foldl (fun (acc : State × Option (Nat × FaultInfo)) i =>
    match acc.2 with
    | some _ => acc
    | none =>
      (match f acc.1 i with
       | .inl w => (acc.1, some (i, w))
       | .inr s => (s, none))) (x.s, none)
  match r.2 with
  | none => .ok (.ok r.1)
  | some (i, w) =>
    if x.e.vec then .error (.part r.1 { x.e with first := i } (.inl { w with lane := BitVec.ofNat 32 i }))
    else .error (.part r.1 x.e (.inl w))

/-- `dep.dec` (16 R308): each decrement is a release toward its task. -/
def depDecBody (x : Issue) : Except Stop Done :=
  let ctx := (whoOf x.s x.g).ctx
  laneByLane x (fun s i =>
    let h := srcVal x.e x.i.form.d x.e.slotD (.raw 32) i
    match decTask s ctx h (srcVal x.e x.i.form.a x.e.slotA (.raw 32) i) with
    | .skip => .inr s
    | .bad => .inl (fault 0x15 h)
    | .done s => .inr (releaseAt s (taskPoint ctx h) (groupCarries x.s x.g)))

/-! ### `item` (16 R304) -/

/-- The plan of `item`: payload in `d`, target in `a`, at 64 bits. -/
def planItem (x : Issue) : Plan :=
  let vec := kindOf x
  { bad := vec && (oddV x.i.form.d || oddV x.i.form.a)
    vec := vec, readA := true, readD := true, pairA := vec, pairD := vec, naA := na64, naD := na64,
    active := if vec then activeSet x.g else 0 }

/-- Add an item to the queues of a die (16 R305): one queue for each grid and target. -/
def addItem (grid : Nat) (target : DWord) (it : Item) : List ItemQueue → List ItemQueue
  | [] => [{ grid := grid, target := target, items := [it] }]
  | q :: qs =>
    if q.grid = grid ∧ q.target = target then { q with items := q.items ++ [it] } :: qs else q :: addItem grid target it qs

def enqueueItem (d : Die) (grid : Nat) (target : DWord) (it : Item) : Die :=
  { d with queues := addItem grid target it d.queues }

/-- Items queued on a die. -/
def itemsQueued (d : Die) : Nat := d.queues.foldl (fun k q => k + q.items.length) 0

/-- The items that an `item` spawns: lane, target and payload. -/
def itemLanes (x : Issue) : List (Nat × Nat × Nat) :=
  ((actingLanes x).map (fun i =>
    (i, srcVal x.e x.i.form.a x.e.slotA (.raw 64) i, srcVal x.e x.i.form.d x.e.slotD (.raw 64) i))).filter
    (fun y => y.2.1 != na64)

/-- `item` (16 R304). -/
def itemBody (x : Issue) : Except Stop Done :=
  let w := whoOf x.s x.g
  let grid := match getTeam x.s x.g.team with | some t => t.grid | none => 0
  let die := dieOf w.phys
  let l := itemLanes x
  match l.find? (fun y => !isMain y.2.1) with
  | some y => .error (.flt (fault 0x15 y.2.1))
  | none =>
    match l.find? (fun y => y.2.1 % 4 != 0) with
    | some y => .error (.flt (fault 0x12 y.2.1))
    | none =>
      if 65536 < itemsQueued (getDie x.s die) + l.length then .error (.wait .items)
      else
        let s := l.foldl (fun (s : State) y =>
          let g := groupNow s x
          let r := rngStep (rngOf g y.1)
          let seed := Nat.xor r 0x5BD1E995
          let it : Item := { payload := BitVec.ofNat 64 y.2.2, seed := BitVec.ofNat 32 (if seed = 0 then 1 else seed)
                             carried := groupCarries x.s x.g }
          modDie (setGroup s (setRng g y.1 r)) die (fun d => enqueueItem d grid (BitVec.ofNat 64 y.2.1) it)) x.s
        .ok (.ok s)

/-! ### `yield` and `gid` -/

/-- A group takes the place of its class's last winner in a slot (16 R315). -/
def setWinner (c : Core) (slot cls residency : Nat) : Core :=
  { c with lastWon := (slot, cls, residency) :: c.lastWon.filter (fun w => !(w.1 == slot && w.2.1 == cls)) }

/-- The class of a group in arbitration (16 R315). -/
def classOf (s : State) (g : Group) : Nat :=
  if g.aged then 0 else match getTeam s g.team with | some t => t.prio | none => 0

/-- `yield` (16 R316): last in its class's order in both slots. -/
def yieldBody (x : Issue) : Except Stop Done :=
  let c := classOf x.s x.g
  let s := setGroup x.s { x.g with aged := false }
  .ok (.ok (modCore s (whoOf x.s x.g).phys (fun k => setWinner (setWinner k 0 c x.g.residency) 1 c x.g.residency)))

/-- The value of a `gid` selector (16 R317). -/
def gidValue (s : State) (g : Group) (sel : Nat) : Nat :=
  match getTeam s g.team with
  | none => na64
  | some t =>
    match getGrid s t.grid with
    | none => na64
    | some gr =>
      let r := gr.record
      let lin := t.linear.toNat
      if sel ≤ 3 ∧ t.origin ≠ 0 then na64
      else match sel with
      | 0 => lin % recX r
      | 1 => lin / recX r % recY r
      | 2 => lin / (recX r * recY r)
      | 3 => lin
      | 4 => g.index
      | 5 => t.groups
      | 6 => g.width
      | 7 => gr.depth
      | 8 => recX r
      | 9 => recY r
      | 10 => recZ r
      | 11 => t.core
      | 12 => dieOf t.core
      | 13 => (match recPeer s gr.context r with | some p => p.rank | none => 0)
      | _ => t.origin

/-- The plan of a word with a scalar destination and no source. -/
def planDst (x : Issue) : Plan := { writes := if x.i.form.t then [] else [0xC0 + destReg x.i.form.d] }

def gidBody (sel : Nat) (x : Issue) : Except Stop Done :=
  .ok (.ok (putScalar x.s x.g x.e x.i.form.t (destReg x.i.form.d) (gidValue x.s x.g sel)))

/-! ### Barriers (16 R310 to R314) -/

/-- The plan of a barrier word in a uniform operand, over `active`. -/
def planBar (x : Issue) : Plan :=
  { planUniA x with active := activeSet x.g, own := diverged x.g }

/-- A token (16 R310). -/
def tokenOf (phase : BitVec 32) (b : Nat) : Nat := phase.toNat * 16 + b

def getBar (s : State) (team b : Nat) : Barrier := match getTeam s team with | some t => t.barriers.getD b {} | none => {}
def setBar (s : State) (team b : Nat) (x : Barrier) : State :=
  modTeam s team (fun t => { t with barriers := putAt {} t.barriers b x })

/-- Arrive at a barrier (16 R311), a release of the group's accesses (16 R313): the fault, or the token and the state. -/
def arrive (s : State) (g : Group) (word : Nat) : FaultInfo ⊕ (Nat × State) :=
  let b := word % 16
  let count := word / 16 % 32
  let bar := getBar s g.team b
  let live := match getTeam s g.team with | some t => t.live.length | none => 0
  if word / 512 ≠ 0 ∨ 16 < count then .inl (fault 0x41 word)
  else if bar.arrivals ≠ 0 ∧ count ≠ 0 ∧ count ≠ bar.expected then .inl (fault 0x41 word)
  else
    let n := if bar.arrivals ≠ 0 then bar.expected else if count = 0 then live else count
    let fromLive := if bar.arrivals ≠ 0 then bar.fromLive else count = 0
    let bar' : Barrier :=
      if bar.arrivals + 1 = n then { phase := bar.phase + 1, arrivals := 0, expected := n, fromLive := fromLive, arrived := [] }
      else { phase := bar.phase, arrivals := bar.arrivals + 1, expected := n, fromLive := fromLive, arrived := g.id :: bar.arrived }
    .inr (tokenOf bar.phase b, releaseAt (setBar s g.team b bar') (.phase g.team b bar.phase) (groupCarries s g))

/-- The phase of a token's barrier is still the token's. -/
def tokenPending (s : State) (team tok : Nat) : Bool := (getBar s team (tok % 16)).phase == BitVec.ofNat 32 (tok / 16)

/-- A wait at a token's phase is complete: the group acquires the releases of every arrival of that phase (16 R313). -/
def passBarrier (s : State) (g : Group) (tok : Nat) : State :=
  acquireAges s g.id (released s (.phase g.team (tok % 16) (BitVec.ofNat 32 (tok / 16))))

/-- `bar.arr` (16 R311). -/
def barArrBody (x : Issue) : Except Stop Done :=
  let give (s : State) (v : Nat) : Except Stop Done :=
    .ok (.ok (putScalar s (groupNow s x) x.e x.i.form.t (destReg x.i.form.d) v))
  match uniform x x.i.form.a x.e.slotA 64 x.e.active with
  | .noop => give x.s na64
  | .mixed => .error (.flt (fault 0x03))
  | .val w =>
    match arrive x.s x.g w with
    | .inl f => .error (.flt f)
    | .inr (tok, s) => give s tok

/-- The plan of `bar.wt`. -/
def planBarWt (x : Issue) : Plan := { planA x with own := diverged x.g }

/-- `bar.wt` (16 R311). -/
def barWtBody (x : Issue) : Except Stop Done :=
  let t := scalarA x
  if t = na64 then .ok (.ok x.s)
  else if tokenPending x.s x.g.team t then .error (.wait (.bar (t % 16) (BitVec.ofNat 32 (t / 16))))
  else .ok (.ok (passBarrier x.s x.g t))

/-- Keep or forget the token of a `bar` in progress (16 R311). -/
def keepToken (s : State) (x : Issue) (t : Option Nat) : State :=
  setGroup s { groupNow s x with barToken := t.map (BitVec.ofNat 64) }

/-- `bar` (16 R311): arrive once, then wait with the kept token, which a re-executed word alone looks at: a token that a frame
restores without its word is no arrival of another `bar`. -/
def barBody (x : Issue) : Except Stop Done :=
  let waitOn (s : State) (tok : Nat) : Except Stop Done :=
    if tokenPending s x.g.team tok then
      .error (.part (keepToken s x (some tok)) x.e (.inr (.bar (tok % 16) (BitVec.ofNat 32 (tok / 16)))))
    else .ok (.ok (passBarrier (keepToken s x none) x.g tok))
  match x.g.barToken.filter (fun _ => !x.fresh) with
  | some t => waitOn x.s t.toNat
  | none =>
    match uniform x x.i.form.a x.e.slotA 64 x.e.active with
    | .noop => .ok (.ok x.s)
    | .mixed => .error (.flt (fault 0x03))
    | .val w =>
      match arrive x.s x.g w with
      | .inl f => .error (.flt f)
      | .inr (tok, s) => waitOn s tok

/-- A status word (13 R269): sequence or phase, rank, code. -/
def statusWord (seq rank code : Nat) : Nat := seq % 2 ^ 32 * 2 ^ 32 + rank % 2 ^ 16 * 2 ^ 16 + code

/-- The live groups of a gang on this package. -/
def gangLive (s : State) (grid : Nat) : List Nat := ((s.teams.filter (·.grid == grid)).map (·.live)).flatten

/-- Every live group of the gang has arrived at the pending phase (16 R312). -/
def gangArrived (s : State) (g : Grid) : Bool := (gangLive s g.id).all (fun id => g.gbArrived.contains id)

/-- Complete a gang's phase. -/
def gangNext (s : State) (grid : Nat) : State :=
  modGrid s grid (fun g => { g with gbPhase := g.gbPhase + 1, gbArrived := [] })

/-- Break a gang's barrier (16 R312, 21 R353): the pending phase and every later one complete with a status word. -/
def breakGang (s : State) (grid rank code : Nat) : State :=
  modGrid s grid (fun g =>
    if recGang g.record && g.gbBroken.isNone then
      { g with gbBroken := some (BitVec.ofNat 64 (statusWord g.gbPhase.toNat rank code)) }
    else g)

/-- The plan of `gbar`. -/
def planGbar (x : Issue) : Plan := { planDst x with own := diverged x.g }

/-- The phase at which a re-executed `gbar` has arrived: its entry keeps it, in no field of a frame (DEDUCED, log 66). -/
def gbarPhaseOf (x : Issue) : Option Nat :=
  let k := (cellGet x.e.partials 0).toNat
  if x.fresh || k = 0 then none else some (k % 2 ^ 32)

/-- Wait at a phase of the gang barrier. -/
def gbarWait (x : Issue) (s : State) (p : BitVec 32) : Except Stop Done :=
  .error (.part s { x.e with partials := [(0, BitVec.ofNat 64 (p.toNat + 2 ^ 32))] } (.inr (.gbar p)))

/-- `gbar` (16 R312): arrive once at the pending phase, a release of the group's accesses. The last arrival of a gang on one package
completes it; a group that has already arrived at it only waits. A phase that completes is acquired (16 R313). -/
def gbarBody (x : Issue) : Except Stop Done :=
  let give (s : State) (v : Nat) : Except Stop Done :=
    .ok (.ok (putScalar s (groupNow s x) x.e x.i.form.t (destReg x.i.form.d) v))
  match gridOf x.s x.g with
  | none => .error (.flt (fault 0x41))
  | some gr =>
    if !recGang gr.record then .error (.flt (fault 0x41))
    else
      let p := gr.gbPhase
      let pass (s : State) (k : Nat) : Except Stop Done :=
        give (acquireAges s x.g.id (released s (.gang gr.id (BitVec.ofNat 32 k)))) (statusWord k 0xFFFF 0)
      match (gbarPhaseOf x).filter (· != p.toNat) with
      | some k => pass x.s k
      | none =>
        match gr.gbBroken with
        | some w => give x.s w.toNat
        | none =>
          if gr.gbArrived.contains x.g.id then gbarWait x x.s p
          else
            let gr := { gr with gbArrived := x.g.id :: gr.gbArrived }
            let s := releaseAt (setGrid x.s gr) (.gang gr.id p) (groupCarries x.s x.g)
            if recPeers gr.record = 0xFFFF ∧ gangArrived s gr then pass (gangNext s gr.id) p.toNat
            else gbarWait x s p

/-! ### The trap instructions -/

/-- `nop` (21 R348). -/
def nopBody (x : Issue) : Except Stop Done := .ok (.ok x.s)

/-- `trap` (21 R348): the software-trap fault, the word itself not queued. -/
def trapBody (code : Nat) (x : Issue) : Except Stop Done :=
  let g := advance x x.g
  .ok (.gone (takeFault (setGroup x.s g) g (fault 0x60 code) g.rq 0xFF x.e.addr g.pc))

/-- The plan of `rth`: outside handler mode it is illegal (21 R347). -/
def planRth (x : Issue) : Plan := { bad := !x.g.handler }

/-- `rth` (21 R349, R350): read and check the frame, and restore it. An error in the frame's header, or in an entry below the
queue count, escalates (R342). Where no queued entry is left to execute and the run has no further word, the run has ended
(DESIGN CHOICE, log 42). -/
def rthBody (x : Issue) : Except Stop Done :=
  let m := spillOf x.s x.g
  if physBad x.s false x.g.spillAt (0xA00 + 0x640 * min 24 (bytesGet m 2 1)) then stopFault x (fault 0x50 0x4000000)
  else if !frameOk m then .error (.flt (fault 0x15 0x4000000))
  else
    let g := restoreFrame (endRun x.g) m false
    let ended := g.rq.isEmpty && (decide (24 ≤ g.runCount) || (g.runWords.headD 0).getLsbD 25)
    .ok (.gone (setGroup x.s (if ended then endRun g else g)))

/-- `kill` (21 R353): the team ends; in a gang its barrier breaks with the member's own rank. -/
def killBody (x : Issue) : Except Stop Done :=
  let s := killTeam x.s x.g.team
  match gridOf x.s x.g with
  | none => .ok (.gone s)
  | some gr => .ok (.gone (breakGang s gr.id (gidValue x.s x.g 13) 2))

/-- `launch` (16 R302). -/
def execLaunch (e : Bool) (l : BitVec 3) (a : Opnd) (s : State) :
    Host.Outcome State Fault Refusal := runWord (.launch e l a) s planA [] (launchBody l.toNat)

/-- `item` (16 R304). -/
def execItem (e : Bool) (d : Opnd) (a : Opnd) (s : State) :
    Host.Outcome State Fault Refusal := runWord (.item e d a) s planItem [] itemBody

/-- `task` (16 R307). -/
def execTask (e : Bool) (t : Bool) (d : Opnd) (a : Opnd) (s : State) :
    Host.Outcome State Fault Refusal := runWord (.task e t d a) s planAD [] taskBody

/-- `dep.dec` (16 R308). -/
def execDepDec (e : Bool) (d : Opnd) (a : Opnd) (s : State) :
    Host.Outcome State Fault Refusal := runWord (.depDec e d a) s planDep [] depDecBody

/-- `yield` (16 R316). -/
def execYield (s : State) :
    Host.Outcome State Fault Refusal := runWord (.yield) s planNo [] yieldBody

/-- `gid` (16 R317). -/
def execGid (e : Bool) (t : Bool) (d : Opnd) (sf : BitVec 4) (s : State) :
    Host.Outcome State Fault Refusal := runWord (.gid e t d sf) s planDst [] (gidBody sf.toNat)

/-- `bar` (16 R311). -/
def execBar (a : Opnd) (s : State) :
    Host.Outcome State Fault Refusal := runWord (.bar a) s planBar [] barBody

/-- `bar.arr` (16 R311). -/
def execBarArr (e : Bool) (t : Bool) (d : Opnd) (a : Opnd) (s : State) :
    Host.Outcome State Fault Refusal := runWord (.barArr e t d a) s planBar [] barArrBody

/-- `bar.wt` (16 R311). -/
def execBarWt (a : Opnd) (s : State) :
    Host.Outcome State Fault Refusal := runWord (.barWt a) s planBarWt [] barWtBody

/-- `gbar` (16 R312). -/
def execGbar (d : Opnd) (s : State) :
    Host.Outcome State Fault Refusal := runWord (.gbar d) s planGbar [] gbarBody

/-- `nop` (21 R348). -/
def execNop (e : Bool) (s : State) :
    Host.Outcome State Fault Refusal := runWord (.nop e) s planNo [] nopBody

/-- `trap` (21 R348). -/
def execTrap (e : Bool) (c : BitVec 8) (s : State) :
    Host.Outcome State Fault Refusal := runWord (.trap e c) s planNo [] (trapBody c.toNat)

/-- `rth` (21 R349). -/
def execRth (s : State) :
    Host.Outcome State Fault Refusal := runWord (.rth) s planRth [] rthBody

/-- `kill` (21 R353). -/
def execKill (s : State) :
    Host.Outcome State Fault Refusal := runWord (.kill) s planNo [] killBody

end Sys2Proof.Machine
end

