-- ==== Sys2Proof/Machine/System.lean ====
section
/-! DEFINITION. The system registers and `snap` (25 R372 to R375). -/

namespace Sys2Proof.Machine

/-- The value of a system register (25 R374). -/
def sysRead (s : State) (w : Who) (n : Nat) : Nat :=
  match n with
  | 0x00 => 0x0940 * 2 ^ 48 + (if Config.isP then 2 ^ 32 else 0)
  | 0x01 => 4 * 2 ^ 8 + 128
  | 0x02 => w.ctx
  | 0x03 => (Config.cycleCount w.phys s.tick).toNat
  | 0x04 => (getCore s w.phys).stretch.toNat
  | 0x10 => (snapselOf s w.ctx).toNat
  | _ => (match getCtx s w.ctx with | some c => c.triggered.toNat * 2 ^ 32 + c.missed.toNat | none => 0)

/-- `csrr` (25 R372, R374). -/
def csrrBody (n : Nat) (x : Issue) : Except Stop Done :=
  .ok (.ok (putScalar x.s x.g x.e x.i.form.t (destReg x.i.form.d) (sysRead x.s (whoOf x.s x.g) n)))

/-- The plan of `csrw`: only `snapsel` may be written. -/
def planCsrw (n : Nat) (x : Issue) : Plan :=
  { planA x with own := if n = 0x10 then none else some (fault 0x15 n) }

/-- `csrw` (25 R372): an absent source has no effect; the fields that `snapsel` does not define stay zero. -/
def csrwBody (x : Issue) : Except Stop Done :=
  let a := scalarA x
  if a = na64 then .ok (.ok x.s)
  else .ok (.ok (modCtx x.s (whoOf x.s x.g).ctx (fun c => { c with snapsel := BitVec.ofNat 64 a &&& 0xFF03 })))

/-- `snap` (25 R375). -/
def snapBody (x : Issue) : Except Stop Done :=
  .ok (.ok (pullTrigger x.s 1 0 (some (whoOf x.s x.g).ctx) (some x.g)))

/-- `csrr` (25 R372). -/
def execCsrr (e : Bool) (t : Bool) (d : Opnd) (a : BitVec 8) (s : State) :
    Host.Outcome State Fault Refusal := runWord (.csrr e t d a) s planDst [] (csrrBody a.toNat)

/-- `csrw` (25 R372). -/
def execCsrw (e : Bool) (d : BitVec 8) (a : Opnd) (s : State) :
    Host.Outcome State Fault Refusal := runWord (.csrw e d a) s (planCsrw d.toNat) [] csrwBody

/-- `snap` (25 R375). -/
def execSnap (e : Bool) (s : State) :
    Host.Outcome State Fault Refusal := runWord (.snap e) s planNo [] snapBody

end Sys2Proof.Machine
end

