-- ==== Sys2Proof/Machine/Scoped.lean ====
section
/-! DEFINITION. Scoped accesses, atomics and `fence` (13 R251 to R263). A plain or relaxed access observes what its group's view
allows (24 R363); an atomic, the latest value. -/

namespace Sys2Proof.Machine

/-- The scoped accesses. -/
inductive ScopedOp where
  | ldo | sto | aadd | amin | amax | aand | aor | axch | acas | axor
  deriving DecidableEq, Repr

def ScopedOp.perm : ScopedOp → Perm
  | .ldo => .read
  | .sto => .write
  | _ => .readWrite

/-- The types accepted (13 R252). -/
def ScopedOp.accepts (o : ScopedOp) (t : Ty) : Bool :=
  match o with
  | .aadd => t.isInt || t.isF8 || t.isRaw
  | .aand | .aor | .axor => t.isRaw
  | _ => true

/-- What an atomic leaves in memory, with its events (13 R253). -/
def ScopedOp.newValue (o : ScopedOp) (t : Ty) (m : RMode) (old x n : Nat) : Nat × Events :=
  match o with
  | .aadd => combInto .add t m old x
  | .amin => combInto .min t m old x
  | .amax => combInto .max t m old x
  | .aand => (Nat.land old x, {})
  | .aor => (Nat.lor old x, {})
  | .axor => (Nat.xor old x, {})
  | .axch => (x, {})
  | .acas => (if old = x then n else old, {})
  | _ => (old, {})

/-- The place of `acas`'s new value: the upper part of the `d` slot, or the `b` slot at a 64-bit vector type (21 R345). -/
def newPlace (wide : Bool) : Place := if wide then .whole 1 else .upper 2

/-- The plan of a scoped access. -/
def planScoped (o : ScopedOp) (x : Issue) : Plan :=
  let f := x.i.form
  let vec := kindOf x
  let code := modeTypeCode x.g.mode vec
  let t := typeOf x.g.mode vec
  let wide := vec && t.width == 64
  let dn := destReg f.d
  let cas := o == .acas
  let next : Nat × Bool := if vec then (if wide then (dn + 2, true) else (dn + 1, false)) else (0xC0 + dn + 1, false)
  { bad := (isS f.d && vec && o != .sto) || (wide && oddV f.d) || (f.t && wide) ||
      (cas && vec && decide (dn + (if wide then 3 else 1) > 191)) ||
      (readsRm x.i t && modeField x.g.mode 11 3 == 7)
    vec := vec, ty := some code
    own := if o.accepts t then none else some (fault 0x02 code)
    readA := true, readD := o != .ldo, pairA := vec, pairD := wide, naA := na64, naD := t.na
    extra := if cas then [next] else []
    places := [newPlace wide]
    writes := if f.t || o == .sto then [] else if isV f.d then (if wide then [dn, dn + 1] else [dn]) else [0xC0 + dn]
    stops := true
    active := if vec then activeSet x.g else 0 }

/-- The address of a lane (13 R253); none for absent. -/
def scopedAddr (x : Issue) (i : Nat) : Option Nat :=
  let a := srcVal x.e x.i.form.a x.e.slotA (.raw 64) i
  if a = na64 then none else some a

/-- The lanes that make an access, with their addresses. -/
def scopedLanes (x : Issue) : List (Nat × Nat) :=
  (actingLanes x).filterMap (fun i => (scopedAddr x i).map (fun a => (i, a)))

/-- The faults of 13 R256, step 4: each cause over all lanes, before any access. -/
def scopedFaults (s : State) (w : Who) (p : Perm) (store : Bool) (n : Nat) (l : List (Nat × Nat)) : Option FaultInfo :=
  let near (a : Nat) : Bool := decide (a < 2 ^ 32)
  let first (c : Nat) (q : Nat → Bool) : Option FaultInfo :=
    (l.find? (fun y => q y.2)).map (fun y => fault c y.2)
  match first 0x10 (fun a => near a && (nearLoc s w a n).isNone) with
  | some f => some f
  | none =>
    match first 0x15 (fun a => !near a && (match mainAcc s w.ctx a p with | .flt _ => true | _ => false)) with
    | some f => some f
    | none =>
      match first 0x12 (fun a => a % n != 0) with
      | some f => some f
      | none => if store then first 0x13 (fun a => near a && sealHit s w a n) else none

/-- A release with mask m must still wait (13 R259): an earlier operation of a named class C or X is outstanding. -/
def releaseWaits (s : State) (g : Group) (m : BitVec 6) : Bool :=
  (m.getLsbD 2 && s.ops.any (fun o => o.group == g.id && o.kind.cls == .copy)) ||
  (m.getLsbD 3 && (s.ops.any (fun o => o.group == g.id && o.kind.maskBit == maskX) ||
    (getCore s (whoOf s g).phys).matrix.any (fun o => o.group == g.id && o.access)))

/-- The physical place of an access, or the page that it parks on. -/
def scopedPark (s : State) (w : Who) (p : Perm) (a : Nat) : Option Nat :=
  if a < 2 ^ 32 then none
  else match mainAcc s w.ctx a p with | .park pg => some pg | _ => none

/-- Where the `n` bytes of a scoped access lie: near memory, or the physical bytes behind a main address (13 R253); none where it
faults or parks. -/
def scopedLoc (s : State) (w : Who) (p : Perm) (a n : Nat) : Option Loc :=
  if a < 2 ^ 32 then nearLoc s w a n
  else match mainAcc s w.ctx a p with | .ok phys => some (.phys phys) | _ => none

/-- Count the access of a main address (04 R73). -/
def scopedCount (s : State) (w : Who) (p : Perm) (a : Nat) : State :=
  if a < 2 ^ 32 then s else match mainAcc s w.ctx a p with | .ok phys => bumpAccess s phys | _ => s

/-- A group's own accesses of a word: its view, and what its writes release. -/
structure Scope where
  view : View
  writer : Writer

/-- One lane (13 R253): the state, the value for `d`, the events, and the releases from which it reads. -/
def scopedLane (o : ScopedOp) (x : Issue) (t : Ty) (w : Who) (c : Scope) (s : State) (i a : Nat) :
    State × Nat × Events × List Release :=
  let n := t.width / 8
  let s := scopedCount s w o.perm a
  let v := srcVal x.e x.i.form.d x.e.slotD t i
  match scopedLoc s w o.perm a n with
  | none => (s, 0, {}, [])
  | some l =>
    match o with
    | .ldo =>
      (acquireAges s x.g.id (seenAges s c.view l n), locSeen s c.view l n, {}, releasesRead s (observes s c.view) l n)
    | .sto => (locStore s c.writer l n v, 0, {}, [])
    | _ =>
      let old := locGet s l n
      let nv := extraVal x.e.vec x.e (newPlace (x.e.vec && t.width == 64)) i % 2 ^ t.width
      let r := o.newValue t (engMode x.e.mode) old v nv
      (locStore (acquireAges s x.g.id (readAges s c.view (fun _ => true) l n)) c.writer l n r.1, old, r.2,
        releasesRead s (fun _ => true) l n)

/-- An access meets an uncorrectable error (13 R256, 21 R361). -/
def scopedBad (s : State) (w : Who) (p : Perm) (a n : Nat) : Bool :=
  let store := p == .write
  if a < 2 ^ 32 then nearBad s w store a n
  else match mainAcc s w.ctx a p with | .ok phys => physBad s store phys n | _ => false

/-- How far the lanes of a scoped access have come: their values and events, the lanes that park with their pages and lines, and
the lane and address of an error, past which none is applied. -/
structure Scoped where
  s : State
  read : List Release := []
  vals : List (Nat × Nat) := []
  ev : Events := {}
  parked : List (Nat × Nat × Nat) := []
  stop : Option (Nat × Nat) := none

/-- One more lane (13 R253, R256). -/
def scopedStep (o : ScopedOp) (x : Issue) (t : Ty) (w : Who) (c : Scope) (r : Scoped) (y : Nat × Nat) : Scoped :=
  if r.stop.isSome then r
  else match scopedPark r.s w o.perm y.2 with
    | some pg => { r with parked := r.parked ++ [(y.1, pg, y.2 / 64)] }
    | none =>
      if scopedBad r.s w o.perm y.2 (t.width / 8) then { r with stop := some y }
      else
        let q := scopedLane o x t w c r.s y.1 y.2
        { r with s := q.1, vals := (y.1, q.2.1) :: r.vals, ev := r.ev.plus q.2.2.1, read := r.read ++ q.2.2.2 }

/-- The value that a lane gives `d`: absent where it made no access. -/
def Scoped.val (r : Scoped) (t : Ty) (i : Nat) : Nat := match r.vals.find? (·.1 == i) with | some y => y.2 | none => t.na

/-- A word has read from releases: an acquire acquires from them, and its group's acquire fences may (13 R258, R261). -/
def afterReads (s : State) (g : Nat) (acquire : Bool) (m : BitVec 6) (l : List Release) : State :=
  keepReleases (if acquire then acquireFrom s g m l else s) g l

/-- The effect of a scoped access: lane by lane, ascending. Lanes that park leave the others done (04 R71); an error stops the
word at its lane, once no lane below it is parked. -/
def scopedBody (o : ScopedOp) (ord : BitVec 2) (m : BitVec 6) (x : Issue) : Except Stop Done :=
  let vec := x.e.vec
  let t := typeOf x.e.mode vec
  let w := whoOf x.s x.g
  let l := scopedLanes x
  match scopedFaults x.s w o.perm (o != .ldo) (t.width / 8) l with
  | some f => .error (.flt f)
  | none =>
    if ord.getLsbD 1 && releaseWaits x.s x.g m then .error (.wait .release)
    else
      let c : Scope :=
        { view := groupView x.s x.g, writer := groupWriter x.g (o != .sto) (releasesOf x.s x.g (ord.getLsbD 1) m) }
      let r := (l.filter (fun y => !x.badLane.any (· ≤ y.1))).foldl (scopedStep o x t w c) { s := x.s }
      let stop := lowerStop x.badLane r.stop
      let s := afterReads (chargeGroup r.s x.g r.ev) x.g.id (ord.getLsbD 0) m r.read
      let wide := t.width == 64
      match r.parked, stop with
      | [], none => .ok (.ok (if o = .sto then s else putLoad s x t (r.val t)))
      | [], some (k, a) => stopBad x s (o != .sto) wide k a (r.val t)
      | ps, _ =>
        let behind (i : Nat) : Bool := match stop with | some y => decide (y.1 ≤ i) | none => false
        let late (i : Nat) : Bool := behind i || ps.any (·.1 == i)
        let lanes := actingLanes x
        let (s, wt) := parkOn s w.ctx (sortNats (ps.map (·.2.1))) (sortNats (ps.map (·.2.2))) (dieOf w.phys) 0 x.g.granted
        if vec then stopAfter x s (o != .sto) wide (lanes.filter (fun i => !late i)) (lanes.filter late) (r.val t) (.inr wt)
        else .error (.part s x.e (.inr wt))

/-- `fence` (13 R261): a release for the group's later scoped writes, an acquire of what its earlier scoped accesses have read
from, or both. -/
def fenceBody (ord : BitVec 2) (m : BitVec 6) (x : Issue) : Except Stop Done :=
  if ord.getLsbD 1 && releaseWaits x.s x.g m then .error (.wait .release)
  else
    let s := if ord.getLsbD 0 then acquireFrom x.s x.g.id m (readReleases x.g) else x.s
    .ok (.ok (if ord.getLsbD 1 then
        modGroup s x.g.id (fun g => { g with fences := releaseOf s g m :: g.fences.filter (·.mask != m) })
      else s))

/-- `ldo` (13 R253). -/
def execLdo (e : Bool) (t : Bool) (d : Opnd) (a : Opnd) (o : BitVec 2) (m : BitVec 6) (s : State) :
    Host.Outcome State Fault Refusal := runWord (.ldo e t d a o m) s (planScoped .ldo) [] (scopedBody .ldo o m)

/-- `sto` (13 R253). -/
def execSto (e : Bool) (d : Opnd) (a : Opnd) (o : BitVec 2) (m : BitVec 6) (s : State) :
    Host.Outcome State Fault Refusal := runWord (.sto e d a o m) s (planScoped .sto) [] (scopedBody .sto o m)

/-- `aadd` (13 R253). -/
def execAadd (e : Bool) (t : Bool) (d : Opnd) (a : Opnd) (o : BitVec 2) (m : BitVec 6) (s : State) :
    Host.Outcome State Fault Refusal := runWord (.aadd e t d a o m) s (planScoped .aadd) [] (scopedBody .aadd o m)

/-- `amin` (13 R253). -/
def execAmin (e : Bool) (t : Bool) (d : Opnd) (a : Opnd) (o : BitVec 2) (m : BitVec 6) (s : State) :
    Host.Outcome State Fault Refusal := runWord (.amin e t d a o m) s (planScoped .amin) [] (scopedBody .amin o m)

/-- `amax` (13 R253). -/
def execAmax (e : Bool) (t : Bool) (d : Opnd) (a : Opnd) (o : BitVec 2) (m : BitVec 6) (s : State) :
    Host.Outcome State Fault Refusal := runWord (.amax e t d a o m) s (planScoped .amax) [] (scopedBody .amax o m)

/-- `aand` (13 R253). -/
def execAand (e : Bool) (t : Bool) (d : Opnd) (a : Opnd) (o : BitVec 2) (m : BitVec 6) (s : State) :
    Host.Outcome State Fault Refusal := runWord (.aand e t d a o m) s (planScoped .aand) [] (scopedBody .aand o m)

/-- `aor` (13 R253). -/
def execAor (e : Bool) (t : Bool) (d : Opnd) (a : Opnd) (o : BitVec 2) (m : BitVec 6) (s : State) :
    Host.Outcome State Fault Refusal := runWord (.aor e t d a o m) s (planScoped .aor) [] (scopedBody .aor o m)

/-- `axch` (13 R253). -/
def execAxch (e : Bool) (t : Bool) (d : Opnd) (a : Opnd) (o : BitVec 2) (m : BitVec 6) (s : State) :
    Host.Outcome State Fault Refusal := runWord (.axch e t d a o m) s (planScoped .axch) [] (scopedBody .axch o m)

/-- `acas` (13 R253). -/
def execAcas (e : Bool) (t : Bool) (d : Opnd) (a : Opnd) (o : BitVec 2) (m : BitVec 6) (s : State) :
    Host.Outcome State Fault Refusal := runWord (.acas e t d a o m) s (planScoped .acas) [] (scopedBody .acas o m)

/-- `axor` (13 R253). -/
def execAxor (e : Bool) (t : Bool) (d : Opnd) (a : Opnd) (o : BitVec 2) (m : BitVec 6) (s : State) :
    Host.Outcome State Fault Refusal := runWord (.axor e t d a o m) s (planScoped .axor) [] (scopedBody .axor o m)

/-- `fence` (13 R261). -/
def execFence (e : Bool) (o : BitVec 2) (m : BitVec 6) (s : State) :
    Host.Outcome State Fault Refusal := runWord (.fence e o m) s planNo [] (fenceBody o m)

end Sys2Proof.Machine
end

