-- ==== Sys2Proof/Machine/Sparse.lean ====
section
/-! DEFINITION. Sparse-tensor regions (05): descriptors, nodes and the index tree in main memory, and the sparse
instructions. -/

namespace Sys2Proof.Machine

/-- Go on with the answer of an access, or stop with it. -/
def eb {ε α β : Type} (x : ε ⊕ α) (f : α → ε ⊕ β) : ε ⊕ β := match x with | .inl e => .inl e | .inr a => f a

/-- The index unit's access to an aligned block of main memory. -/
def idxPhys (s : State) (ctx va : Nat) (p : Perm) : EStop ⊕ Nat :=
  if !isMain va then .inl (.flt 0x15)
  else match translate s ctx va with
    | .page phys size _ e => if permOk p e then .inr (phys + va % size) else .inl (.flt 0x15)
    | .nonResident pg e => if permOk p e then .inl (.park pg (va / 64)) else .inl (.flt 0x15)
    | .unmapped pg => .inl (.park pg (va / 64))
    | .refused => .inl (.flt 0x15)

/-- Its read of `n` bytes there, which an uncorrectable error stops (05 R91): their physical address. -/
def idxRead (s : State) (ctx va n : Nat) : EStop ⊕ Nat :=
  eb (idxPhys s ctx va .read) (fun p => if physBad s false p n then .inl (.flt 0x50) else .inr p)

/-! ### Descriptors (05 R90, R91) -/

/-- No node, and no free node. -/
def noNode : Nat := 0xFFFFFFFF

/-- A region descriptor with its address. -/
structure Desc where
  va : Nat
  pool : Nat
  cap : Nat
  hwm : Nat
  free : Nat
  freeLen : Nat
  root : Nat
  height : Nat
  ty : Nat
  state : Nat
  count : Nat
  nabs : Nat
  id : Nat
  rsv : Nat
  deriving DecidableEq, Repr

def readDesc (s : State) (ctx va : Nat) : EStop ⊕ Desc :=
  eb (idxRead s ctx va 64) (fun p =>
    let f (o n : Nat) : Nat := bytesGet s.mem (p + o) n
    .inr { va := va, pool := f 0 8, cap := f 8 4, hwm := f 0xC 4, free := f 0x10 4, freeLen := f 0x14 4, root := f 0x18 4,
           height := f 0x1C 2, ty := f 0x1E 1, state := f 0x1F 1, count := f 0x20 8, nabs := f 0x28 8, id := f 0x30 2, rsv := f 0x32 14 })

def writeDesc (s : State) (ctx : Nat) (d : Desc) : EStop ⊕ State :=
  eb (idxPhys s ctx d.va .write) (fun p =>
    let f (o n x : Nat) (s : State) : State := physSet s (p + o) n x
    .inr (bumpAccess (f 8 4 d.cap (f 0xC 4 d.hwm (f 0x10 4 d.free (f 0x14 4 d.freeLen (f 0x18 4 d.root
      (f 0x1C 2 d.height (f 0x20 8 d.count (f 0x28 8 d.nabs s)))))))) p))

/-- A region fails: its descriptor's state becomes 2, and the error is reported to the host (05 R91, 25 R382). -/
def breakRegion (s : State) (ctx va : Nat) : State :=
  match idxPhys s ctx va .write with
  | .inr p => if bytesGet s.mem (p + 0x1F) 1 = 2 then s else signal (physSet s (p + 0x1F) 1 2) 2
  | .inl _ => s

/-! ### Nodes (05 R93) -/

/-- A node of the index tree. -/
inductive Node where
  | leaf (left right : Nat) (ents : List (Nat × Nat))
  | inner (seps kids : List Nat)
  deriving DecidableEq, Repr

/-- Address of node i. -/
def Desc.nodeAt (d : Desc) (i : Nat) : Nat := d.pool + 256 * i

/-- The place of separator j. -/
def sepAt (j : Nat) : Nat := 0x10 + 8 * j

/-- Ranges of a node, by offset and length, hold zeros alone. -/
def zeroAt (f : Nat → Nat → Nat) (l : List (Nat × Nat)) : Bool := l.all (fun x => f x.1 x.2 == 0)

/-- Read a node of the tree. One of another kind or size, or with a byte set that the layout keeps zero, is refused as the
descriptor that it belongs to would be (00 R6; DEDUCED, log 64). -/
def readNode (s : State) (ctx : Nat) (d : Desc) (i : Nat) : EStop ⊕ Node :=
  eb (idxRead s ctx (d.nodeAt i) 256) (fun p =>
    let f (o n : Nat) : Nat := bytesGet s.mem (p + o) n
    let n := f 2 2
    if f 0 2 = 2 then
      if 2 ≤ n ∧ n ≤ 16 ∧ zeroAt f [(4, 12), (sepAt (n - 1), 8 * (17 - n)), (0x90 + 4 * n, 0x70 - 4 * n)] then
        .inr (.inner ((List.range (n - 1)).map (fun j => f (sepAt j) 8)) ((List.range n).map (fun j => f (0x90 + 4 * j) 4)))
      else .inl (.flt 0x15)
    else if f 0 2 = 1 ∧ n ≤ 16 ∧ zeroAt f [(0xC, 0x34), (0x40 + 8 * n, 0x80 - 8 * n), (0xC0 + 4 * n, 0x40 - 4 * n)] then
      .inr (.leaf (f 8 4) (f 4 4) ((List.range n).map (fun j => (f (0x40 + 8 * j) 8, f (0xC0 + 4 * j) 4))))
    else .inl (.flt 0x15))

/-- The bytes of a node. -/
def Node.cells : Node → Cells 8
  | .leaf l r es =>
    fieldCells ([(0, 1, 1), (2, 2, es.length), (4, 4, r), (8, 4, l)] ++
      (es.zipIdx).map (fun x => (0x40 + 8 * x.2, 8, x.1.1)) ++ (es.zipIdx).map (fun x => (0xC0 + 4 * x.2, 4, x.1.2)))
  | .inner seps kids =>
    fieldCells ([(0, 1, 2), (2, 2, kids.length)] ++
      (seps.zipIdx).map (fun x => (sepAt x.2, 8, x.1)) ++ (kids.zipIdx).map (fun x => (0x90 + 4 * x.2, 4, x.1)))

/-- Write the 256 bytes of a node. -/
def putNode (s : State) (ctx : Nat) (d : Desc) (i : Nat) (c : Cells 8) : EStop ⊕ State :=
  eb (idxPhys s ctx (d.nodeAt i) .write) (fun p =>
    .inr ((List.range 4).foldl (fun s k => bumpAccess s (p + 64 * k)) (physFill s p 256 c)))

def writeNode (s : State) (ctx : Nat) (d : Desc) (i : Nat) (n : Node) : EStop ⊕ State := putNode s ctx d i n.cells

/-- Take a node (05 R95): the head of the free list, else at the high-water mark. -/
def allocNode (s : State) (ctx : Nat) (d : Desc) : EStop ⊕ (Nat × Desc) :=
  if d.free ≠ noNode then
    eb (idxRead s ctx (d.nodeAt d.free) 256) (fun p =>
      if zeroAt (fun o n => bytesGet s.mem (p + o) n) [(0, 4), (8, 0xF8)] then
        .inr (d.free, { d with free := bytesGet s.mem (p + 4) 4, freeLen := d.freeLen - 1 })
      else .inl (.flt 0x15))
  else .inr (d.hwm, { d with hwm := d.hwm + 1 })

/-- Free a node to the head of the free list (05 R94). -/
def freeNode (s : State) (ctx : Nat) (d : Desc) (i : Nat) : EStop ⊕ (State × Desc) :=
  eb (putNode s ctx d i (fieldCells [(4, 4, d.free)])) (fun s => .inr (s, { d with free := i, freeLen := d.freeLen + 1 }))

/-- Change a leaf's left link. -/
def setLeft (s : State) (ctx : Nat) (d : Desc) (i left : Nat) : EStop ⊕ State :=
  if i = noNode then .inr s
  else eb (readNode s ctx d i) (fun n =>
    match n with
    | .leaf _ r es => writeNode s ctx d i (.leaf left r es)
    | _ => .inr s)

/-! ### The tree (05 R93 to R95) -/

/-- The child of an internal node under which a key lies. -/
def childOf (seps : List Nat) (key : Nat) : Nat := (seps.filter (fun x => decide (x ≤ key))).length

/-- The leaf under which a key lies, below a node of height `h`. -/
def leafOf (s : State) (ctx : Nat) (d : Desc) (key : Nat) : Nat → Nat → EStop ⊕ Node
  | 0, i => readNode s ctx d i
  | h + 1, i => eb (readNode s ctx d i) (fun n =>
    match n with
    | .inner seps kids => leafOf s ctx d key h (kids.getD (childOf seps key) 0)
    | n => .inr n)

/-- The value of a key. -/
def findKey (s : State) (ctx : Nat) (d : Desc) (key : Nat) : EStop ⊕ Option Nat :=
  if d.height = 0 then .inr none
  else eb (leafOf s ctx d key (d.height - 1) d.root) (fun n =>
    match n with
    | .leaf _ _ es => .inr ((es.find? (·.1 == key)).map (·.2))
    | _ => .inr none)

/-- The nodes on the way to the leaf of a key, from a node of height `h + 1` down. -/
def pathOf (s : State) (ctx : Nat) (d : Desc) (key : Nat) : Nat → Nat → List Nat
  | 0, i => [i]
  | h + 1, i => i :: (match readNode s ctx d i with
    | .inr (.inner seps kids) => pathOf s ctx d key h (kids.getD (childOf seps key) 0)
    | _ => [])

/-- Count the line accesses with which the index unit reads a descriptor and nodes (04 R73; log 41). -/
def countNodes (s : State) (ctx : Nat) (d : Desc) (nodes : List Nat) : State :=
  (d.va :: nodes.flatMap (fun i => (List.range 4).map (fun k => d.nodeAt i + 64 * k))).foldl (fun s va =>
    match idxPhys s ctx va .read with | .inr p => bumpAccess s p | .inl _ => s) s

/-- The same of a search for a key. -/
def countKey (s : State) (ctx : Nat) (d : Desc) (key : Nat) : State :=
  countNodes s ctx d (if d.height = 0 then [] else pathOf s ctx d key (d.height - 1) d.root)

/-- Insert or replace in an ascending list of entries. -/
def insertEnt (key val : Nat) : List (Nat × Nat) → List (Nat × Nat)
  | [] => [(key, val)]
  | e :: es => if key < e.1 then (key, val) :: e :: es else if key = e.1 then (key, val) :: es else e :: insertEnt key val es

/-- Insert at a place of a list. -/
def insertAt {α : Type} (l : List α) (j : Nat) (x : α) : List α := l.take j ++ x :: l.drop j

/-- Insert or replace a key below node i of height `h + 1` (05 R94): a split's separator and new node. -/
def insertKey (ctx key val : Nat) : Nat → State → Desc → Nat → EStop ⊕ (State × Desc × Option (Nat × Nat))
  | h, s, d, i => eb (readNode s ctx d i) (fun n =>
    match h, n with
    | _, .leaf l r es =>
      let es := insertEnt key val es
      if es.length ≤ 16 then eb (writeNode s ctx d i (.leaf l r es)) (fun s => .inr (s, d, none))
      else
        eb (allocNode s ctx d) (fun nd =>
          let (j, d) := nd
          let hi := es.drop 8
          eb (writeNode s ctx d i (.leaf l j (es.take 8))) (fun s =>
            eb (writeNode s ctx d j (.leaf i r hi)) (fun s =>
              eb (setLeft s ctx d r j) (fun s => .inr (s, d, some ((hi.headD (0, 0)).1, j))))))
    | h + 1, .inner seps kids =>
      let c := childOf seps key
      eb (insertKey ctx key val h s d (kids.getD c 0)) (fun r =>
        let (s, d, up) := r
        match up with
        | none => .inr (s, d, none)
        | some (sep, new) =>
          let seps := insertAt seps c sep
          let kids := insertAt kids (c + 1) new
          if kids.length ≤ 16 then eb (writeNode s ctx d i (.inner seps kids)) (fun s => .inr (s, d, none))
          else
            eb (allocNode s ctx d) (fun nd =>
              let (j, d) := nd
              eb (writeNode s ctx d i (.inner (seps.take 7) (kids.take 8))) (fun s =>
                eb (writeNode s ctx d j (.inner (seps.drop 8) (kids.drop 8))) (fun s =>
                  .inr (s, d, some (seps.getD 7 0, j))))))
    | 0, .inner _ _ => .inr (s, d, none))

/-- Insert or replace in the whole tree: a first leaf, or a split of the root. -/
def insertRoot (s : State) (ctx : Nat) (d : Desc) (key val : Nat) : EStop ⊕ (State × Desc) :=
  if d.height = 0 then
    eb (allocNode s ctx d) (fun nd =>
      let (i, d) := nd
      eb (writeNode s ctx d i (.leaf noNode noNode [(key, val)])) (fun s => .inr (s, { d with root := i, height := 1 })))
  else
    eb (insertKey ctx key val (d.height - 1) s d d.root) (fun r =>
      let (s, d, up) := r
      match up with
      | none => .inr (s, d)
      | some (sep, new) =>
        eb (allocNode s ctx d) (fun nd =>
          let (i, d) := nd
          eb (writeNode s ctx d i (.inner [sep] [d.root, new])) (fun s =>
            .inr (s, { d with root := i, height := d.height + 1 }))))

/-- Join two neighbouring children (05 R94), `c` the left one: both nodes and their parent's lists after it. -/
def joinKids (s : State) (ctx : Nat) (d : Desc) (seps kids : List Nat) (c : Nat) :
    EStop ⊕ (State × Desc × List Nat × List Nat) :=
  let a := kids.getD c 0
  let b := kids.getD (c + 1) 0
  eb (readNode s ctx d a) (fun x => eb (readNode s ctx d b) (fun y =>
    match x, y with
    | .leaf l _ es, .leaf _ r fs =>
      let all := es ++ fs
      if all.length ≤ 16 then
        eb (writeNode s ctx d a (.leaf l r all)) (fun s =>
          eb (setLeft s ctx d r a) (fun s =>
            eb (freeNode s ctx d b) (fun z => .inr (z.1, z.2, seps.eraseIdx c, kids.eraseIdx (c + 1)))))
      else
        let k := all.length / 2
        eb (writeNode s ctx d a (.leaf l b (all.take k))) (fun s =>
          eb (writeNode s ctx d b (.leaf a r (all.drop k))) (fun s =>
            .inr (s, d, seps.set c ((all.drop k).headD (0, 0)).1, kids)))
    | .inner p ps, .inner q qs =>
      let sp := p ++ seps.getD c 0 :: q
      let kd := ps ++ qs
      if kd.length ≤ 16 then
        eb (writeNode s ctx d a (.inner sp kd)) (fun s =>
          eb (freeNode s ctx d b) (fun z => .inr (z.1, z.2, seps.eraseIdx c, kids.eraseIdx (c + 1))))
      else
        let k := kd.length / 2
        eb (writeNode s ctx d a (.inner (sp.take (k - 1)) (kd.take k))) (fun s =>
          eb (writeNode s ctx d b (.inner (sp.drop k) (kd.drop k))) (fun s =>
            .inr (s, d, seps.set c (sp.getD (k - 1) 0), kids)))
    | _, _ => .inr (s, d, seps, kids)))

/-- Delete a key below node i of height `h + 1`: the node's new size, and its smallest key where that changed (a separator
names the smallest key under its child, 05 R93) (DEDUCED, log 46). -/
def deleteKey (ctx key : Nat) : Nat → State → Desc → Nat → EStop ⊕ (State × Desc × Nat × Option Nat)
  | h, s, d, i => eb (readNode s ctx d i) (fun n =>
    match h, n with
    | _, .leaf l r es =>
      let es' := es.filter (·.1 != key)
      eb (writeNode s ctx d i (.leaf l r es')) (fun s =>
        .inr (s, d, es'.length, if (es.headD (0, 0)).1 = key then es'.head?.map (·.1) else none))
    | h + 1, .inner seps kids =>
      let c := childOf seps key
      eb (deleteKey ctx key h s d (kids.getD c 0)) (fun r =>
        let (s, d, size, low) := r
        let seps' := match low with | some k => if c = 0 then seps else seps.set (c - 1) k | none => seps
        let up := if c = 0 then low else none
        let fin (s : State) (d : Desc) (sp kd : List Nat) : EStop ⊕ (State × Desc × Nat × Option Nat) :=
          eb (writeNode s ctx d i (.inner sp kd)) (fun s => .inr (s, d, kd.length, up))
        if size < 4 ∧ 2 ≤ kids.length then
          eb (joinKids s ctx d seps' kids (if c + 1 < kids.length then c else c - 1)) (fun z => fin z.1 z.2.1 z.2.2.1 z.2.2.2)
        else fin s d seps' kids)
    | 0, .inner _ _ => .inr (s, d, 16, none))

/-- Delete a key that the tree holds, and shrink the root (05 R94). -/
def deleteRoot (s : State) (ctx : Nat) (d : Desc) (key : Nat) : EStop ⊕ (State × Desc) :=
  eb (deleteKey ctx key (d.height - 1) s d d.root) (fun r =>
    let (s, d, size, _) := r
    if d.height = 1 then
      if size = 0 then eb (freeNode s ctx d d.root) (fun z => .inr (z.1, { z.2 with root := noNode, height := 0 }))
      else .inr (s, d)
    else if size = 1 then
      eb (idxRead s ctx (d.nodeAt d.root) 256) (fun p =>
        let kid := bytesGet s.mem (p + 0x90) 4
        eb (freeNode s ctx d d.root) (fun z => .inr (z.1, { z.2 with root := kid, height := z.2.height - 1 })))
    else .inr (s, d))

/-! ### Single-key operations (05 R96) -/

/-- A code equal to zero of its type (05 R96): either zero of a float, the zero bits elsewhere; e8m0 has none. -/
def isZeroCode (t : Ty) (x : Nat) : Bool :=
  match t with
  | .e8m0 => false
  | .flt e f => x % 2 ^ (e + f) == 0
  | _ => x == 0

/-- Give a key a value: a zero deletes; anything else inserts or replaces, after the check of 05 R95, before which nothing of the
tree is read. -/
def storeKey (s : State) (ctx : Nat) (d : Desc) (t : Ty) (key val : Nat) : EStop ⊕ State :=
  if !isZeroCode t val && decide (d.freeLen + (d.cap - d.hwm) < d.height + 1) then .inl (.flt 0x20)
  else eb (findKey s ctx d key) (fun old =>
    let gone (x : Nat) : Nat := if t.present x then 0 else 1
    let was := match old with | some x => gone x | none => 0
    if isZeroCode t val then
      match old with
      | none => .inr (countKey s ctx d key)
      | some _ =>
        eb (deleteRoot (countKey s ctx d key) ctx d key) (fun z =>
          writeDesc z.1 ctx { z.2 with count := z.2.count - 1, nabs := z.2.nabs - was })
    else
      eb (insertRoot (countKey s ctx d key) ctx d key val) (fun z =>
        writeDesc z.1 ctx { z.2 with count := z.2.count + (if old.isSome then 0 else 1), nabs := z.2.nabs + gone val - was }))

/-- The entries above a cursor, ascending, at most `n`, along the leaf chain. -/
def entriesFrom (s : State) (ctx : Nat) (d : Desc) (cursor : Option Nat) : Nat → Node → Nat → EStop ⊕ List (Nat × Nat)
  | 0, _, _ => .inr []
  | fuel + 1, node, n =>
    match node with
    | .leaf _ r es =>
      let l := (es.filter (fun e => match cursor with | some c => decide (c < e.1) | none => true)).take n
      if n ≤ l.length ∨ r = noNode then .inr l
      else eb (readNode s ctx d r) (fun nx => eb (entriesFrom s ctx d cursor fuel nx (n - l.length)) (fun m => .inr (l ++ m)))
    | _ => .inr []

/-- The leaves that such a walk reads from one of them on. -/
def leavesFrom (s : State) (ctx : Nat) (d : Desc) (cursor : Option Nat) : Nat → Nat → Nat → List Nat
  | 0, _, _ => []
  | fuel + 1, i, n =>
    i :: (match readNode s ctx d i with
      | .inr (.leaf _ r es) =>
        let l := (es.filter (fun e => match cursor with | some c => decide (c < e.1) | none => true)).take n
        if n ≤ l.length ∨ r = noNode then [] else leavesFrom s ctx d cursor fuel r (n - l.length)
      | _ => [])

/-- Count the reads of a walk from a cursor. -/
def countWalk (s : State) (ctx : Nat) (d : Desc) (cursor : Option Nat) (n : Nat) : State :=
  if d.height = 0 then countNodes s ctx d []
  else
    let path := pathOf s ctx d (cursor.getD 0) (d.height - 1) d.root
    countNodes s ctx d (path ++ leavesFrom s ctx d cursor (n + 2) (path.getLastD 0) n)

/-- The first `n` entries with a key above the cursor (05 R105). A present cursor is compared as its 64 unsigned bits, so that
none follows one with bit 63 set (DESIGN CHOICE, log 71). -/
def nextEntries (s : State) (ctx : Nat) (d : Desc) (cursor : Option Nat) (n : Nat) : EStop ⊕ List (Nat × Nat) :=
  if d.height = 0 then .inr []
  else eb (leafOf s ctx d (match cursor with | some c => c | none => 0) (d.height - 1) d.root) (fun leaf =>
    entriesFrom s ctx d cursor (n + 2) leaf n)

/-! ### The instructions (05 R100 to R109) -/

/-- A register with offset k from an operand, as a field code. -/
def codeAfter (f : Option (Role × Opnd)) (k : Nat) : Nat :=
  match f with | some (_, .v n) => n.val + k | some (_, .s n) => 0xC0 + n.val + k | _ => 0

/-- The registers from an operand to offset k stay within its file. -/
def fitsAfter (f : Option (Role × Opnd)) (k : Nat) : Bool :=
  match f with | some (_, .v n) => decide (n.val + k ≤ 191) | some (_, .s n) => decide (n.val + k ≤ 55) | _ => true

/-- The record checks of 05 R108, step 1; `tyCode` is the mode's type where the word works at the region's. Auxiliary bits
[63:16] of a record, and a region of 64-bit values, meet no rule that refuses them: the bits are ignored, and such a value keeps
its low 32 bits (DESIGN CHOICE, log 64). -/
def sparseRecord (h : Shape) (tyCode : Option Nat) (add : Bool) : Option FaultInfo :=
  let bad : Option FaultInfo := some (fault 0x02 0)
  if !h.valid || h.cls != 1 then bad
  else match tyCode with
    | some c =>
      if c ≠ h.type then some (fault 0x02 c)
      else if add && h.type == 0x40 then some (fault 0x02 c)
      else if 2 ^ 63 < h.count then bad else none
    | none => if 2 ^ 63 < h.count then bad else none

/-- The plan of `spld`, `spst` and `spadd`. -/
def planSparse (n : Nat) (x : Issue) : Plan :=
  let f := x.i.form
  let vec := kindOf x
  let code := modeTypeCode x.g.mode vec
  let t := typeOf x.g.mode vec
  let h := Shape.of (hGet x.g n)
  let ld := f.result
  { bad := (isS f.d && vec && ld) || !fitsAfter f.a (h.rank - 1) || (readsRm x.i t && modeField x.g.mode 11 3 == 7)
    vec := vec, ty := some code
    own := sparseRecord h (some code) (match x.i with | .spadd .. => true | _ => false)
    readA := true, readD := !ld, naD := t.na
    extra := (List.range (h.rank - 1)).map (fun k => (codeAfter f.a (k + 1), false))
    places := (coordPlaces f).take (h.rank - 1)
    writes := if f.t || !ld then [] else if vec && t.width == 64 then [codeAfter f.d 0, codeAfter f.d 1] else [codeAfter f.d 0]
    stops := true
    active := if vec then activeSet x.g else 0 }

def sparseCoords (x : Issue) (rank i : Nat) : List Coord := entryCoords x.i.form x.e rank i

/-- The region's descriptor with the checks of 05 R108; none with an absent base. `ty` is the type of a word that works at the
region's, whose mismatch comes first (R101): `spcnt`, `spgrow` and `copy.dns` take a descriptor of any type that there is (DESIGN
CHOICE, log 71). A reserved field that is not zero, a reserved type code, or a pool that is not aligned, is refused as a descriptor
that is not live (00 R6; DEDUCED, log 64). Identifier 0, outside the range of R89, passes where both hold it (DESIGN CHOICE, log
71). -/
def openRegion (s : State) (ctx : Nat) (h : Shape) (ty : Option Nat) : EStop ⊕ Option Desc :=
  if h.absent then .inr none
  else if !isMain h.base then .inl (.flt 0x15)
  else if h.base % 64 ≠ 0 then .inl (.flt 0x12)
  else eb (readDesc s ctx h.base) (fun d =>
    if ty.any (· != d.ty) then .inl (.flt 0x02)
    else if d.id ≠ h.aux % 65536 then .inl (.flt 0x15)
    else if d.state = 2 then .inl (.flt 0x50)
    else if d.state ≠ 1 ∨ d.rsv ≠ 0 ∨ d.pool % 256 ≠ 0 ∨ Ty.ofCode d.ty = none then .inl (.flt 0x15)
    else .inr (some d))

/-- A region is live from its first operation on (05 R91). -/
def markRegion (s : State) (ctx : Nat) (d : Option Desc) : State :=
  match d with
  | none => s
  | some d => modCtx s ctx (fun c => { c with
      regions := c.regions.filter (·.desc != d.va) ++ [{ id := d.id, desc := d.va, pool := d.pool, cap := d.cap }] })

/-- The die of a region's index unit (05 R89): the identifier modulo 4 names it as the context sees it. -/
def homeDie (s : State) (ctx : Nat) (h : Shape) : Nat := physDie s ctx (h.aux % 65536 % 4)

/-- The group waits for the answer of the index unit (05 R98). -/
def awaitSparse (s : State) (x : Issue) (h : Shape) : State :=
  modGroup s x.g.id (fun g => { g with wait := some (.sparse (homeDie s (whoOf s g).ctx h) x.e.word x.e.addr) })

/-- The fault of a stop at a region, by cause. -/
def sparseFault (h : Shape) (c : Nat) : FaultInfo :=
  fault c (if c = 0x20 then h.aux % 65536 else if c = 0x02 then h.type else h.base)

/-- The state in which a cause leaves the region: an error breaks it. -/
def sparseFailed (h : Shape) (s : State) (ctx c : Nat) : State := if c = 0x50 then breakRegion s ctx h.base else s

/-- A sparse operation parks on a page, in the fault buffer of its index unit, which parks one operation at a time (04 R72). -/
def parkSparse (s : State) (x : Issue) (h : Shape) (page line : Nat) : State × Wait :=
  let ctx := (whoOf s x.g).ctx
  parkOn s ctx [page] [line] (homeDie s ctx h) 3 x.g.granted

/-- What a stop at a region leaves: a fault, or a wait for a page. -/
def sparseHalt (x : Issue) (h : Shape) (s : State) (e : EStop) : State × (FaultInfo ⊕ Wait) :=
  match e with
  | .flt c => (sparseFailed h s (whoOf s x.g).ctx c, .inl (sparseFault h c))
  | .park pg line => let (s, w) := parkSparse s x h pg line; (s, .inr w)

/-- Stop before anything is applied. -/
def stopWhole (x : Issue) (h : Shape) (e : EStop) : Except Stop Done :=
  let (s, why) := sparseHalt x h x.s e
  .error (.part s x.e why)

/-- Apply lanes in ascending order until one stops: the state, the lanes done with their values, and the stop. -/
def applyLanes {ε : Type} (f : State → Nat → ε ⊕ (State × Nat)) (lanes : List Nat) (s : State) :
    State × List (Nat × Nat) × Option (Nat × ε) :=
  lanes.foldl (fun (acc : State × List (Nat × Nat) × Option (Nat × ε)) i =>
    match acc.2.2 with
    | some _ => acc
    | none =>
      (match f acc.1 i with
       | .inl e => (acc.1, acc.2.1, some (i, e))
       | .inr (s, v) => (s, (i, v) :: acc.2.1, none))) (s, [], none)

/-- The body of a word that an engine applies lane by lane with the group waiting (05 R108): `writes` for a destination
register of type t; `halt` gives the state, and the fault or the wait, of a stop; `await` sets the wait for the answer. -/
def laneEngine {ε : Type} (x : Issue) (t : Ty) (writes : Bool) (halt : State → ε → State × (FaultInfo ⊕ Wait))
    (await : State → State) (f : State → Nat → ε ⊕ (State × Nat)) : Except Stop Done :=
  let lanes := (actingLanes x).filter (fun i => decide (x.e.first ≤ i))
  let r := applyLanes f (lanes.filter (fun i => !x.badLane.any (· ≤ i))) x.s
  let val (i : Nat) : Nat := match r.2.1.find? (·.1 == i) with | some y => y.2 | none => 0
  match r.2.2, x.badLane with
  | none, none =>
    let s := if writes then putLoad r.1 x t val else r.1
    .ok (.ok (await s))
  | none, some k => stopBad x r.1 writes (t.width == 64) k na64 val
  | some (k, stop), _ =>
    let (s, why) := halt r.1 stop
    let why : FaultInfo ⊕ Wait := match why with
      | .inl f => .inl { f with lane := if x.e.vec then BitVec.ofNat 32 k else 0xFFFFFFFF }
      | .inr w => .inr w
    if x.e.vec then
      stopAfter x s writes (t.width == 64) (r.2.1.map (·.1)) (lanes.filter (fun i => decide (k ≤ i))) val why
    else .error (.part s x.e why)

/-- The grid of a group. -/
def gridId (s : State) (g : Group) : Nat := match getTeam s g.team with | some t => t.grid | none => 0

/-- One lane of `spld`, `spst` or `spadd` (05 R102 to R104). -/
def sparseLane (x : Issue) (h : Shape) (t : Ty) (s : State) (i : Nat) : EStop ⊕ (State × Nat) :=
  let ctx := (whoOf x.s x.g).ctx
  let discard : State := charge s (gridId s x.g) h.tid { discard := 1 }
  let v := srcVal x.e x.i.form.d x.e.slotD t i
  let c := sparseCoords x h.rank i
  match (match x.i with | .spld .. => sparseKey h c | _ => sparseTarget h c) with
  | none => (match x.i with | .spld .. => .inr (s, h.fill) | _ => .inr (discard, 0))
  | some key =>
    eb (readDesc s ctx h.base) (fun d =>
      match x.i with
      | .spld .. => eb (findKey s ctx d key) (fun o => .inr (countKey s ctx d key, o.getD 0 % 2 ^ t.width))
      | .spst .. => eb (storeKey s ctx d t key v) (fun s => .inr (s, 0))
      | _ =>
        eb (findKey s ctx d key) (fun o =>
          let lane := if x.e.vec then i else 0
          let r := op2 .add t (roundMode x.e.mode) (rngOf (groupNow s x) lane) (o.getD 0 % 2 ^ t.width) v
          eb (storeKey s ctx d t key r.code) (fun s =>
            .inr (charge (setGroup s (setRng (groupNow s x) lane r.s)) (gridId s x.g) h.tid r.events, 0))))

/-- `spld`, `spst` and `spadd`. -/
def sparseBody (n : Nat) (x : Issue) : Except Stop Done :=
  let ctx := (whoOf x.s x.g).ctx
  let h := Shape.of (hGet x.g n)
  let t := typeOf x.e.mode x.e.vec
  match openRegion x.s ctx h (some h.type) with
  | .inl e => stopWhole x h e
  | .inr d =>
    laneEngine { x with s := markRegion x.s ctx d } t x.i.form.result (sparseHalt x h) (fun s => awaitSparse s x h) (sparseLane x h t)

/-- The plan of `spit`: the keys go to the pair `d`, the values after it, the cursor to `a`. A scalar key takes one register, so
an odd scalar `d` is legal (05 R100; DEDUCED, log 64). -/
def planSpit (n : Nat) (x : Issue) : Plan :=
  let f := x.i.form
  let vec := isV f.d
  let code := modeTypeCode x.g.mode vec
  let h := Shape.of (hGet x.g n)
  { bad := oddV f.d || !fitsAfter f.d (if vec then 2 else 1)
    vec := vec, ty := some code, own := sparseRecord h (some code) false
    readA := true, naA := na64
    writes := (if vec then [codeAfter f.d 0, codeAfter f.d 1, codeAfter f.d 2] else [codeAfter f.d 0, codeAfter f.d 1]) ++
      [codeAfter f.a 0]
    active := if vec then activeSet x.g else 0 }

/-- `spit` (05 R105). -/
def spitBody (n : Nat) (x : Issue) : Except Stop Done :=
  let ctx := (whoOf x.s x.g).ctx
  let h := Shape.of (hGet x.g n)
  let t := typeOf x.e.mode x.e.vec
  let cur := scalarA x
  let lanes := actingLanes x
  match eb (openRegion x.s ctx h (some h.type)) (fun d =>
    match d with
    | none => (.inr (none, []) : EStop ⊕ (Option Desc × List (Nat × Nat)))
    | some d => eb (nextEntries x.s ctx d (if cur = na64 then none else some cur) lanes.length) (fun l => .inr (some d, l))) with
  | .inl e => stopWhole x h e
  | .inr (d, l) =>
    let s := match d with
      | some y => countWalk x.s ctx y (if cur = na64 then none else some cur) lanes.length
      | none => x.s
    let at_ (i : Nat) : Option (Nat × Nat) := ((lanes.zip l).find? (·.1 == i)).map (·.2)
    let key (i : Nat) : Nat := match at_ i with | some e => e.1 | none => na64
    let val (i : Nat) : Nat := match at_ i with | some e => e.2 % 2 ^ t.width | none => t.na
    let f := x.i.form
    let dn := destReg f.d
    let s := markRegion s ctx d
    let s :=
      if x.e.vec then
        -- the values follow the zero flag as any vector write does, outside the latches
        let g := groupNow s x
        let others := if zeroFlag x.e.mode then (List.range g.width).filter (fun i => !x.e.active.getLsbD i) else []
        let s := partVec s g (dn + 2) false (lanes ++ others) (fun i => if x.e.active.getLsbD i then val i else 0)
        putVec s (groupNow s x) x.e false dn true x.e.active key
      else
        let s := putPlain s (groupNow s x) (dn + 1) (val 0)
        putScalar s (groupNow s x) x.e false dn (key 0)
    let s := match l.getLast? with
      | some e => putPlain s (groupNow s x) (destReg f.a) e.1
      | none => s
    .ok (.ok (awaitSparse s x h))

/-- `spcnt` writes the two counts of the descriptor (05 R106). With an absent base the spec states no counts: free
(DESIGN CHOICE, log 21). -/
def planSpcnt (n : Nat) (x : Issue) : Plan :=
  let d := destReg x.i.form.d
  { own := sparseRecord (Shape.of (hGet x.g n)) none false, writes := [0xC0 + d, 0xC0 + d + 1] }

def spcntBody (n : Nat) (x : Issue) : Except Stop Done :=
  let ctx := (whoOf x.s x.g).ctx
  let h := Shape.of (hGet x.g n)
  match openRegion x.s ctx h none with
  | .inl e => stopWhole x h e
  | .inr d =>
    let c := match d with | some d => d.count | none => Config.freeElement 10 n 0
    let a := match d with | some d => d.nabs | none => Config.freeElement 10 n 1
    let r := destReg x.i.form.d
    let s := match d with | some y => countNodes x.s ctx y [] | none => x.s
    let s := putPlain (markRegion s ctx d) x.g (r + 1) a
    .ok (.ok (awaitSparse (putScalar s (groupNow s x) x.e false r c) x h))

/-- The plan of `spgrow`. -/
def planSpgrow (n : Nat) (x : Issue) : Plan :=
  { planAD x with own := sparseRecord (Shape.of (hGet x.g n)) none false }

/-- `spgrow` (05 R107). -/
def spgrowBody (n : Nat) (x : Issue) : Except Stop Done :=
  let ctx := (whoOf x.s x.g).ctx
  let h := Shape.of (hGet x.g n)
  let a := scalarA x
  match eb (openRegion x.s ctx h none) (fun d =>
    match d with
    | none => (.inr (x.s, Config.freeElement 10 n 2) : EStop ⊕ (State × Nat))
    | some d =>
      let c := if a = na64 then d.cap else min (d.cap + a) 0xFFFFFFFF
      eb (writeDesc x.s ctx { d with cap := c }) (fun s => .inr (markRegion s ctx (some { d with cap := c }), c))) with
  | .inl e => stopWhole x h e
  | .inr (s, c) =>
    .ok (.ok (awaitSparse (putScalar s (groupNow s x) x.e x.i.form.t (destReg x.i.form.d) c) x h))

/-- `spld` (05 R102). -/
def execSpld (e : Bool) (t : Bool) (d : Opnd) (a : Opnd) (h : BitVec 3) (s : State) :
    Host.Outcome State Fault Refusal := runWord (.spld e t d a h) s (planSparse h.toNat) [] (sparseBody h.toNat)

/-- `spst` (05 R103). -/
def execSpst (e : Bool) (d : Opnd) (a : Opnd) (h : BitVec 3) (s : State) :
    Host.Outcome State Fault Refusal := runWord (.spst e d a h) s (planSparse h.toNat) [] (sparseBody h.toNat)

/-- `spadd` (05 R104). -/
def execSpadd (e : Bool) (d : Opnd) (a : Opnd) (h : BitVec 3) (s : State) :
    Host.Outcome State Fault Refusal := runWord (.spadd e d a h) s (planSparse h.toNat) [] (sparseBody h.toNat)

/-- `spit` (05 R105). -/
def execSpit (e : Bool) (d : Opnd) (a : Opnd) (h : BitVec 3) (s : State) :
    Host.Outcome State Fault Refusal := runWord (.spit e d a h) s (planSpit h.toNat) [] (spitBody h.toNat)

/-- `spcnt` (05 R106). -/
def execSpcnt (e : Bool) (d : Opnd) (h : BitVec 3) (s : State) :
    Host.Outcome State Fault Refusal := runWord (.spcnt e d h) s (planSpcnt h.toNat) [] (spcntBody h.toNat)

/-- `spgrow` (05 R107). -/
def execSpgrow (e : Bool) (t : Bool) (d : Opnd) (a : Opnd) (h : BitVec 3) (s : State) :
    Host.Outcome State Fault Refusal := runWord (.spgrow e t d a h) s (planSpgrow h.toNat) [] (spgrowBody h.toNat)

end Sys2Proof.Machine
end

