-- ==== Sys2Proof/Machine/Copy.lean ====
section
/-! DEFINITION. The copy engines and the fetch unit (06 R111 to R125): what an instruction checks at issue, and what its
operation does when it runs. -/

namespace Sys2Proof.Machine

/-! ### Issue (06 R111 to R116) -/

/-- Where a record's base must lie. -/
inductive Side where
  | near | main | any
  deriving DecidableEq, Repr

/-- A base of the right kind; an absent base is of neither kind and passes (06 R116), and a present one that is no near and no
main address is of the wrong kind (DESIGN CHOICE, log 71). -/
def Side.ok (p : Side) (h : Shape) : Bool :=
  h.absent || (match p with | .near => h.near | .main => h.main | .any => h.near || h.main)

/-- What the table of 06 R113 says of an instruction. -/
structure CopySpec where
  src : Side := .main
  srcCls : List Nat := [0, 2, 3]
  dst : Option Side := some .near        -- none for `copy.mig`
  dstCls : Nat := 0
  ranks : Shape → Shape → Bool := fun hs hd => hs.rank == hd.rank
  list : Bool := false                   -- `S[n]` is a list address
  bySource : Bool := false               -- the source record bounds the box (06 R114)

/-- The row of an instruction. -/
def copySpec (i : Instr) : CopySpec :=
  let two (hs hd : Shape) : Bool := hs.rank == 2 && hd.rank == 2
  match i with
  | .copyOut .. => { src := .near, srcCls := [0], dst := some .main }
  | .copyOutz .. => { src := .near, srcCls := [0], dst := some .main, dstCls := 3 }
  | .copyNn .. => { src := .near, srcCls := [0] }
  | .copyRdAdd .. => { src := .any, srcCls := [0], dst := some .any }
  | .copyRdMin .. => { src := .any, srcCls := [0], dst := some .any }
  | .copyRdMax .. => { src := .any, srcCls := [0], dst := some .any }
  | .copyGth .. => { src := .any, srcCls := [0, 2], ranks := two, list := true }
  | .copySct .. => { src := .near, srcCls := [0], dst := some .any, ranks := two, list := true, bySource := true }
  | .copyBlk .. => { srcCls := [0, 2], ranks := fun hs hd => two hs hd && hd.extAt 0 == 32, list := true }
  | .copyDns .. => { srcCls := [1], dst := some .any }
  | .copyMig .. => { dst := none, bySource := true }
  | .fetchLst .. => { ranks := fun _ hd => hd.rank == 1, list := true }
  | _ => {}

/-- The combination of a `copy.rd`. -/
def copyComb : Instr → Option OpC
  | .copyRdAdd .. => some .add
  | .copyRdMin .. => some .min
  | .copyRdMax .. => some .max
  | _ => none

/-- The operation reads the rounding field: one of its conversions rounds (a block-scaled source always does, to a typed
format), or it adds at F or B8 (02 R33). A conversion from raw8 or e8m0 to e8m0 rounds nothing, and is taken not to read it
(DESIGN CHOICE, log 71). -/
def engineRounds (i : Instr) (hs hd : Shape) : Bool :=
  convertRounds hs.ty hd.ty || (hs.cls == 2 && (hd.ty.isF8 || hd.ty == .e8m0 || hd.ty.isInt)) ||
  (copyComb i == some .add && hd.ty.isF8)

/-- The faults of a record pair at issue (06 R116, 1 and 2). -/
def copyRecords (c : CopySpec) (hs hd : Shape) : Option FaultInfo :=
  let box := if c.bySource then hs.count else hd.count
  let dstBad := c.dst.isSome && (!hd.valid || hd.cls != c.dstCls || !c.ranks hs hd || convertRefused hs.ty hd.ty)
  if !hs.valid || !c.srcCls.contains hs.cls || dstBad || 2 ^ 40 < box || (hs.cls == 1 && 2 ^ 63 < hs.count) then
    some (fault 0x02 0)
  else if !c.src.ok hs then some (fault 0x15 hs.base)
  else match c.dst with
    | some p => if p.ok hd then none else some (fault 0x15 hd.base)
    | none => none

/-- The fault of a list address (06 R116, 3); an absent one raises none (04 R67). -/
def listFault (s : State) (g : Group) (a : Nat) : Option FaultInfo :=
  (i64? a).bind (fun y => (nearFault s (whoOf s g) y 8 8).map (fun c => fault c a))

/-- The scalar registers that an instruction reads (06 R113, R125). -/
def copyScalars (i : Instr) (n rank : Nat) : List Nat :=
  match i with
  | .fetch .. => (List.range rank).map (fun k => n + k)
  | .copyMig .. => [n]
  | i => if (copySpec i).list then [n] else []

/-- The plan of a copy or fetch instruction. -/
def planCopy (d sr n : Nat) (x : Issue) : Plan :=
  let hd := Shape.of (hGet x.g d)
  let hs := Shape.of (hGet x.g sr)
  let rs := copyScalars x.i n hd.rank
  { bad := (x.i matches .fetch .. && rs.any (fun r => decide (31 < r))) ||
      ((copySpec x.i).dst.isSome && engineRounds x.i hs hd && modeField x.g.mode 11 3 == 7)
    extra := rs.map (fun r => (0xC0 + r, false)) }

/-- Issue a copy or fetch instruction. -/
def copyBody (kind : OpKind) (d sr tl n : Nat) (x : Issue) : Except Stop Done :=
  let c := copySpec x.i
  let rd := hGet x.g d
  let rs := hGet x.g sr
  let args := (List.range (copyScalars x.i n (Shape.of rd).rank).length).map (fun k => BitVec.ofNat 64 (scalarK x k))
  match copyRecords c (Shape.of rs) (Shape.of rd) with
  | some f => .error (.flt f)
  | none =>
    match (if c.list then listFault x.s x.g (scalarK x 0) else none) with
    | some f => .error (.flt f)
    | none =>
      match tlFull x.s x.g.team tl with
      | some f => .error (.flt f)
      | none => .ok (.ok (issueOp x.s x.g (blankOp kind tl x.e.word x.e.mode [rd, rs] args)))

/-! ### Running (06 R114 to R125) -/

/-- What an engine operation does: the operation with its progress, its run, its elements and the near address that each
names, and the tensor that its events are charged to. -/
structure EngineResult where
  op : EngineOp
  run : Run
  n : Nat := 0
  dest : Nat → Option Int := fun _ => none
  tensor : Nat := 0

/-- An operation that stops before its first element. -/
def EngineResult.stopped (s : State) (op : EngineOp) (e : EStop) : EngineResult :=
  match e with
  | .flt c => { op := op, run := { s := s, failed := some (0, c) } }
  | .park p l => { op := op, run := { s := s, pages := [p], lines := [l] } }

/-- End an operation with its result (06 R117, R127): parked with the elements that wait, whole, or failed at an element. -/
def finishEngine (r : EngineResult) : State :=
  let op := { r.op with next := r.run.next, pending := r.run.pending, wrote := r.run.wrote }
  let s := chargeOp r.run.s op r.tensor r.run.ev
  if r.run.pages.isEmpty then
    let s := fillGranules s (opEng op) r.n r.run.failed r.run.wrote r.dest
    endOp s op (r.run.failed.map (fun x => (BitVec.ofNat 64 x.1, BitVec.ofNat 8 x.2)))
  else parkOp s op r.run.pages r.run.lines

/-- Move one element, perhaps combining it into what is there: the latest value there is, so that no update is lost (06 R114, R120).
-/
def moveElem (e : Eng) (hs hd : Shape) (m : RMode) (rd : Option OpC) (src dst : List Coord) (s : State) : Moved :=
  match rd with
  | none =>
    eb (readElem s e hs src) (fun r =>
      let c := convElem hs.ty hd.ty m r.1
      eb (writeElem r.2 e hd dst c.code) (fun w => .inr (w.1, c.events.plus w.2.1, w.2.2)))
  | some o =>
    eb (readElem s { e with view := none } hd dst) (fun a =>
      eb (readElem a.2 e hs src) (fun r =>
        let old := match a.1 with | .code x _ => x | .scaled x _ => x
        let c := convElem hs.ty hd.ty m r.1
        let v := combInto o hd.ty m old c.code
        eb (writeElem r.2 { e with writer := { e.writer with update := true } } hd dst v.1) (fun w =>
          .inr (w.1, (c.events.plus v.2).plus w.2.1, w.2.2))))

/-- Element k moves from `src k` to `dst k`. -/
def runMoves (s : State) (op : EngineOp) (stopAt : Option (Nat × Nat)) (hs hd : Shape) (rd : Option OpC) (n : Nat)
    (src : Nat → State → EStop ⊕ List Coord) (dst : Nat → State → EStop ⊕ List Coord) : EngineResult :=
  let place (k : Nat) (s : State) : Option Int := match dst k s with | .inr b => hd.target b | .inl _ => none
  let r := runElems op n stopAt (fun k s =>
    eb (src k s) (fun a => eb (dst k s) (fun b => moveElem (opEngAt op k) hs hd (engMode op.mode) rd a b s))) place s
  { op := op, run := r, n := n, dest := fun k => if hd.near then place k r.s else none, tensor := hd.tid }

/-- Coordinates as exact sums: an index of 2^31 or above is out of the range of a coordinate, and so absent, as a sum is (04 R77;
DESIGN CHOICE, log 71). -/
def coordsOf (l : List Int) : List Coord := l.map coordOf

/-- Word k of a list's entries (06 R118). -/
def listWord (s : State) (e : Eng) (at_ k : Nat) : EStop ⊕ Nat :=
  eb (engRead s e true (Int.ofNat (at_ + 8 + 4 * k)) 4 4) (fun r => .inr r.1)

/-- A count read from near memory, absent as zero, clamped (04 R78): the count and whether it was clamped. -/
def listCount (s : State) (e : Eng) (at_ : Nat) (limit : Option Nat) : EStop ⊕ (Nat × Bool) :=
  eb (engRead s e true (Int.ofNat at_) 4 4) (fun r =>
    let k := if r.1 = 0xFFFFFFFF then 0 else r.1
    match limit with
    | some b => if b < k then .inr (b, true) else .inr (k, false)
    | none => .inr (k, false))

/-- A record's bound in a unit of so many elements; none where nothing is clamped (04 R78). -/
def Shape.limit (h : Shape) (unit : Nat) : Option Nat :=
  if h.bound = 0xFFFFFFFF ∨ unit = 0 then none else some (h.bound / unit)

/-- A listed form (06 R119, R125): its count is clamped against `lim`'s record, then element k moves (DEDUCED, log 50). An absent
list address names no list, and so no element (04 R67; DEDUCED, log 67). -/
def runList (s : State) (op : EngineOp) (stopAt : Option (Nat × Nat)) (hs hd lim : Shape) (unit per : Nat)
    (src dst : Nat → State → EStop ⊕ List Coord) : EngineResult :=
  let at_ := (op.args.getD 0 0).toNat
  match (match op.count with
    | some k => (.inr (k, false) : EStop ⊕ (Nat × Bool))
    | none => if at_ = na64 then .inr (0, false) else listCount s (opEng op) at_ (lim.limit unit)) with
  | .inl x => EngineResult.stopped s op x
  | .inr (k, clamped) =>
    let s' := if clamped then chargeOp s op lim.tid { clamp := 1 } else s
    runMoves s' { op with count := some k } stopAt hs hd none (k * per) src dst

/-- The element of a region under coordinates, converted (05 R110, 06 R121). One that waits for a page of its destination reads the
region again after the answer (DESIGN CHOICE, log 71). -/
def densElem (e : Eng) (hs hd : Shape) (m : RMode) (c : List Coord) (s : State) : Moved :=
  let put (s : State) (x : Elem) : Moved :=
    let r := convElem hs.ty hd.ty m x
    eb (writeElem s e hd c r.code) (fun w => .inr (w.1, r.events.plus w.2.1, w.2.2))
  let idx {α : Type} (r : EStop ⊕ α) : EStop ⊕ α :=
    match r with
    | .inl (.park p _) => if e.failed.contains p then .inl (.flt 0x14) else r
    | r => r
  match sparseKey hs c with
  | none => put s (.code hs.fill true)
  | some key =>
    eb (idx (openRegion s e.who.ctx hs none)) (fun d =>
      match d with
      | none => put s (.code hs.fill true)
      | some y => eb (idx (findKey s e.who.ctx y key)) (fun o =>
          put (markRegion (countKey s e.who.ctx y key) e.who.ctx d) (.code (o.getD 0 % 2 ^ hs.ty.width) false)))

/-- A `copy.dns` that met an error in its region at an element has broken the region (05 R91). -/
def densFailed (s : State) (ctx : Nat) (hs : Shape) (c : List Coord) : State :=
  match sparseKey hs c with
  | none => s
  | some key =>
    match eb (openRegion s ctx hs none) (fun d =>
      match d with
      | none => (.inr none : EStop ⊕ Option Nat)
      | some d => findKey s ctx d key) with
    | .inl (.flt 0x50) => breakRegion s ctx hs.base
    | _ => s

/-! ### The compressing output form (06 R123) -/

/-- How far a `copy.outz` has come: its runs, and the bytes of records formed. -/
structure OutzRun where
  run : Run
  pos : Nat

/-- Write values one after another from a main address on: each by its size in bytes, as one write (06 R131). -/
def putValues (e : Eng) (s : State) (a : Nat) (l : List (Nat × Nat)) : EStop ⊕ State :=
  match l.foldl (fun acc x => eb acc (fun z => eb (engWriteAny z.1 e false z.2 x.1 x.2) (fun s => .inr (s, z.2 + x.1))))
      (.inr (s, a) : EStop ⊕ (State × Nat)) with
  | .inl x => .inl x
  | .inr z => .inr z.1

/-- Read and convert the elements of a run from linear index `k0` on: what they leave, their positions and codes; or the page of
one that parks. Past a failing element each later one is taken or not (06 R117, DESIGN CHOICE, log 10). -/
def outzElems (op : EngineOp) (stopAt : Option (Nat × Nat)) (hs hd : Shape) (k0 n : Nat) (r : Run) :
    (Nat × Nat) ⊕ (Run × List (Nat × Nat)) :=
  (List.range n).foldl (fun acc i =>
    match acc with
    | .inl p => .inl p
    | .inr (r, l) =>
      let k := k0 + i
      if r.failed.isSome && !Config.landed op.id k then .inr (r, l)
      else match (if r.failed.isSome then none else stopAt.filter (·.1 == k)) with
        | some x => .inr ({ r with failed := some x }, l)
        | none =>
          match readElem r.s (opEngAt op k) hs (coordsOf (hd.coords k)) with
          | .inr (x, s) =>
            let c := convElem hs.ty hd.ty (engMode op.mode) x
            .inr ({ r with s := s, ev := r.ev.plus c.events }, l ++ [(i, c.code)])
          | .inl (.flt c) => .inr (if r.failed.isSome then r else { r with failed := some (k, c) }, l)
          | .inl (.park p line) => if r.failed.isSome then .inr (r, l) else .inl (p, line)) (.inr (r, []))

/-- Run q of the destination: its elements read and converted, then formed. A run that parks has no effect yet. A fault in writing
its record or its directory entry is charged to its first element (DESIGN CHOICE, log 71). -/
def outzRun (op : EngineOp) (stopAt : Option (Nat × Nat)) (hs hd : Shape) (acc : OutzRun) (q : Nat) : OutzRun :=
  let e := opEng op
  let per := (hd.extAt 0 + 31) / 32
  let lo := 32 * (q % per)
  let k0 := q / per * hd.extAt 0 + lo
  let parks (p line : Nat) : OutzRun := { acc with run := { acc.run with next := q, pages := [p], lines := [line] } }
  if !acc.run.pages.isEmpty then acc
  else match outzElems op stopAt hs hd k0 (min 32 (hd.extAt 0 - lo)) acc.run with
  | .inl (p, line) => parks p line
  | .inr (r, l) =>
    let ps := l.filter (fun x => hd.ty.present x.2)
    let n := ps.length
    let dirAt := hd.base + hd.aux + 4 * q
    let size := (4 + n * hd.bytes + 3) / 4 * 4
    let lost : Run := { r with ev := r.ev.plus { discard := n } }
    let halt (x : EStop) : OutzRun :=
      match r.failed, x with
      | some _, _ => { acc with run := r }
      | none, .flt c => { acc with run := { r with failed := some (k0, c) } }
      | none, .park p line => parks p line
    if l.isEmpty then { acc with run := r }
    else if hd.absent then { acc with run := lost }
    else if ps.isEmpty ∨ hd.aux < acc.pos + size then
      match engWrite r.s e false (Int.ofNat dirAt) 4 4 0xFFFFFFFF with
      | .inl x => halt x
      | .inr s => { acc with run := { lost with s := s } }
    else
      let bitmap := ps.foldl (fun b x => b + 2 ^ x.1) 0
      -- the record's last bytes are zero padding (04 R81)
      let pad := size - (4 + n * hd.bytes)
      let values := (4, bitmap) :: ps.map (fun x => (hd.bytes, x.2)) ++ (if pad = 0 then [] else [(pad, 0)])
      match eb (putValues e r.s (hd.base + acc.pos) values) (fun s =>
          engWrite s e false (Int.ofNat dirAt) 4 4 acc.pos) with
      | .inl x => halt x
      | .inr s => { run := { r with s := s }, pos := acc.pos + size }

/-- `copy.outz`: the runs of its destination, from the first not formed. -/
def runOutz (s : State) (op : EngineOp) (stopAt : Option (Nat × Nat)) (hs hd : Shape) : EngineResult :=
  let n := hd.extAt 1 * hd.extAt 2 * hd.extAt 3 * ((hd.extAt 0 + 31) / 32)
  let r := ((List.range (n - op.next)).map (· + op.next)).foldl (outzRun op stopAt hs hd)
    { run := { s := s, next := op.next }, pos := op.pos }
  { op := { op with pos := r.pos }, run := r.run, tensor := hd.tid }

/-! ### Migration (04 R70, R74, 06 R122) -/

/-- Two ranges of bytes have none in common. -/
def disjoint (a n b m : Nat) : Bool := decide (n = 0) || decide (m = 0) || decide (a + n ≤ b) || decide (b + m ≤ a)

/-- The entries of a context's table of `n` bytes that are not zero, and the values of its entries that translations may still use (04
R70). -/
def tableEntries (s : State) (ctx a n : Nat) : List Nat :=
  (sortNats ((s.mem.filter (fun e => decide (a ≤ e.1) && decide (e.1 < a + n))).map (fun e => (e.1 - a) / 8))).map
    (fun k => bytesGet s.mem (a + 8 * k) 8) ++
  (s.oldEntries.filter (fun o => o.1 == ctx && decide (a ≤ o.2.1) && decide (o.2.1 < a + n))).map (fun o => o.2.2.toNat)

/-- The frame that a page entry holds. -/
def frameOf (size e : Nat) : List (Nat × Nat) :=
  if e % 2 = 1 ∧ e / 64 % 2 = 1 then [(e / 2 ^ 8 % 2 ^ 44 * 2 ^ 8, size)] else []

/-- The ranges of physical memory that a table of a level (4 down to 1) uses: itself, the tables below it and the frames of the
pages that they map. -/
def usedFrames (s : State) (ctx : Nat) : Nat → Nat → List (Nat × Nat)
  | 0, _ => []
  | l + 1, tbl =>
    (tbl, 4096) :: ((tableEntries s ctx tbl 4096).map (fun e =>
      let next := e / 2 ^ 8 % 2 ^ 44 * 2 ^ 8
      if e % 2 = 0 then []
      else if 0 < l then usedFrames s ctx l next
      else if e / 2 ^ 7 % 2 = 1 then (next, 256) :: ((tableEntries s ctx next 256).map (frameOf 65536)).flatten
      else frameOf (2 ^ 21) e)).flatten

/-- A frame is free: apart from every table, frame and structure of the contexts, from their rings and chrysalis images, and from
the frames that other moves fill (04 R74). -/
def frameFree (s : State) (a n : Nat) : Bool :=
  let apart (x : Nat × Nat) : Bool := disjoint a n x.1 x.2
  s.contexts.all (fun c => apart (c.save, 0x5000) && apart (c.faultRec, 0xA040) && (usedFrames s c.num 4 c.root.toNat).all apart) &&
  s.queues.all (fun q => apart (q.base, 128 * 2 ^ q.k)) && s.teams.all (fun t => apart (t.imageAt, t.imageLen)) &&
  s.migrations.all (fun m => apart (m.dest, m.size))

/-- Start the move of a page to a tier: a pinned page, one already there, one already moving and one without a free frame are
skipped. -/
def startMove (s : State) (ctx page tier : Nat) (number : Nat) (op : Option Nat) : State :=
  match translate s ctx page with
  | .page _ size entryAt entry =>
    let va := page / size * size
    if entry / 32 % 2 = 1 ∨ entry / 2 ^ 58 % 4 = tier ∨ s.migrations.any (fun m => m.entryAt == entryAt) then s
    else match Config.migrationFrame number va with
      | some dest =>
        if dest % size = 0 ∧ backedTier dest size = some tier ∧ frameFree s dest size then
          { s with migrations := s.migrations ++
              [{ page := va, context := ctx, size := size, entryAt := entryAt, old := BitVec.ofNat 64 entry, dest := dest, op := op }] }
        else s
      | none => s
  | _ => s

/-- The address of an element of a box with the state in which it is known: for class 3 the directory and the bitmap are read as any
engine reads them (04 R81); none where it has none. -/
def elemAt (s : State) (e : Eng) (h : Shape) (k : Nat) : EStop ⊕ (Option Int × State) :=
  let c := coordsOf (h.coords k)
  match h.locate c, h.clamped c with
  | some a, some l =>
    if h.cls ≠ 3 then .inr (some a, s)
    else
      let c0 := (l.getD 0 0).toNat
      let q := h.rowOf l * ((h.extAt 0 + 31) / 32) + c0 / 32
      eb (engRead s e false (Int.ofNat (h.base + h.aux + 4 * q)) 4 4) (fun r =>
        let dir := r.1
        if dir = 0xFFFFFFFF then .inr (none, r.2)
        else eb (engRead r.2 e false (Int.ofNat (h.base + dir)) 4 4) (fun r =>
          if r.1 / 2 ^ (c0 % 32) % 2 = 0 then .inr (none, r.2)
          else .inr (some (Int.ofNat (h.base + dir + 4 + popBelow r.1 (c0 % 32) * h.bytes)), r.2)))
  | _, _ => .inr (none, s)

/-- Start the move of the page or pages that hold an element of the box of a `copy.mig`; an element outside main memory raises 0x15
(06 R117). -/
def migElem (op : EngineOp) (h : Shape) (tier : Nat) (k : Nat) (s : State) : Moved :=
  eb (elemAt s (opEng op) h k) (fun r =>
    match r.1 with
    | none => .inr (r.2, {}, none)
    | some a =>
      if a < 2 ^ 32 ∨ a + Int.ofNat h.bytes > 2 ^ 57 then .inl (.flt 0x15)
      else .inr ((pageCuts a.toNat h.bytes).foldl (fun s c => startMove s op.context c.1 tier op.id (some op.id)) r.2, {}, none))

/-- The elements of a `copy.mig` from the first not begun (06 R122): it does nothing where `S[n]` is neither 0 nor 1. -/
def runMig (s : State) (op : EngineOp) (stopAt : Option (Nat × Nat)) : EngineResult :=
  let h := Shape.of (op.recs.getD 1 0)
  let v := op.args.getD 0 0
  if v = 0 ∨ v = 1 then
    { op := op, run := runElems op h.count stopAt (migElem op h v.toNat) (fun _ _ => none) s, n := h.count, tensor := h.tid }
  else { op := op, run := { s := s } }

/-! ### The operations -/

/-- Run a copy or fetch operation; a `copy.mig` starts its moves. -/
def runCopy (s : State) (op : EngineOp) (i : Instr) (stopAt : Option (Nat × Nat)) : EngineResult :=
  let hd := Shape.of (op.recs.getD 0 0)
  let hs := Shape.of (op.recs.getD 1 0)
  let e := opEng op
  let at_ := (op.args.getD 0 0).toNat
  let box (k : Nat) (_ : State) : EStop ⊕ List Coord := .inr (coordsOf (hd.coords k))
  -- an index of a list as a coordinate, times `m`, plus `r`: the product and the sum are each a coordinate
  let entry (s : State) (k m : Nat) (r : Nat) : EStop ⊕ Coord :=
    eb (listWord s e at_ k) (fun x =>
      .inr (((i32? x).bind (fun y => coordOf (y * Int.ofNat m))).bind (fun y => coordOf (y + Int.ofNat r))))
  match i with
  | .copyOutz .. => runOutz s op stopAt hs hd
  | .copyMig .. => runMig s op stopAt
  | .copyDns .. =>
    let c (k : Nat) : List Coord := coordsOf (hd.coords k)
    let r := runElems op hd.count stopAt (fun k s => densElem e hs hd (engMode op.mode) (c k) s) (fun k _ => hd.target (c k)) s
    let s := match r.failed with | some (k, 0x50) => densFailed r.s op.context hs (c k) | _ => r.s
    { op := op, run := { r with s := s }, n := hd.count, dest := fun k => if hd.near then hd.target (c k) else none, tensor := hd.tid }
  | .copyGth .. =>
    let w := hd.extAt 0
    let c (k : Nat) : Coord := coordOf (Int.ofNat (k % w))
    runList s op stopAt hs hd hd w w (fun k s => eb (entry s (k / w) 1 0) (fun y => .inr [c k, y]))
      (fun k _ => .inr [c k, coordOf (Int.ofNat (k / w))])
  | .copySct .. =>
    let w := hs.extAt 0
    let c (k : Nat) : Coord := coordOf (Int.ofNat (k % w))
    runList s op stopAt hs hd hs w w (fun k _ => .inr [c k, coordOf (Int.ofNat (k / w))])
      (fun k s => eb (entry s (k / w) 1 0) (fun y => .inr [c k, y]))
  | .copyBlk .. =>
    runList s op stopAt hs hd hd (32 * hd.extAt 0) 1024
      (fun k s => eb (entry s (2 * (k / 1024)) 32 (k % 32)) (fun a =>
        eb (entry s (2 * (k / 1024) + 1) 32 (k / 32 % 32)) (fun b => .inr [a, b])))
      (fun k _ => .inr [coordOf (Int.ofNat (k % 32)), coordOf (Int.ofNat (32 * (k / 1024) + k / 32 % 32))])
  | .fetch .. =>
    runMoves s op stopAt hs hd none hd.count
      (fun k _ => .inr ((hd.coords k).zipIdx.map (fun x =>
        match i32? (op.args.getD x.2 0).toNat with | some o => coordOf (x.1 + o) | none => none)))
      box
  | .fetchLst .. =>
    runList s op stopAt hs hd hd 1 1
      (fun k s => (List.range hs.rank).foldl (fun acc d =>
        eb acc (fun l => eb (entry s (4 * k + d) 1 0) (fun c => .inr (l ++ [c])))) (.inr []))
      (fun k _ => .inr [coordOf (Int.ofNat k)])
  | i => runMoves s op stopAt hs hd (copyComb i) hd.count box box

/-- Advance an operation of a copy engine or a fetch unit to its end, to a parked access, or (for `copy.mig`) to its
moves and then, once they are complete, to its end. -/
def completeCopy (s : State) (op : EngineOp) : State :=
  match instrOf op.word with
  | some (.copyMig ..) =>
    if !op.started then
      let r := runMig s op none
      if r.run.pages.isEmpty ∧ r.run.failed.isNone then
        setOp r.run.s { op with started := true, next := r.run.next, pending := r.run.pending }
      else finishEngine r
    else if s.migrations.any (fun m => m.op == some op.id) then s
    else endOp s op none
  | some i => finishEngine (runCopy s op i none)
  | none => s

/-- `copy.in` (06 R114). -/
def execCopyIn (e : Bool) (d : BitVec 4) (sf : BitVec 4) (l : BitVec 3) (s : State) :
    Host.Outcome State Fault Refusal := runWord (.copyIn e d sf l) s (planCopy d.toNat sf.toNat 0) scalarPlaces (copyBody .copy d.toNat sf.toNat l.toNat 0)

/-- `copy.out` (06 R114). -/
def execCopyOut (e : Bool) (d : BitVec 4) (sf : BitVec 4) (l : BitVec 3) (s : State) :
    Host.Outcome State Fault Refusal := runWord (.copyOut e d sf l) s (planCopy d.toNat sf.toNat 0) scalarPlaces (copyBody .copy d.toNat sf.toNat l.toNat 0)

/-- `copy.outz` (06 R123). -/
def execCopyOutz (e : Bool) (d : BitVec 4) (sf : BitVec 4) (l : BitVec 3) (s : State) :
    Host.Outcome State Fault Refusal := runWord (.copyOutz e d sf l) s (planCopy d.toNat sf.toNat 0) scalarPlaces (copyBody .copy d.toNat sf.toNat l.toNat 0)

/-- `copy.nn` (06 R114). -/
def execCopyNn (e : Bool) (d : BitVec 4) (sf : BitVec 4) (l : BitVec 3) (s : State) :
    Host.Outcome State Fault Refusal := runWord (.copyNn e d sf l) s (planCopy d.toNat sf.toNat 0) scalarPlaces (copyBody .copy d.toNat sf.toNat l.toNat 0)

/-- `copy.rd.add` (06 R120). -/
def execCopyRdAdd (e : Bool) (d : BitVec 4) (sf : BitVec 4) (l : BitVec 3) (s : State) :
    Host.Outcome State Fault Refusal := runWord (.copyRdAdd e d sf l) s (planCopy d.toNat sf.toNat 0) scalarPlaces (copyBody .copy d.toNat sf.toNat l.toNat 0)

/-- `copy.rd.min` (06 R120). -/
def execCopyRdMin (e : Bool) (d : BitVec 4) (sf : BitVec 4) (l : BitVec 3) (s : State) :
    Host.Outcome State Fault Refusal := runWord (.copyRdMin e d sf l) s (planCopy d.toNat sf.toNat 0) scalarPlaces (copyBody .copy d.toNat sf.toNat l.toNat 0)

/-- `copy.rd.max` (06 R120). -/
def execCopyRdMax (e : Bool) (d : BitVec 4) (sf : BitVec 4) (l : BitVec 3) (s : State) :
    Host.Outcome State Fault Refusal := runWord (.copyRdMax e d sf l) s (planCopy d.toNat sf.toNat 0) scalarPlaces (copyBody .copy d.toNat sf.toNat l.toNat 0)

/-- `copy.dns` (06 R121). -/
def execCopyDns (e : Bool) (d : BitVec 4) (sf : BitVec 4) (l : BitVec 3) (s : State) :
    Host.Outcome State Fault Refusal := runWord (.copyDns e d sf l) s (planCopy d.toNat sf.toNat 0) scalarPlaces (copyBody .copy d.toNat sf.toNat l.toNat 0)

/-- `copy.gth` (06 R119). -/
def execCopyGth (e : Bool) (d : BitVec 4) (sf : BitVec 4) (l : BitVec 3) (n : BitVec 5) (s : State) :
    Host.Outcome State Fault Refusal := runWord (.copyGth e d sf l n) s (planCopy d.toNat sf.toNat n.toNat) scalarPlaces (copyBody .copy d.toNat sf.toNat l.toNat n.toNat)

/-- `copy.sct` (06 R119). -/
def execCopySct (e : Bool) (d : BitVec 4) (sf : BitVec 4) (l : BitVec 3) (n : BitVec 5) (s : State) :
    Host.Outcome State Fault Refusal := runWord (.copySct e d sf l n) s (planCopy d.toNat sf.toNat n.toNat) scalarPlaces (copyBody .copy d.toNat sf.toNat l.toNat n.toNat)

/-- `copy.blk` (06 R119). -/
def execCopyBlk (e : Bool) (d : BitVec 4) (sf : BitVec 4) (l : BitVec 3) (n : BitVec 5) (s : State) :
    Host.Outcome State Fault Refusal := runWord (.copyBlk e d sf l n) s (planCopy d.toNat sf.toNat n.toNat) scalarPlaces (copyBody .copy d.toNat sf.toNat l.toNat n.toNat)

/-- `copy.mig` (06 R122). -/
def execCopyMig (e : Bool) (sf : BitVec 4) (l : BitVec 3) (n : BitVec 5) (s : State) :
    Host.Outcome State Fault Refusal := runWord (.copyMig e sf l n) s (planCopy sf.toNat sf.toNat n.toNat) scalarPlaces (copyBody .copy sf.toNat sf.toNat l.toNat n.toNat)

/-- `fetch` (06 R125). -/
def execFetch (e : Bool) (d : BitVec 4) (sf : BitVec 4) (l : BitVec 3) (n : BitVec 5) (s : State) :
    Host.Outcome State Fault Refusal := runWord (.fetch e d sf l n) s (planCopy d.toNat sf.toNat n.toNat) scalarPlaces (copyBody .fetch d.toNat sf.toNat l.toNat n.toNat)

/-- `fetch.lst` (06 R125). -/
def execFetchLst (e : Bool) (d : BitVec 4) (sf : BitVec 4) (l : BitVec 3) (n : BitVec 5) (s : State) :
    Host.Outcome State Fault Refusal := runWord (.fetchLst e d sf l n) s (planCopy d.toNat sf.toNat n.toNat) scalarPlaces (copyBody .fetch d.toNat sf.toNat l.toNat n.toNat)

end Sys2Proof.Machine
end

