-- ==== Sys2Proof/Machine/Collective.lean ====
section
/-! DEFINITION. Collectives and peer sets (13 R264 to R273). The other members' contributions reach the device over the
Rinyel links: they are an input of the step that completes a collective. -/

namespace Sys2Proof.Machine

/-- The effect of a collective: a reduction of the whole box, a reduction of this member's part, a gathering, an exchange. -/
inductive CollForm where
  | ar (o : OpC) | rs (o : OpC) | ag | a2a
  deriving DecidableEq, Repr

/-- The form of an instruction (13 R267). -/
def collForm : Instr → CollForm
  | .collArMin .. => .ar .min
  | .collArMax .. => .ar .max
  | .collRsAdd .. => .rs .add
  | .collRsMin .. => .rs .min
  | .collRsMax .. => .rs .max
  | .collAg .. => .ag
  | .collA2a .. => .a2a
  | _ => .ar .add

/-- The form adds. -/
def CollForm.adds : CollForm → Bool | .ar .add => true | .rs .add => true | _ => false

/-- The boxes obey 13 R267 with `n` members. -/
def CollForm.boxes (f : CollForm) (n src dst : Nat) : Bool :=
  match f with
  | .ar _ => src == dst
  | .rs _ => src == n * dst
  | .ag => dst == n * src
  | .a2a => src == dst && src % n == 0

/-! ### Peer sets (13 R266) -/

/-- A context's peer set. -/
def getSet (s : State) (ctx set : Nat) : Option PeerSet := (getCtx s ctx).bind (fun c => c.peers.find? (·.set == set))

/-- Change a context's peer set. -/
def modSet (s : State) (ctx set : Nat) (f : PeerSet → PeerSet) : State :=
  modCtx s ctx (fun c => { c with peers := c.peers.map (fun p => if p.set == set then f p else p) })

/-- A live, broken or reforming set. -/
def definedSet (s : State) (ctx set : Nat) : Option PeerSet :=
  if 63 < set then none else (getSet s ctx set).filter (fun p => p.state != 0)

/-! ### Issue (13 R267, R273) -/

/-- The plan of a collective: `S[n]` and `S[n+1]`. -/
def planColl (d sr n : Nat) (x : Issue) : Plan :=
  let hd := Shape.of (hGet x.g d)
  let hs := Shape.of (hGet x.g sr)
  { bad := decide (31 < n + 1) ||
      ((convertRounds hs.ty hd.ty || ((collForm x.i).adds && hd.ty.isF8)) && modeField x.g.mode 11 3 == 7)
    extra := [(0xC0 + n, false), (0xC0 + n + 1, false)] }

/-- The record faults of a collective; `n` is unknown while the set is undefined. -/
def collRecords (f : CollForm) (n : Option Nat) (hs hd : Shape) : Bool :=
  !hs.valid || !hd.valid || hs.cls != 0 || hd.cls != 0 || convertRefused hs.ty hd.ty || decide (2 ^ 40 < hd.count) ||
  (match n, f with
   | some n, f => !f.boxes n hs.count hd.count
   | none, .ar _ => hs.count != hd.count
   | none, .a2a => hs.count != hd.count
   | none, _ => false)

/-- The fault of a near address that an operation is to use (13 R273); an absent one raises none (04 R67). -/
def nearOperand (s : State) (g : Group) (a : Nat) : Option FaultInfo :=
  if a = na64 then none else (engNear s { who := whoOf s g } (Int.ofNat a) 8 8).map (fun c => fault c a)

/-- The checks of 13 R273 in order. -/
def collChecks (x : Issue) (tl : Nat) (hs hd : Shape) : Option FaultInfo :=
  let ctx := (whoOf x.s x.g).ctx
  let set := definedSet x.s ctx (scalarK x 0)
  if collRecords (collForm x.i) (set.map (·.members.length)) hs hd then some (fault 0x02 0)
  else if set.isNone then some (fault 0x15 0)
  else if !Side.any.ok hs then some (fault 0x15 hs.base)
  else if !Side.any.ok hd then some (fault 0x15 hd.base)
  else match nearOperand x.s x.g (scalarK x 1) with
    | some f => some f
    | none => tlFull x.s x.g.team tl

/-- Write an operation's status word, and set its granule full, which releases what the operation wrote there (06 R115, 07 R149). A
sealed, unbacked or absent place takes nothing. -/
def putStatus (s : State) (op : EngineOp) (word : Nat) : State :=
  let e := opEng op
  let a := (op.args.getD 1 0).toNat
  match engWrite s e true (Int.ofNat a) 8 8 word with
  | .inr s => fillGranule s e.who e.writer a
  | .inl _ => s

/-- An operation on a set completes with a status word that is not ok (13 R269): with the trap bit set its code becomes the
timeline's failure; the abort, or that failure, may be a snapshot's event, and both together pull one trigger (25 R375). -/
def abortColl (s : State) (op : EngineOp) (p : PeerSet) (word : Nat) : State :=
  let s := putStatus s op word
  let fail := if p.trap then some (BitVec.ofNat 64 (word % 256), 0x31) else none
  if (snapselOf s op.context).getLsbD 1 then closeOp (pullNamed s op 1 0x31) op fail else endOp s op fail

/-- The set breaks with a word, and the operation completes with it. -/
def breakSet (s : State) (op : EngineOp) (p : PeerSet) (word : Nat) : State :=
  abortColl (modSet s op.context p.set (fun q => { q with state := 2, status := BitVec.ofNat 64 word })) op p word

/-- The member that an abort names where no member failed of itself: the spec states none, free (DESIGN CHOICE, log 24). -/
def noRank (op : EngineOp) : Nat := Config.freeElement 11 op.id 0 % 2 ^ 16

/-- The word with which a collective that is outstanding ends without its peers' part, if it does: one of an old epoch, or beside a
reform or after one that failed, with code 2 (13 R271); one later than the collective that broke the set, with its word (13 R269). An
earlier one ends of itself. A reform's word has sequence 0 (log 49). -/
def endedWord (op : EngineOp) (p : PeerSet) : Option Nat :=
  let old := statusWord op.seq.toNat (noRank op) 2
  let broke := p.status.toNat / 2 ^ 32
  if op.kind ≠ .coll then none
  else if p.epoch ≠ op.epoch ∨ p.state = 3 then some old
  else if p.state ≠ 2 then none
  else if broke = 0 then some old
  else if broke < op.seq.toNat then some p.status.toNat
  else none

/-- Issue a collective: on a broken set it completes at once (13 R269). -/
def collBody (d sr tl : Nat) (x : Issue) : Except Stop Done :=
  let rd := hGet x.g d
  let rs := hGet x.g sr
  match collChecks x tl (Shape.of rs) (Shape.of rd) with
  | some f => .error (.flt f)
  | none =>
    let ctx := (whoOf x.s x.g).ctx
    let k := scalarK x 0
    match definedSet x.s ctx k with
    | none => .error (.flt (fault 0x15 0))
    | some p =>
      let op := { blankOp .coll tl x.e.word x.e.mode [rd, rs] [BitVec.ofNat 64 k, BitVec.ofNat 64 (scalarK x 1)] with
        epoch := p.epoch, seq := p.seq + 1 }
      let s := modSet (issueOp x.s x.g op) ctx k (fun q => { q with seq := q.seq + 1 })
      match s.ops.getLast? with
      | some o => .ok (.ok (if p.state = 2 then abortColl s o p p.status.toNat else s))
      | none => .ok (.ok s)

/-! ### Running (13 R267 to R270) -/

/-- This member's source box in ascending linear index: codes, and which are fills. -/
def ownSource (s : State) (e : Eng) (h : Shape) : EStop ⊕ (List Elem × State) :=
  (List.range h.count).foldl (fun acc k =>
    eb acc (fun a => eb (readElem a.2 e h (coordsOf (h.coords k))) (fun r => .inr (a.1 ++ [r.1], r.2)))) (.inr ([], s))

/-- What a member's message says of its operation before its source elements: kind, types, rounding and box sizes (13 R269;
DESIGN CHOICE, log 68). -/
def collHeader (w : Word) (hs hd : Shape) (m : RMode) : List Byte :=
  [w.setWidth 8, BitVec.ofNat 8 hs.type, BitVec.ofNat 8 hd.type, BitVec.ofNat 8 m.rm] ++ leBytes 8 hs.count ++ leBytes 8 hd.count

/-- The message by which a member tells that its host has aborted the operation (13 R269, code 3; log 68). -/
def hostAbort : List Byte := [3]

/-- A rank has done its part: its operation is rank 0's, and its message is whole. `own` is this member's header, and `ref` rank
0's. -/
def wholePart (hs : Shape) (rank : Nat) (own ref : List Byte) (peers : List (List Byte)) (q : Nat) : Bool :=
  if q = rank then own == ref
  else
    let l := peers.getD q []
    decide (20 ≤ l.length) && l.take 20 == ref && (own != ref || l.length == 20 + hs.count * hs.bytes)

/-- The ranks that have failed. -/
def failedRanks (hs : Shape) (n rank : Nat) (own : List Byte) (peers : List (List Byte)) : List Nat :=
  let ref := if rank = 0 then own else (peers.getD 0 []).take 20
  (List.range n).filter (fun q => !wholePart hs rank own ref peers q)

/-- The contributions of every rank: the elements of a peer's message, little-endian at the source type, or this member's own. -/
def contribution (hs : Shape) (rank : Nat) (own : List Elem) (peers : List (List Byte)) (q j : Nat) : Elem :=
  if q = rank then own.getD j (.code 0 false) else .code (leAt (peers.getD q []) (20 + j * hs.bytes) hs.bytes) false

/-- The least power of two that covers `n` ranks, as its exponent. -/
def treeHeight (n : Nat) : Nat := if n ≤ 1 then 0 else Nat.log2 (n - 1) + 1

/-- The ranks whose contributions destination element k needs. -/
def CollForm.needs (f : CollForm) (n : Nat) (hs : Shape) (k : Nat) : List Nat :=
  match f with
  | .ar _ => List.range n
  | .rs _ => List.range n
  | .ag => [k / hs.count]
  | .a2a => [k / (hs.count / n)]

/-- The value of destination element k, with its events (13 R267). Where two members or more are combined, subnormal contributions
read as zero under flush, as `comb` reads them; a set of one member that converts nothing flushes nothing. The lists of 02 R35 do not
name collectives (DESIGN CHOICE, log 71). -/
def collValue (f : CollForm) (n rank : Nat) (hs hd : Shape) (m : RMode) (src : Nat → Nat → Elem) (k : Nat) :
    Nat × Events :=
  let one (q j : Nat) : LRes := convElem hs.ty hd.ty m (src q j)
  let reduce (o : OpC) (j : Nat) : Nat × Events :=
    let cs := (List.range n).map (fun q => one q j)
    let t := treeHeight n
    let l := cs.map (fun c => if hd.ty.present c.code then some c.code else none)
    let r := tree o hd.ty m t (l ++ List.replicate (2 ^ t - n) none)
    (r.1.getD hd.ty.na, cs.foldl (fun e c => e.plus c.events) r.2)
  let plain (q j : Nat) : Nat × Events := let c := one q j; (c.code, c.events)
  match f with
  | .ar o => reduce o k
  | .rs o => reduce o (rank * hd.count + k)
  | .ag => plain (k / hs.count) (k % hs.count)
  | .a2a => let b := hs.count / n; plain (k / b) (rank * b + k % b)

/-- Write the destination elements that `take` names. -/
def collWrite (s : State) (op : EngineOp) (hd : Shape) (take : Nat → Bool) (val : Nat → Nat × Events) : Run :=
  let c (k : Nat) : List Coord := coordsOf (hd.coords k)
  runElems op hd.count none (fun k s =>
    if take k then
      let v := val k
      eb (writeElem s (opEng op) hd (c k) v.1) (fun w => .inr (w.1, v.2.plus w.2.1, w.2.2))
    else .inr (s, {}, none)) (fun k _ => hd.target (c k)) s

/-- Ranks failed (13 R269, R270): the elements that need none of them hold their values or not; the rest is unchanged. -/
def collFailed (s : State) (op : EngineOp) (p : PeerSet) (f : CollForm) (hs hd : Shape) (bad : List Nat)
    (val : Nat → Nat × Events) : State :=
  let ok (k : Nat) : Bool :=
    Config.landed op.id k && !bad.contains p.rank && (f.needs p.members.length hs k).all (fun q => !bad.contains q)
  let r := collWrite s op hd ok val
  breakSet (chargeOp r.s op hd.tid r.ev) op p (statusWord op.seq.toNat ((sortNats bad).headD 0) 2)

/-- Why an operation on a set ends without its peers' part: a lost member, the end-to-end timeout, the host. -/
inductive Drop where
  | lost (rank : Nat)
  | timeout
  | host
  deriving DecidableEq, Repr

/-- The status word of an operation that ends so (13 R269). -/
def Drop.word (d : Drop) (seq : Nat) : Nat :=
  match d with
  | .lost q => statusWord seq q 2
  | .timeout => statusWord seq 0xFFFF 1
  | .host => statusWord seq 0xFFFF 3

/-- An operation on a set ends without its peers' part: with the word that the set gives it, or else each element is
unchanged or holds its ok value (R270, DESIGN CHOICE, log 10). That value is this member's own where it needs no other; where it came
over the links nothing constrains it here. -/
def dropColl (s : State) (op : EngineOp) (p : PeerSet) (why : Drop) : State :=
  let hd := Shape.of (op.recs.getD 0 0)
  let hs := Shape.of (op.recs.getD 1 0)
  let n := p.members.length
  match endedWord op p with
  | some word => abortColl s op p word
  | none =>
    let f := match instrOf op.word with | some i => collForm i | none => .ag
    let own : Option (List Elem) := match ownSource s (opEng op) hs with | .inr r => some r.1 | .inl _ => none
    let mine (k : Nat) : Bool := f.needs n hs k == [p.rank]
    let ok (k : Nat) : Bool :=
      Config.landed op.id k && (own.isSome || !(f.needs n hs k).contains p.rank) &&
      (match why with | .lost q => !(f.needs n hs k).contains q | _ => true)
    let val (k : Nat) : Nat × Events :=
      if mine k then collValue f n p.rank hs hd (engMode op.mode) (contribution hs p.rank (own.getD []) []) k
      else (Config.freeElement 9 op.id k % 2 ^ hd.ty.width, {})
    let s := if op.kind = .coll then
        (let r := collWrite s op hd ok val
         chargeOp r.s op hd.tid r.ev)
      else s
    breakSet s op p (why.word op.seq.toNat)

/-- Complete a collective with the peers' messages, by rank (13 R269). While a page of its boxes is missing it has no effect
(DESIGN CHOICE, log 55). -/
def completeColl (s : State) (op : EngineOp) (peers : List (List Byte)) : State :=
  let hd := Shape.of (op.recs.getD 0 0)
  let hs := Shape.of (op.recs.getD 1 0)
  match getSet s op.context (op.args.getD 0 0).toNat, instrOf op.word with
  | some p, some i =>
    let f := collForm i
    let n := p.members.length
    match endedWord op p with
    | some word => abortColl s op p word
    | none =>
    if peers.length ≠ n then s
    else if peers.contains hostAbort then dropColl s op p .host
    else
      let m := engMode op.mode
      let bad := failedRanks hs n p.rank (collHeader op.word hs hd m) peers
      let val (own : List Elem) : Nat → Nat × Events :=
        collValue f n p.rank hs hd m (contribution hs p.rank own peers)
      let lost (c : Nat) (own : List Elem) : State :=
        collFailed (signalBad s (BitVec.ofNat 8 c)) op p f hs hd (p.rank :: bad) (val own)
      match ownSource s (opEng op) hs with
      | .inl (.park pg line) => parkOp s op [pg] [line]
      | .inl (.flt c) => lost c []
      | .inr (own, s1) =>
        if !bad.isEmpty then collFailed s1 op p f hs hd bad (val own)
        else
          let r := collWrite s1 op hd (fun _ => true) (val own)
          match r.pages, r.failed with
          | pg :: pgs, _ => parkOp s op (pg :: pgs) r.lines
          | [], some (_, c) => lost c own
          | [], none =>
            if sealHit s (opEng op).who (op.args.getD 1 0).toNat 8 then lost 0x13 own
            else
              let s := fillGranules (chargeOp r.s op hd.tid r.ev) (opEng op) hd.count none r.wrote (fun _ => none)
              endOp (putStatus s op (statusWord op.seq.toNat 0xFFFF 0)) op none
  | _, _ => s

/-- The operations outstanding on a peer set, in issue order. -/
def setOps (s : State) (ctx set : Nat) : List EngineOp :=
  s.ops.filter (fun o => (o.kind == .coll || o.kind == .reform) && o.context == ctx && (o.args.getD 0 0).toNat == set)

/-- End operations on peer sets for one reason. -/
def dropOps (s : State) (l : List EngineOp) (why : Drop) : State :=
  l.foldl (fun s op =>
    match getSet s op.context (op.args.getD 0 0).toNat with | some p => dropColl s op p why | none => s) s

/-! ### `pset.reform` and `pset.status` (13 R271, R272) -/

/-- The plan of `pset.reform`: `S[n]` to `S[n+2]`. -/
def planReform (n : Nat) (_ : Issue) : Plan :=
  { bad := decide (31 < n + 2), extra := [(0xC0 + n, false), (0xC0 + n + 1, false), (0xC0 + n + 2, false)] }

/-- Issue a reform: the set is reforming. -/
def reformBody (tl : Nat) (x : Issue) : Except Stop Done :=
  let ctx := (whoOf x.s x.g).ctx
  let k := scalarK x 0
  match definedSet x.s ctx k with
  | none => .error (.flt (fault 0x15 0))
  | some p =>
    match firstSome (fun o => o) [nearOperand x.s x.g (scalarK x 1), nearOperand x.s x.g (scalarK x 2), tlFull x.s x.g.team tl] with
    | some f => .error (.flt f)
    | none =>
      let op := { blankOp .reform tl x.e.word x.e.mode [] ((List.range 3).map (fun j => BitVec.ofNat 64 (scalarK x j))) with
        epoch := p.epoch }
      .ok (.ok (modSet (issueOp x.s x.g op) ctx k (fun q => { q with state := 3 })))

/-- The bytes of a member list at a near address (13 R271): none where it has no legal count, a non-zero reserved field (00 R6),
or a part that cannot be read. -/
def memberList (s : State) (w : Who) (a : Nat) : Option (List Byte) :=
  let m := nearRead s w a 4
  let n := 8 + 4 * m
  if m = 0 ∨ 4608 < m ∨ (nearLoc s w a n).isNone ∨ nearBad s w false a n ∨ nearRead s w (a + 4) 4 ≠ 0 then none
  else some (leBytes n (nearRead s w a n))

/-- The identities that a member list names. -/
def listIds (l : List Byte) : List (BitVec 32) := (List.range (l.length / 4 - 2)).map (fun k => BitVec.ofNat 32 (leAt l (8 + 4 * k) 4))

/-- The listed members have issued, `peers` their lists in the new rank order (13 R271): this member takes its place in the list. A
member that is not in it, whose list is no list, or whose list is not what the others hold, completes with code 2 and its set is
broken (DEDUCED, log 49). -/
def completeReform (s : State) (op : EngineOp) (peers : List (List Byte)) : State :=
  let e := opEng op
  let set := (op.args.getD 0 0).toNat
  let at_ := (op.args.getD 2 0).toNat
  match getSet s op.context set with
  | none => s
  | some p =>
    let s := if nearBad s e.who false at_ 8 then signal s 2 else s
    let refused : State := breakSet s op p (statusWord 0 (noRank op) 2)
    match memberList s e.who at_ with
    | none => refused
    | some l =>
      let ids := listIds l
      match ids.idxOf? (p.members.getD p.rank 0) with
      | none => refused
      | some r =>
        if peers.length ≠ ids.length then s
        else if (peers.zipIdx).any (fun x => x.2 != r && x.1 != l) then refused
        else
          let s := modSet s op.context set (fun q =>
            { q with epoch := q.epoch + 1, rank := r, members := ids, state := 1, seq := 0, status := 0 })
          endOp (putStatus s op (statusWord 0 0xFFFF 0)) op none

/-- The word of `pset.status`. -/
def setWord (p : PeerSet) : Nat :=
  p.epoch.toNat * 2 ^ 40 + p.rank % 2 ^ 14 * 2 ^ 26 + p.members.length % 2 ^ 14 * 2 ^ 12 + (if p.trap then 256 else 0) +
  p.state.toNat

/-- `pset.status` (13 R272). An undefined set reads as zero, state 0; no set has a number above 63, for which the spec
states no value: free (DESIGN CHOICE, log 25). -/
def psetStatusBody (x : Issue) : Except Stop Done :=
  let k := scalarA x
  let v :=
    if k = na64 then na64
    else if 63 < k then Config.freeElement 12 k 0 % 2 ^ 64
    else match getSet x.s (whoOf x.s x.g).ctx k with | some p => setWord p | none => 0
  .ok (.ok (putScalar x.s x.g x.e x.i.form.t (destReg x.i.form.d) v))

/-- `coll.ar.add` (13 R267). -/
def execCollArAdd (e : Bool) (d : BitVec 4) (sf : BitVec 4) (l : BitVec 3) (n : BitVec 5) (s : State) :
    Host.Outcome State Fault Refusal := runWord (.collArAdd e d sf l n) s (planColl d.toNat sf.toNat n.toNat) scalarPlaces (collBody d.toNat sf.toNat l.toNat)

/-- `coll.ar.min` (13 R267). -/
def execCollArMin (e : Bool) (d : BitVec 4) (sf : BitVec 4) (l : BitVec 3) (n : BitVec 5) (s : State) :
    Host.Outcome State Fault Refusal := runWord (.collArMin e d sf l n) s (planColl d.toNat sf.toNat n.toNat) scalarPlaces (collBody d.toNat sf.toNat l.toNat)

/-- `coll.ar.max` (13 R267). -/
def execCollArMax (e : Bool) (d : BitVec 4) (sf : BitVec 4) (l : BitVec 3) (n : BitVec 5) (s : State) :
    Host.Outcome State Fault Refusal := runWord (.collArMax e d sf l n) s (planColl d.toNat sf.toNat n.toNat) scalarPlaces (collBody d.toNat sf.toNat l.toNat)

/-- `coll.rs.add` (13 R267). -/
def execCollRsAdd (e : Bool) (d : BitVec 4) (sf : BitVec 4) (l : BitVec 3) (n : BitVec 5) (s : State) :
    Host.Outcome State Fault Refusal := runWord (.collRsAdd e d sf l n) s (planColl d.toNat sf.toNat n.toNat) scalarPlaces (collBody d.toNat sf.toNat l.toNat)

/-- `coll.rs.min` (13 R267). -/
def execCollRsMin (e : Bool) (d : BitVec 4) (sf : BitVec 4) (l : BitVec 3) (n : BitVec 5) (s : State) :
    Host.Outcome State Fault Refusal := runWord (.collRsMin e d sf l n) s (planColl d.toNat sf.toNat n.toNat) scalarPlaces (collBody d.toNat sf.toNat l.toNat)

/-- `coll.rs.max` (13 R267). -/
def execCollRsMax (e : Bool) (d : BitVec 4) (sf : BitVec 4) (l : BitVec 3) (n : BitVec 5) (s : State) :
    Host.Outcome State Fault Refusal := runWord (.collRsMax e d sf l n) s (planColl d.toNat sf.toNat n.toNat) scalarPlaces (collBody d.toNat sf.toNat l.toNat)

/-- `coll.ag` (13 R267). -/
def execCollAg (e : Bool) (d : BitVec 4) (sf : BitVec 4) (l : BitVec 3) (n : BitVec 5) (s : State) :
    Host.Outcome State Fault Refusal := runWord (.collAg e d sf l n) s (planColl d.toNat sf.toNat n.toNat) scalarPlaces (collBody d.toNat sf.toNat l.toNat)

/-- `coll.a2a` (13 R267). -/
def execCollA2a (e : Bool) (d : BitVec 4) (sf : BitVec 4) (l : BitVec 3) (n : BitVec 5) (s : State) :
    Host.Outcome State Fault Refusal := runWord (.collA2a e d sf l n) s (planColl d.toNat sf.toNat n.toNat) scalarPlaces (collBody d.toNat sf.toNat l.toNat)

/-- `pset.reform` (13 R271). -/
def execPsetReform (e : Bool) (l : BitVec 3) (n : BitVec 5) (s : State) :
    Host.Outcome State Fault Refusal := runWord (.psetReform e l n) s (planReform n.toNat) scalarPlaces (reformBody l.toNat)

/-- `pset.status` (13 R272). -/
def execPsetStatus (e : Bool) (t : Bool) (d : Opnd) (a : Opnd) (s : State) :
    Host.Outcome State Fault Refusal := runWord (.psetStatus e t d a) s planAD [] psetStatusBody

end Sys2Proof.Machine
end

