-- ==== Sys2Proof/Machine/Matrix.lean ====
section
/-! DEFINITION. The matrix engine (11): slots and their sidecars, accumulator tiles, slot loads, products, pruning, the
matrix-vector stream, and `accr` and `accw`. An operation takes its effect when it issues, or, behind an earlier one on a slot or
tile of it that has not had its own, when that has; it occupies its slots and tiles until it is complete (11 R209; DESIGN CHOICE,
log 5). -/

namespace Sys2Proof.Machine

/-! ### Slots and tiles (11 R204 to R207) -/

/-- A team's claimed slot name. -/
def getName (s : State) (team k : Nat) : Option SlotName := (getTeam s team).bind (fun t => t.slots.find? (·.name == k))

def setName (s : State) (team : Nat) (x : SlotName) : State :=
  modTeam s team (fun t => { t with slots := t.slots.map (fun y => if y.name == x.name then x else y) })

/-- A team's tile. -/
def getTile (s : State) (team k : Nat) : Option Tile := (getTeam s team).bind (fun t => t.accs[k]?)

def setTile (s : State) (team k : Nat) (x : Tile) : State := modTeam s team (fun t => { t with accs := t.accs.set k x })

/-- A slot's type. -/
def SlotName.ty (x : SlotName) : Ty := (Ty.ofCode x.type.toNat).getD (.raw 8)

/-- Rows and columns by element width and form (11 R205); `form` is true for B. -/
def SlotName.dims (x : SlotName) : Nat × Nat :=
  if x.ty.width = 8 then (128, 128) else if x.form then (64, 128) else (128, 64)

/-- The byte of an element, and its code. -/
def SlotName.place (x : SlotName) (r c : Nat) : Nat := (x.dims.2 * r + c) * (x.ty.width / 8)
def SlotName.code (x : SlotName) (r c : Nat) : Nat := bytesGet x.store (x.place r c) (x.ty.width / 8)

/-- A type that a layout allows (11 R206): 0 dense, 1 block-scaled, 2 N:M. -/
def slotType (layout : Nat) (t : Ty) : Bool :=
  match t with
  | .b8 _ _ _ => true
  | .int _ 8 => layout != 1
  | .flt 8 7 => layout == 0
  | .flt 5 10 => layout == 0
  | _ => false

/-- A value under an e8m0 scale (02 R31, 11 R216). -/
def scaleVal (v : Val) (k : Nat) : Val :=
  if k = 0 then .na
  else match v with
    | .na => .na
    | v => if k = 0xFF then .nan
      else match v with
        | .fin neg n d => if 127 ≤ k then .fin neg (n * 2 ^ (k - 127)) d else .fin neg n (d * 2 ^ (127 - k))
        | v => v

/-- The value of a slot's element (11 R216). -/
def SlotName.val (x : SlotName) (r c : Nat) : Val :=
  let v := valOf x.ty false (x.code r c)
  if x.layout = 1 then scaleVal v (cellGet x.sidecar (4 * (r / 32) + c / 32)).toNat else v

/-- The accumulator kinds (11 R207). -/
def kindCode (t : Ty) : Nat := if t.isInt then 8 else 9
def kindTy (k : Nat) : Ty := if k = 8 then .int true 56 else .flt 11 44

/-! ### Faults and occupancy (11 R208, R209, R225) -/

/-- 0x17 for a name that is not claimed. -/
def needName (s : State) (g : Group) (k : Nat) : Option FaultInfo :=
  if (getName s g.team k).isSome then none else some (fault 0x17 k)

/-- 0x17 for a tile beyond the team's count. -/
def needTile (s : State) (g : Group) (k : Nat) : Option FaultInfo :=
  if (getTile s g.team k).isSome then none else some (fault 0x17 k)

/-- A fault on a condition. -/
def faultIf (b : Bool) (cause data : Nat) : Option FaultInfo := if b then some (fault cause data) else none

/-- The first fault of a list. -/
def firstFault (l : List (Option FaultInfo)) : Option FaultInfo := firstSome (fun o => o) l

/-- An operation enters the matrix engine. -/
def occupy (s : State) (g : Group) (m : MatrixOp) : State :=
  modCore s (whoOf s g).phys (fun c => { c with matrix := c.matrix ++ [{ m with team := g.team, group := g.id }] })

/-- The entry of a word: the slots and tiles that it names, and whether it is of class X (13 R257): a slot load, `slotw` or a
product. -/
def matrixEntry (i : Instr) (op : Option Nat) (todo : Option (Entry × Group)) (age : Nat) : MatrixOp :=
  { team := 0, group := 0, slots := (matrixNames i).1, tiles := (matrixNames i).2, op := op, todo := todo, issueAge := age
    access := match i with
      | .slotw .. => true
      | .slotl .. => true
      | .slott .. => true
      | .mmaS .. => true
      | .mmaX .. => true
      | .mmaSp .. => true
      | _ => false }

/-- The plan of a collective matrix instruction. -/
def planMatrix (x : Issue) : Plan := { planA x with own := diverged x.g }

/-! ### Claiming, releasing and loading (11 R212 to R215) -/

/-- Free physical slots of a core: a team holds its own until it is over, killed or not (21 R355). -/
def slotsFree (s : State) (core : Nat) : Nat := 16 - ((residents s core).map (fun t => t.slots.length)).foldl (· + ·) 0

/-- Another group of the core waits for a slot. -/
def slotQueued (s : State) (core : Nat) : Bool :=
  s.groups.any (fun g => g.wait == some .slotClaim && (whoOf s g).phys == core)

/-- What a matrix word does to its slots, its tiles and its group's counts; or the fault that stops it. -/
abbrev MatrixEffect := Issue → FaultInfo ⊕ State

/-- `slotr` (11 R212). -/
def slotrEffect (k : Nat) : MatrixEffect := fun x =>
  match needName x.s x.g k with
  | some f => .inl f
  | none => .inr (modTeam x.s x.g.team (fun t => { t with slots := (t.slots.filter (·.name != k)) }))

/-- What a load's reads of near memory observe (11 R227): what was ordered before its issue toward class X, at the age `age`. -/
def loadView (x : Issue) (age : Nat) : View := { classView x.s x.g maskX with own := age }

/-- `slotw` (11 R213): 64 bytes, each an element. -/
def slotwEffect (k age : Nat) : MatrixEffect := fun x =>
  match getName x.s x.g.team k with
  | none => .inl (fault 0x17 k)
  | some n =>
    if n.layout = 0 then .inl (fault 0x17 k)
    else match i64? (scalarA x) with
      | none => .inr x.s
      | some a =>
        let w := whoOf x.s x.g
        (match shapeFault x false a with
         | some f => .inl f
         | none => .inr (setName x.s x.g.team { n with
             sidecar := cellsOf 8 64 (fun j => nearSeen x.s w (loadView x age) (a.toNat + j) 1) }))

/-- The coordinates of a load: origin plus offset, exact (11 R214). -/
def originPlus (o : Coord) (k : Nat) : Coord := match o with | some y => coordOf (y + Int.ofNat k) | none => none

/-- The source coordinates of slot element (r, c). -/
def loadCoords (trans : Bool) (word : Nat) (r c : Nat) : List Coord :=
  let o0 : Coord := if word = na64 then none else i32? word
  let o1 : Coord := if word = na64 then none else i32? (word / 2 ^ 32)
  [originPlus o0 (if trans then r else c), originPlus o1 (if trans then c else r)]

/-- A present origin coordinate is not a multiple of 32 (11 R215). -/
def originOdd (word : Nat) : Bool :=
  let bad (c : Coord) : Bool := match c with | some y => y % 32 != 0 | none => false
  word != na64 && (bad (i32? word) || bad (i32? (word / 2 ^ 32)))

/-- The first fault among the addresses that a load touches, in the order of 11 R225. -/
def loadFault (s : State) (w : Who) (l : List (Int × Nat)) : Option FaultInfo :=
  let e : Eng := { who := w }
  let first (c : Nat) : Option FaultInfo :=
    (l.find? (fun a => engNear s e a.1 a.2 a.2 == some c)).map (fun a => fault c (addrData a.1))
  firstFault [first 0x10, first 0x12]

/-- The scale blocks of a load from a class 2 record, and where each scale lies (11 R215). -/
def scaleBlocks (h : Shape) (n : SlotName) : List (Nat × Nat) :=
  if h.cls = 2 then (List.range ((n.dims.1 / 32) * (n.dims.2 / 32))).map (fun b => (b / (n.dims.2 / 32), b % (n.dims.2 / 32)))
  else []

def scaleAddr (h : Shape) (trans : Bool) (word br bc : Nat) : Option Int :=
  let c := loadCoords trans word (32 * br) (32 * bc)
  match h.locate c, h.clamped c with
  | some _, some l => some (Int.ofNat (h.base + h.aux + h.scaleIndex l))
  | _, _ => none

/-- The elements of a slot: row and column. -/
def slotCells (n : SlotName) : List (Nat × Nat) := (List.range (n.dims.1 * n.dims.2)).map (fun i => (i / n.dims.2, i % n.dims.2))

/-- An uncorrectable error among the bytes that a load reads (11 R215). -/
def loadError (s : State) (w : Who) (l : List (Int × Nat)) : Option FaultInfo :=
  (l.find? (fun a => nearBad s w false a.1.toNat a.2)).map (fun a => fault 0x50 (addrData a.1))

/-- The faults of a slot load in their order (11 R225). -/
def slotLoadFault (s : State) (w : Who) (h : Shape) (n : SlotName) (trans : Bool) (k word : Nat) : Option FaultInfo :=
  let elems := (slotCells n).filterMap (fun rc => (h.locate (loadCoords trans word rc.1 rc.2)).map (fun a => (a, h.bytes)))
  let scales := (scaleBlocks h n).filterMap (fun b => (scaleAddr h trans word b.1 b.2).map (fun a => (a, 1)))
  firstFault [
    faultIf (trans && n.layout == 2) 0x17 k,
    faultIf (!h.valid || h.rank != 2 || (h.cls != 0 && h.cls != 2) || (h.cls == 2 && n.layout != 1)) 0x02 0,
    faultIf (h.type != n.type.toNat) 0x02 h.type,
    faultIf (n.layout == 1 && originOdd word) 0x16 word,
    faultIf (!Side.near.ok h) 0x15 h.base,
    loadFault s w (elems ++ scales),
    loadError s w (elems ++ scales)]

/-- A slot after a load: its elements, each read as the view sees it, and its scales where the record has some. -/
def slotLoaded (s : State) (v : View) (w : Who) (h : Shape) (n : SlotName) (trans : Bool) (word : Nat) : SlotName :=
  let code (rc : Nat × Nat) : Nat :=
    match h.locate (loadCoords trans word rc.1 rc.2) with | some a => nearSeen s w v a.toNat h.bytes | none => h.fill
  { n with
    store := (slotCells n).foldl (fun m rc => bytesSet m (n.place rc.1 rc.2) h.bytes (code rc)) []
    sidecar := (scaleBlocks h n).foldl (fun m b =>
      cellSet m (4 * b.1 + b.2)
        (BitVec.ofNat 8 (match scaleAddr h trans word b.1 b.2 with | some a => nearSeen s w v a.toNat 1 | none => 0x7F))) n.sidecar }

/-- `slotl` and `slott` (11 R214, R215). -/
def slotLoadEffect (trans : Bool) (k hn age : Nat) : MatrixEffect := fun x =>
  let h := Shape.of (hGet x.g hn)
  let w := whoOf x.s x.g
  match getName x.s x.g.team k with
  | none => .inl (fault 0x17 k)
  | some n =>
    match slotLoadFault x.s w h n trans k (scalarA x) with
    | some f => .inl f
    | none => .inr (setName x.s x.g.team (slotLoaded x.s (loadView x age) w h n trans (scalarA x)))

/-! ### Products (11 R216 to R221) -/

/-- One term of a product (11 R217). -/
def macStep (kind : Ty) (strict : Bool) (z : Nat × Events) (a b : Val) : Nat × Events :=
  let m : RMode := roundMode 0
  if a = .na ∨ b = .na then
    if strict then (kind.na, z.2.plus { absent := if kind.present z.1 then 1 else 0 }) else z
  else if strict && !kind.present z.1 then z
  else
    let p := deliverOpt kind m 0 (a.mul b)
    if !kind.present z.1 then (p.code, z.2.plus p.events)
    else let r := op2 .add kind m 0 z.1 p.code; (r.code, (z.2.plus p.events).plus r.events)

/-- An entry after its terms, in order. -/
def macEntry (kind : Ty) (strict : Bool) (z : Nat) (terms : List (Val × Val)) : Nat × Events :=
  terms.foldl (fun acc t => macStep kind strict acc t.1 t.2) (z, {})

/-- Replace the entries (m, n) that `f` gives, of `rows` rows and `cols` columns; with the events. -/
def tileUpdate (z : Tile) (rows cols : Nat) (f : Nat → Nat → Nat → Nat × Events) : Tile × Events :=
  (List.range (rows * cols)).foldl (fun (acc : Tile × Events) i =>
    let m := i / cols
    let n := i % cols
    let r := f m n (cellGet z.vals (128 * m + n)).toNat
    ({ acc.1 with vals := cellSet acc.1.vals (128 * m + n) (BitVec.ofNat 56 r.1) }, acc.2.plus r.2)) (z, {})

/-- The checks of a product (11 R217, R221, R225): the slots, the tile, the types, the kind. -/
def productFault (s : State) (g : Group) (a b zn : Nat) (sparse : Bool) : Option FaultInfo :=
  match getName s g.team a, getName s g.team b with
  | some x, some y =>
    firstFault [
      faultIf ((x.layout == 2) != sparse || (x.ty.width == 16 && x.form)) 0x17 a,
      faultIf (y.layout == 2 || (y.ty.width == 16 && !y.form)) 0x17 b,
      faultIf (sparse && !(decide (1 ≤ (cellGet x.sidecar 0).toNat) && decide ((cellGet x.sidecar 0).toNat ≤ 4))) 0x17 a,
      needTile s g zn,
      faultIf (x.type != y.type) 0x02 y.type.toNat,
      faultIf ((match getTile s g.team zn with | some z => z.kind.toNat | none => 0) != kindCode x.ty) 0x18 zn]
  | none, _ => some (fault 0x17 a)
  | _, none => some (fault 0x17 b)

/-- The patterns (11 R206): M and N of 1:4, 2:4, 2:8 and 4:8. -/
def patternMN (p : Nat) : Nat × Nat := if p = 1 then (4, 1) else if p = 2 then (4, 2) else if p = 3 then (8, 2) else (8, 4)

/-- Index j of a row of an N:M slot (11 R220). -/
def nmIndex (x : SlotName) (m j : Nat) : Nat := (cellGet x.store (128 * m + 64 + j / 2)).toNat / 16 ^ (j % 2) % 16

/-- Stable insertion by logical position. -/
def insertTerm (x : Nat × Nat) : List (Nat × Nat) → List (Nat × Nat)
  | [] => [x]
  | y :: ys => if x.1 < y.1 then x :: y :: ys else y :: insertTerm x ys

/-- The kept terms of row m: logical position and kept index, ascending (11 R221). -/
def nmTerms (x : SlotName) (m : Nat) : List (Nat × Nat) :=
  let (mm, nn) := patternMN (cellGet x.sidecar 0).toNat
  ((List.range (128 * nn / mm)).filter (fun j => decide (nmIndex x m j < mm))).foldl
    (fun l j => insertTerm (mm * (j / nn) + nmIndex x m j, j) l) []

/-- The terms of entry (m, n) of a product of a slot and another, in order (11 R217, R221). -/
def productTerms (sparse : Bool) (p q : SlotName) (m n : Nat) : List (Val × Val) :=
  if sparse then (nmTerms p m).map (fun t => (valOf p.ty false (p.code m t.2), q.val t.1 n))
  else (List.range (if p.ty.width = 8 then 128 else 64)).map (fun k => (p.val m k, q.val k n))

/-- `mma.s`, `mma.x` and `mma.sp` (11 R217, R221). -/
def mmaEffect (sparse strict : Bool) (a b zn : Nat) : MatrixEffect := fun x =>
  match productFault x.s x.g a b zn sparse, getName x.s x.g.team a, getName x.s x.g.team b, getTile x.s x.g.team zn with
  | none, some p, some q, some z =>
    let r := tileUpdate z 128 128 (fun m n v => macEntry (kindTy z.kind.toNat) strict v (productTerms sparse p q m n))
    .inr (chargeGroup (setTile x.s x.g.team zn r.1) x.g r.2)
  | some f, _, _, _ => .inl f
  | none, _, _, _ => .inl (fault 0x17 zn)

/-- `accz` (11 R219). -/
def acczEffect (absent float : Bool) (zn : Nat) : MatrixEffect := fun x =>
  match needTile x.s x.g zn with
  | some f => .inl f
  | none =>
    let k := if float then 9 else 8
    let v := if absent then (kindTy k).na else 0
    .inr (setTile x.s x.g.team zn { kind := BitVec.ofNat 8 k, vals := cellsOf 56 (128 * 128) (fun _ => v) })

/-- The magnitude of a value. -/
def Val.abs : Val → Val
  | .inf _ => .inf false
  | .fin _ n d => .fin false n d
  | v => v

/-- `a` ranks before `b` in `prune`: present before absent; among present the larger magnitude, NaN after every number. -/
def ranksBefore (a b : Val) : Bool :=
  match a, b with
  | .na, _ => false
  | _, .na => true
  | .nan, _ => false
  | _, .nan => true
  | a, b => b.abs.lt a.abs

/-- Stable insertion by rank. -/
def insertRank (x : Nat × Val) : List (Nat × Val) → List (Nat × Val)
  | [] => [x]
  | y :: ys => if ranksBefore x.2 y.2 then x :: y :: ys else y :: insertRank x ys

/-- The indices that `prune` keeps of a group, ascending. -/
def kept (n : Nat) (vals : List Val) : List Nat :=
  sortNats ((((vals.zipIdx.map (fun y => (y.2, y.1))).foldl (fun l y => insertRank y l) []).take n).map (·.1))

/-- The pruned form of a dense slot (11 R220). -/
def pruned (src : SlotName) (pat : Nat) : Cells 8 :=
  let (mm, nn) := patternMN pat
  (List.range 128).foldl (fun st m =>
    (List.range (128 / mm)).foldl (fun st g =>
      let keep := kept nn ((List.range mm).map (fun i => valOf src.ty false (src.code m (mm * g + i))))
      (keep.zipIdx).foldl (fun st y =>
        let j := nn * g + y.2
        let st := cellSet st (128 * m + j) (BitVec.ofNat 8 (src.code m (mm * g + y.1)))
        let b := 128 * m + 64 + j / 2
        cellSet st b (cellGet st b + BitVec.ofNat 8 (y.1 * 16 ^ (j % 2)))) st) st) []

/-- `prune` (11 R220) (DEDUCED, log 51). -/
def pruneEffect (d sn pat : Nat) : MatrixEffect := fun x =>
  match getName x.s x.g.team d, getName x.s x.g.team sn with
  | some dst, some src =>
    (match firstFault [
        faultIf (src.layout != 0) 0x17 sn,
        faultIf (d != sn && dst.layout != 2) 0x17 d,
        faultIf (src.ty.width != 8) 0x02 src.type.toNat,
        faultIf (dst.type != src.type) 0x02 dst.type.toNat] with
     | some f => .inl f
     | none => .inr (setName x.s x.g.team { dst with layout := 2, store := pruned src pat, sidecar := bytesSet [] 0 1 pat }))
  | _, none => .inl (fault 0x17 sn)
  | none, _ => .inl (fault 0x17 d)

/-! ### `accw` (11 R224), and the order of operations (11 R209) -/

/-- The place of a lane's entry under a position (11 R223); none when it is invalid. -/
def tilePlace (pos i : Nat) : Option Nat :=
  if pos = na64 then none
  else match i32? pos, i32? (pos / 2 ^ 32) with
    | some r, some c =>
      let c := c + Int.ofNat i
      if 0 ≤ r ∧ r < 128 ∧ 0 ≤ c ∧ c < 128 then some (128 * r.toNat + c.toNat) else none
    | _, _ => none

/-- `accw` (11 R224): exact, but that an i64 clamps into the integer kind. -/
def accwEffect (zn : Nat) : MatrixEffect := fun x =>
  let t := typeOf x.e.mode true
  match getTile x.s x.g.team zn with
  | none => .inl (fault 0x17 zn)
  | some z =>
    let r := (lanesOf x.e.active x.g.width).foldl (fun (acc : Tile × Events) i =>
      match tilePlace (scalarD x) i with
      | none => acc
      | some p =>
        let c := convert t (kindTy z.kind.toNat) (roundMode 0) 0 (srcVal x.e x.i.form.a x.e.slotA t i)
        ({ acc.1 with vals := cellSet acc.1.vals p (BitVec.ofNat 56 c.code) }, acc.2.plus c.events)) (z, {})
    .inr (chargeGroup (setTile x.s x.g.team zn r.1) x.g r.2)

/-- `accr` (11 R223), at its group as it stands: the result goes to its register, and to the latch that waits for it. -/
def accrEffect (zn : Nat) : MatrixEffect := fun x =>
  let f := x.i.form
  let t := typeOf x.e.mode true
  match getTile x.s x.g.team zn, getGroup x.s x.g.id with
  | none, _ => .inl (fault 0x17 zn)
  | _, none => .inr x.s
  | some z, some g =>
    let one (i : Nat) : LRes :=
      match tilePlace (scalarA x) i with
      | none => { code := t.na, s := rngOf g i }
      | some p => convert (kindTy z.kind.toNat) t (roundMode x.e.mode) (rngOf g i) (cellGet z.vals p).toNat
    let l := (lanesOf x.e.active g.width).map (fun i => (i, one i))
    .inr (putVec (chargeGroup x.s g (sumEvents l)) (setRngs g l) x.e f.t (destReg f.d) (t.width == 64) x.e.active (laneCode l))

/-- What a word of the matrix engine does, by its instruction and the age at its issue. -/
def matrixEffect (i : Instr) (age : Nat) : MatrixEffect :=
  match i with
  | .slotr _ k => slotrEffect k.toNat
  | .slotw _ k _ => slotwEffect k.toNat age
  | .slotl _ k h _ => slotLoadEffect false k.toNat h.toNat age
  | .slott _ k h _ => slotLoadEffect true k.toNat h.toNat age
  | .prune _ d k p => pruneEffect d.toNat k.toNat p.toNat
  | .accz _ f k z => acczEffect (f == 1) (k == 1) z.toNat
  | .mmaS _ a b z => mmaEffect false false a.toNat b.toNat z.toNat
  | .mmaX _ a b z => mmaEffect false true a.toNat b.toNat z.toNat
  | .mmaSp _ a b x z => mmaEffect true (x == 1) a.toNat b.toNat z.toNat
  | .accr _ _ _ _ z => accrEffect z.toNat
  | .accw _ _ _ z => accwEffect z.toNat
  | _ => fun x => .inr x.s

/-- A waiting operation has its effect. -/
def matrixApply (s : State) (todo : Entry × Group) (age : Nat) : FaultInfo ⊕ State :=
  match instrOf todo.1.word with
  | some i => matrixEffect i age { s := s, g := todo.2, i := i, e := todo.1, fresh := false }
  | none => .inr s

/-- The slots and tiles as the operations that wait on a core will leave them: what a later word's checks look at. -/
def projected (s : State) (core : Nat) : State :=
  (getCore s core).matrix.foldl (fun s m =>
    match m.todo with
    | some t => (match matrixApply s t m.issueAge with | .inr s => s | .inl _ => s)
    | none => s) s

/-- A matrix word enters the engine to wait there. A tile read leaves in its group the latch that waits for its result, under a tag
past those of a queue's entries (03 R54, 21 R344). -/
def matrixWaits (x : Issue) : State :=
  let enter (s : State) (e : Entry) : State := occupy s x.g (matrixEntry x.i none (some (e, x.g)) x.s.age)
  match x.i with
  | .accr .. =>
    if x.e.tag ≠ 0 then enter x.s x.e
    else
      let (n, s) := fresh x.s
      modGroup (enter s { x.e with tag := 32 + n }) x.g.id (fun g =>
        { g with latch := (.pending true (32 + n), g.latch.1, g.latch.2.1) })
  | _ => enter x.s x.e

/-- Issue a matrix word: it has its effect at once, or waits behind an earlier operation that has not had its own, once its
checks have passed. An error in memory is met only when it reads. -/
def matrixRun (x : Issue) : Except Stop Done :=
  if matrixBlocked x.s x.g x.i then
    match matrixEffect x.i x.s.age { x with s := projected x.s (whoOf x.s x.g).phys } with
    | .inl y => if y.cause = 0x50 then .ok (.ok (matrixWaits x)) else .error (.flt y)
    | .inr _ => .ok (.ok (matrixWaits x))
  else match matrixEffect x.i x.s.age x with
    | .inl y => stopFault x y
    | .inr s => .ok (.ok (occupy s x.g (matrixEntry x.i none none x.s.age)))

/-- `slotc` (11 R212): a name whose release waits in the engine is not yet free. -/
def slotcBody (k layout : Nat) (form : Bool) (code : Nat) (x : Issue) : Except Stop Done :=
  let core := (whoOf x.s x.g).phys
  if (getName (projected x.s core) x.g.team k).isSome then .error (.flt (fault 0x17 k))
  else if !(match Ty.ofCode code with | some t => slotType layout t | none => false) then .error (.flt (fault 0x02 code))
  else if (getName x.s x.g.team k).isSome ∨ slotsFree x.s core = 0 ∨ (!x.g.granted ∧ slotQueued x.s core) then
    .error (.wait .slotClaim)
  else .ok (.ok (modTeam x.s x.g.team (fun t => { t with slots := t.slots ++
    [{ name := k, type := BitVec.ofNat 8 code, layout := BitVec.ofNat 2 layout, form := form }] })))

/-! ### The matrix-vector stream (11 R222) -/

/-- `mmav` at issue. The operation keeps W, the vector slot, the count, the strict bit, the tile and `h0`'s tensor. -/
def mmavBody (v wn tl count : Nat) (strict : Bool) (zn : Nat) (x : Issue) : Except Stop Done :=
  let rec_ := hGet x.g wn
  let h := Shape.of rec_
  let p := projected x.s (whoOf x.s x.g).phys
  match getName p x.g.team v with
  | none => .error (.flt (fault 0x17 v))
  | some n =>
    match firstFault [
        faultIf (n.layout != 0) 0x17 v,
        needTile p x.g zn,
        faultIf (!h.valid || h.rank != 2 || (h.cls != 0 && h.cls != 2) || decide (128 < h.extAt 0) ||
          decide (16384 / h.ty.width < h.extAt 1)) 0x02 0,
        faultIf (h.type != n.type.toNat) 0x02 h.type,
        faultIf ((match getTile p x.g.team zn with | some z => z.kind.toNat | none => 0) != kindCode n.ty) 0x18 zn,
        faultIf (!Side.main.ok h) 0x15 h.base,
        tlFull x.s x.g.team tl] with
    | some f => .error (.flt f)
    | none =>
      let args := [v, count, if strict then 1 else 0, zn, tensorId (hGet x.g 0)].map (BitVec.ofNat 64)
      .ok (.ok (occupy (issueOp x.s x.g (blankOp .mmav tl x.e.word x.e.mode [rec_] args)) x.g
        (matrixEntry x.i (some x.s.nextId) none x.s.age)))

/-- The value of an element of W. -/
def elemVal (t : Ty) : Elem → Val
  | .code x _ => valOf t false x
  | .scaled x k => scaleVal (valOf t false x) k

/-- W's elements in ascending linear index, or where the stream stops. -/
def streamW (s : State) (op : EngineOp) (h : Shape) (stopAt : Option (Nat × Nat)) : Run × List Val :=
  (List.range h.count).foldl (fun (acc : Run × List Val) k =>
    if acc.1.failed.isSome || !acc.1.pages.isEmpty then acc
    else match stopAt.filter (·.1 == k) with
      | some x => ({ acc.1 with failed := some x }, acc.2)
      | none =>
        match readElem acc.1.s (opEng op) h (coordsOf (h.coords k)) with
        | .inr (e, s) => ({ acc.1 with s := s }, elemVal h.ty e :: acc.2)
        | .inl (.flt c) => ({ acc.1 with failed := some (k, c) }, acc.2)
        | .inl (.park p line) => ({ acc.1 with pages := [p], lines := [line] }, acc.2)) ({ s := s }, [])

/-- Run a stream: the rows change at once when it ends; a fault leaves the tile unchanged. -/
def runMmav (s : State) (op : EngineOp) (stopAt : Option (Nat × Nat)) : EngineResult :=
  let h := Shape.of (op.recs.getD 0 0)
  let a (k : Nat) : Nat := (op.args.getD k 0).toNat
  let (r, back) := streamW s op h stopAt
  let ws := back.reverse
  match r.failed, r.pages, getName s op.team (a 0), getTile s op.team (a 3) with
  | none, [], some n, some z =>
    let kind := kindTy z.kind.toNat
    let nb := n.ty.width / 8
    let u := tileUpdate z (a 1) (h.extAt 0) (fun v c acc =>
      macEntry kind (a 2 == 1) acc ((List.range (h.extAt 1)).map (fun k =>
        (valOf n.ty false (bytesGet n.store (2048 * v + k * nb) nb), ws.getD (k * h.extAt 0 + c) .na))))
    { op := op, run := { r with s := setTile r.s op.team (a 3) u.1, ev := u.2 }, tensor := a 4 }
  | _, _, _, _ => { op := op, run := r, tensor := a 4 }

/-- End an operation's occupation of a slot and a tile. -/
def vacate (s : State) (op : EngineOp) : State :=
  modCore s (physCore s op.context op.core) (fun c => { c with matrix := c.matrix.filter (·.op != some op.id) })

/-- An `mmav` waits for an earlier operation on its slot or its tile. -/
def mmavBlocked (s : State) (op : EngineOp) : Bool :=
  let before := (getCore s (physCore s op.context op.core)).matrix.takeWhile (·.op != some op.id)
  before.any (fun m => m.unapplied && m.overlaps op.team [(op.args.getD 0 0).toNat] [(op.args.getD 3 0).toNat])

/-- Advance an `mmav` to its end or to a parked access. -/
def completeMmav (s : State) (op : EngineOp) (stopAt : Option (Nat × Nat)) : State :=
  let r := runMmav s op stopAt
  if r.run.pages.isEmpty then vacate (finishEngine r) op else finishEngine r

/-! ### Reading and writing tiles (11 R223, R224) -/

/-- A type class of 11 R223: I, F or B8. -/
def tileType (t : Ty) : Bool := t.isInt || t.isF8

/-- The faults of `accr` and `accw` (11 R225, 3 to 5). -/
def tileFault (s : State) (g : Group) (zn code : Nat) (t : Ty) (write : Bool) : Option FaultInfo :=
  let kind := match getTile s g.team zn with | some z => z.kind.toNat | none => 0
  firstFault [
    needTile s g zn,
    faultIf (!tileType t) 0x02 code,
    faultIf (kind == 0 || (write && kind != (if t.isInt then 8 else 9))) 0x18 zn]

/-- The plan of `accr`: its checks look at the tile as the operations before it leave it. -/
def planAccr (zn : Nat) (x : Issue) : Plan :=
  let f := x.i.form
  let s := projected x.s (whoOf x.s x.g).phys
  let code := modeTypeCode x.g.mode true
  let t := typeOf x.g.mode true
  let wide := t.width == 64
  let kind := match getTile s x.g.team zn with | some z => z.kind.toNat | none => 0
  let dn := destReg f.d
  { bad := (wide && oddV f.d) || (f.t && t.width != 32) ||
      (kind != 0 && convertRounds (kindTy kind) t && modeField x.g.mode 11 3 == 7)
    vec := true, ty := some code, own := tileFault s x.g zn code t false
    readA := true, naA := na64
    writes := if f.t then [] else if wide then [dn, dn + 1] else [dn]
    active := activeSet x.g }

/-- The plan of `accw`: its checks look at the tile as the operations before it leave it. -/
def planAccw (zn : Nat) (x : Issue) : Plan :=
  let f := x.i.form
  let code := modeTypeCode x.g.mode true
  let t := typeOf x.g.mode true
  let wide := t.width == 64
  { bad := (wide && oddV f.a) || !vecSource x f.a
    vec := true, ty := some code, own := tileFault (projected x.s (whoOf x.s x.g).phys) x.g zn code t true
    readD := true, naD := na64, readA := true, pairA := wide, naA := t.na
    active := activeSet x.g }

/-- `slotc` (11 R212). -/
def execSlotc (sf : BitVec 4) (l : BitVec 2) (f : BitVec 1) (a : BitVec 8) (s : State) :
    Host.Outcome State Fault Refusal := runWord (.slotc sf l f a) s planMatrix [] (slotcBody sf.toNat l.toNat (f == 1) a.toNat)

/-- `slotr` (11 R212). -/
def execSlotr (e : Bool) (sf : BitVec 4) (s : State) :
    Host.Outcome State Fault Refusal := runWord (.slotr e sf) s planMatrix [] matrixRun

/-- `slotw` (11 R213). -/
def execSlotw (e : Bool) (sf : BitVec 4) (a : Opnd) (s : State) :
    Host.Outcome State Fault Refusal := runWord (.slotw e sf a) s planMatrix [] matrixRun

/-- `slotl` (11 R214). -/
def execSlotl (e : Bool) (sf : BitVec 4) (h : BitVec 4) (a : Opnd) (s : State) :
    Host.Outcome State Fault Refusal := runWord (.slotl e sf h a) s planMatrix [] matrixRun

/-- `slott` (11 R214). -/
def execSlott (e : Bool) (sf : BitVec 4) (h : BitVec 4) (a : Opnd) (s : State) :
    Host.Outcome State Fault Refusal := runWord (.slott e sf h a) s planMatrix [] matrixRun

/-- `prune` (11 R220). -/
def execPrune (e : Bool) (d : BitVec 4) (sf : BitVec 4) (p : BitVec 3) (s : State) :
    Host.Outcome State Fault Refusal := runWord (.prune e d sf p) s planMatrix [] matrixRun

/-- `accz` (11 R219). -/
def execAccz (e : Bool) (f : BitVec 1) (k : BitVec 1) (z : BitVec 2) (s : State) :
    Host.Outcome State Fault Refusal := runWord (.accz e f k z) s planMatrix [] matrixRun

/-- `mma.s` (11 R217). -/
def execMmaS (e : Bool) (a : BitVec 4) (b : BitVec 4) (z : BitVec 2) (s : State) :
    Host.Outcome State Fault Refusal := runWord (.mmaS e a b z) s planMatrix [] matrixRun

/-- `mma.x` (11 R217). -/
def execMmaX (e : Bool) (a : BitVec 4) (b : BitVec 4) (z : BitVec 2) (s : State) :
    Host.Outcome State Fault Refusal := runWord (.mmaX e a b z) s planMatrix [] matrixRun

/-- `mma.sp` (11 R221). -/
def execMmaSp (e : Bool) (a : BitVec 4) (b : BitVec 4) (x : BitVec 1) (z : BitVec 2) (s : State) :
    Host.Outcome State Fault Refusal := runWord (.mmaSp e a b x z) s planMatrix [] matrixRun

/-- `mmav` (11 R222). -/
def execMmav (e : Bool) (v : BitVec 4) (w : BitVec 4) (l : BitVec 3) (c : BitVec 3) (x : BitVec 1) (z : BitVec 2) (s : State) :
    Host.Outcome State Fault Refusal := runWord (.mmav e v w l c x z) s planMatrix [] (mmavBody v.toNat w.toNat l.toNat (c.toNat + 1) (x == 1) z.toNat)

/-- `accr` (11 R223). -/
def execAccr (e : Bool) (t : Bool) (d : Opnd) (a : Opnd) (z : BitVec 2) (s : State) :
    Host.Outcome State Fault Refusal := runWord (.accr e t d a z) s (planAccr z.toNat) [] matrixRun

/-- `accw` (11 R224). -/
def execAccw (e : Bool) (d : Opnd) (a : Opnd) (z : BitVec 2) (s : State) :
    Host.Outcome State Fault Refusal := runWord (.accw e d a z) s (planAccw z.toNat) [] matrixRun

end Sys2Proof.Machine
end

