-- ==== Sys2Proof/Machine/Riscv.lean ====
section
/-! DEFINITION. The Admiral's core, RV64IMAC with Zicsr (01 R18, 18 R326), which runs a customer's routing program over its 1 MiB
of private memory (25 R380). The spec names the instruction set; what its instructions do is that set's own (PRESUMED, log 26). -/

namespace Sys2Proof.Machine

/-- The core with its memory. -/
structure RvCore where
  rv : Rv
  mem : Cells 8
  deriving DecidableEq, Repr

/-- A register; `x0` is zero. -/
def RvCore.get (c : RvCore) (n : Nat) : DWord := if n = 0 then 0 else cellGet c.rv.x n

/-- Write a register and go on at `pc`. -/
def RvCore.put (c : RvCore) (n : Nat) (x pc : DWord) : RvCore :=
  { c with rv := { c.rv with x := if n = 0 then c.rv.x else cellSet c.rv.x n x, pc := pc } }

/-- Bytes of the private memory: none outside it, which traps. -/
def RvCore.load (c : RvCore) (a : DWord) (n : Nat) : Option Nat :=
  if a.toNat + n ≤ 2 ^ 20 then some (bytesGet c.mem a.toNat n) else none

def RvCore.store (c : RvCore) (a : DWord) (n x : Nat) : Option RvCore :=
  if a.toNat + n ≤ 2 ^ 20 then some { c with mem := bytesSet c.mem a.toNat n x } else none

/-- The low half of a value, sign-extended. -/
def rvWord (x : DWord) : DWord := (x.setWidth 32).signExtend 64

/-- One bit for a condition. -/
def rvFlag (b : Bool) : DWord := if b then 1 else 0

/-- Signed division and remainder with the results of a zero divisor. -/
def rvDiv {w : Nat} (a b : BitVec w) : BitVec w := if b = 0 then BitVec.allOnes w else a.sdiv b
def rvRem {w : Nat} (a b : BitVec w) : BitVec w := if b = 0 then a else a.srem b
def rvDivu {w : Nat} (a b : BitVec w) : BitVec w := if b = 0 then BitVec.allOnes w else a / b
def rvRemu {w : Nat} (a b : BitVec w) : BitVec w := if b = 0 then a else a % b

/-- The upper half of a product. -/
def rvHigh (a b : Int) : DWord := BitVec.ofInt 64 (a * b / 2 ^ 64)

/-- A register operation: function codes 3 and 7. -/
def rvAlu (f3 f7 : Nat) (a b : DWord) : Option DWord :=
  let sh := b.toNat % 64
  match f7, f3 with
  | 0x00, 0 => some (a + b)
  | 0x20, 0 => some (a - b)
  | 0x00, 1 => some (a <<< sh)
  | 0x00, 2 => some (rvFlag (a.slt b))
  | 0x00, 3 => some (rvFlag (a.ult b))
  | 0x00, 4 => some (a ^^^ b)
  | 0x00, 5 => some (a >>> sh)
  | 0x20, 5 => some (a.sshiftRight sh)
  | 0x00, 6 => some (a ||| b)
  | 0x00, 7 => some (a &&& b)
  | 0x01, 0 => some (a * b)
  | 0x01, 1 => some (rvHigh a.toInt b.toInt)
  | 0x01, 2 => some (rvHigh a.toInt (Int.ofNat b.toNat))
  | 0x01, 3 => some (rvHigh (Int.ofNat a.toNat) (Int.ofNat b.toNat))
  | 0x01, 4 => some (rvDiv a b)
  | 0x01, 5 => some (rvDivu a b)
  | 0x01, 6 => some (rvRem a b)
  | 0x01, 7 => some (rvRemu a b)
  | _, _ => none

/-- A register operation on 32-bit halves. -/
def rvAluW (f3 f7 : Nat) (x y : DWord) : Option DWord :=
  let a : BitVec 32 := x.setWidth 32
  let b : BitVec 32 := y.setWidth 32
  let sh := b.toNat % 32
  let r : Option (BitVec 32) := match f7, f3 with
   | 0x00, 0 => some (a + b)
   | 0x20, 0 => some (a - b)
   | 0x00, 1 => some (a <<< sh)
   | 0x00, 5 => some (a >>> sh)
   | 0x20, 5 => some (a.sshiftRight sh)
   | 0x01, 0 => some (a * b)
   | 0x01, 4 => some (rvDiv a b)
   | 0x01, 5 => some (rvDivu a b)
   | 0x01, 6 => some (rvRem a b)
   | 0x01, 7 => some (rvRemu a b)
   | _, _ => none
  r.map fun v => v.signExtend 64

/-- A branch's condition. -/
def rvTaken (f3 : Nat) (a b : DWord) : Option Bool :=
  match f3 with
  | 0 => some (a == b)
  | 1 => some (a != b)
  | 4 => some (a.slt b)
  | 5 => some (!a.slt b)
  | 6 => some (a.ult b)
  | 7 => some (!a.ult b)
  | _ => none

/-- What a load of a width gives a register. -/
def rvExtend (f3 x : Nat) : DWord :=
  match f3 with
  | 0 => (BitVec.ofNat 8 x).signExtend 64
  | 1 => (BitVec.ofNat 16 x).signExtend 64
  | 2 => (BitVec.ofNat 32 x).signExtend 64
  | _ => BitVec.ofNat 64 x

/-- What an atomic memory operation leaves, by its function code. -/
def rvAmo {w : Nat} (f5 : Nat) (a b : BitVec w) : Option (BitVec w) :=
  match f5 with
  | 0x00 => some (a + b)
  | 0x01 => some b
  | 0x04 => some (a ^^^ b)
  | 0x08 => some (a ||| b)
  | 0x0C => some (a &&& b)
  | 0x10 => some (if a.slt b then a else b)
  | 0x14 => some (if a.slt b then b else a)
  | 0x18 => some (if a.ult b then a else b)
  | 0x1C => some (if a.ult b then b else a)
  | _ => none

/-- `lr`, `sc` and the atomic memory operations, of 4 or 8 bytes; a misaligned one traps. -/
def rvAtomic (c : RvCore) (f3 f5 rd rs2 : Nat) (a pc : DWord) : Option RvCore :=
  let n := 2 ^ f3
  if f3 ≠ 2 ∧ f3 ≠ 3 then none
  else if a.toNat % n ≠ 0 then none
  else
    (c.load a n).bind (fun old =>
      let b := c.get rs2
      let v := rvExtend f3 old
      if f5 = 2 then
        (if rs2 = 0 then some { (c.put rd v pc) with rv := { (c.put rd v pc).rv with reservation := some a.toNat } } else none)
      else if f5 = 3 then
        (if c.rv.reservation = some a.toNat then c.store a n b.toNat else some c).map (fun d =>
          let d := d.put rd (rvFlag (c.rv.reservation != some a.toNat)) pc
          { d with rv := { d.rv with reservation := none } })
      else
        let new : Option Nat :=
          if f3 = 2 then (rvAmo f5 (BitVec.ofNat 32 old) (b.setWidth 32)).map (·.toNat)
          else (rvAmo f5 (BitVec.ofNat 64 old) b).map (·.toNat)
        new.bind (fun x => (c.store a n x).map (fun d => d.put rd v pc)))

/-- The instructions of Zicsr: no register has an effect of its own, and those of read-only numbers refuse a write. -/
def rvCsr (c : RvCore) (f3 rd rs1 n : Nat) (pc : DWord) : Option RvCore :=
  let old := cellGet c.rv.csr n
  let src : DWord := if 4 ≤ f3 then BitVec.ofNat 64 rs1 else c.get rs1
  let writes := f3 % 4 = 1 ∨ rs1 ≠ 0
  let new : DWord := if f3 % 4 = 1 then src else if f3 % 4 = 2 then old ||| src else old &&& ~~~src
  if f3 % 4 = 0 ∨ (writes ∧ n / 2 ^ 10 = 3) then none
  else
    let d := c.put rd old pc
    some (if writes then { d with rv := { d.rv with csr := cellSet d.rv.csr n new } } else d)

/-- Execute a 32-bit instruction of a length in bytes; none where it traps. -/
def rvExec (c : RvCore) (w : BitVec 32) (len : Nat) : Option RvCore :=
  let k := w.toNat
  let rd := k / 2 ^ 7 % 32
  let f3 := k / 2 ^ 12 % 8
  let rs1 := k / 2 ^ 15 % 32
  let rs2 := k / 2 ^ 20 % 32
  let f7 := k / 2 ^ 25
  let pc := c.rv.pc
  let next := pc + BitVec.ofNat 64 len
  let a := c.get rs1
  let b := c.get rs2
  let immI : DWord := (w.extractLsb' 20 12).signExtend 64
  let immS : DWord := (w.extractLsb' 25 7 ++ w.extractLsb' 7 5).signExtend 64
  let immB : DWord := (w.extractLsb' 31 1 ++ w.extractLsb' 7 1 ++ w.extractLsb' 25 6 ++ w.extractLsb' 8 4 ++ 0#1).signExtend 64
  let immU : DWord := (w.extractLsb' 12 20 ++ 0#12).signExtend 64
  let immJ : DWord := (w.extractLsb' 31 1 ++ w.extractLsb' 12 8 ++ w.extractLsb' 20 1 ++ w.extractLsb' 21 10 ++ 0#1).signExtend 64
  -- an immediate operation is a register operation; a shift's upper bits are its function code
  let shift := f3 = 1 ∨ f3 = 5
  match k % 128 with
  | 0x37 => some (c.put rd immU next)
  | 0x17 => some (c.put rd (pc + immU) next)
  | 0x6F => some (c.put rd next (pc + immJ))
  | 0x67 => if f3 = 0 then some (c.put rd next ((a + immI) &&& ~~~1)) else none
  | 0x63 => (rvTaken f3 a b).map (fun t => c.put 0 0 (if t then pc + immB else next))
  | 0x03 =>
    if f3 = 7 then none else (c.load (a + immI) (2 ^ (f3 % 4))).map (fun x => c.put rd (rvExtend f3 x) next)
  | 0x23 => if 3 < f3 then none else (c.store (a + immS) (2 ^ f3) b.toNat).map (fun d => d.put 0 0 next)
  | 0x13 => (rvAlu f3 (if shift then f7 / 2 * 2 else 0) a immI).map (fun x => c.put rd x next)
  | 0x33 => (rvAlu f3 f7 a b).map (fun x => c.put rd x next)
  | 0x1B =>
    if f3 = 0 then some (c.put rd (rvWord (a + immI)) next)
    else if shift ∧ f7 ≠ 1 then (rvAluW f3 f7 a (BitVec.ofNat 64 rs2)).map (fun x => c.put rd x next)
    else none
  | 0x3B => (rvAluW f3 f7 a b).map (fun x => c.put rd x next)
  | 0x2F => rvAtomic c f3 (f7 / 4) rd rs2 a next
  | 0x0F => if f3 = 0 then some (c.put 0 0 next) else none
  | 0x73 => rvCsr c f3 rd rs1 (k / 2 ^ 20) next
  | _ => none

/-! ### Compressed instructions -/

/-- Instruction words by format. -/
def rvR (f7 rs2 rs1 f3 rd op : Nat) : BitVec 32 :=
  BitVec.ofNat 32 (f7 * 2 ^ 25 + rs2 * 2 ^ 20 + rs1 * 2 ^ 15 + f3 * 2 ^ 12 + rd * 2 ^ 7 + op)
def rvI (imm : BitVec 12) (rs1 f3 rd op : Nat) : BitVec 32 := rvR (imm.toNat / 32) (imm.toNat % 32) rs1 f3 rd op
def rvS (imm rs2 rs1 f3 : Nat) : BitVec 32 := rvR (imm / 32) rs2 rs1 f3 (imm % 32) 0x23
def rvB (imm : BitVec 13) (rs1 f3 : Nat) : BitVec 32 :=
  rvR ((imm.extractLsb' 12 1).toNat * 64 + (imm.extractLsb' 5 6).toNat) 0 rs1 f3
    ((imm.extractLsb' 1 4).toNat * 2 + (imm.extractLsb' 11 1).toNat) 0x63
def rvJ (imm : BitVec 21) (rd : Nat) : BitVec 32 :=
  imm.extractLsb' 20 1 ++ imm.extractLsb' 1 10 ++ imm.extractLsb' 11 1 ++ imm.extractLsb' 12 8 ++ BitVec.ofNat 5 rd ++ 0x6F#7

/-- The instruction that a 16-bit one stands for; none where there is no such instruction. -/
def rvExpand (h : Nat) : Option (BitVec 32) :=
  let f (lo n : Nat) : Nat := h / 2 ^ lo % 2 ^ n
  let rd := f 7 5
  let r1 := 8 + f 7 3
  let r2 := 8 + f 2 3
  let s2 := f 2 5
  let sh := 32 * f 12 1 + f 2 5
  let i6 : BitVec 12 := (BitVec.ofNat 6 sh).signExtend 12
  let imm (x : Nat) : BitVec 12 := BitVec.ofNat 12 x
  match h % 4, f 13 3 with
  | 0, 0 =>
    let x := 16 * f 11 2 + 64 * f 7 4 + 4 * f 6 1 + 8 * f 5 1
    if x = 0 then none else some (rvI (imm x) 2 0 r2 0x13)
  | 0, 2 => some (rvI (imm (8 * f 10 3 + 4 * f 6 1 + 64 * f 5 1)) r1 2 r2 0x03)
  | 0, 3 => some (rvI (imm (8 * f 10 3 + 64 * f 5 2)) r1 3 r2 0x03)
  | 0, 6 => some (rvS (8 * f 10 3 + 4 * f 6 1 + 64 * f 5 1) r2 r1 2)
  | 0, 7 => some (rvS (8 * f 10 3 + 64 * f 5 2) r2 r1 3)
  | 1, 0 => some (rvI i6 rd 0 rd 0x13)
  | 1, 1 => if rd = 0 then none else some (rvI i6 rd 0 rd 0x1B)
  | 1, 2 => some (rvI i6 0 0 rd 0x13)
  | 1, 3 =>
    if sh = 0 then none
    else if rd = 2 then
      some (rvI ((BitVec.ofNat 10 (512 * f 12 1 + 16 * f 6 1 + 64 * f 5 1 + 128 * f 3 2 + 32 * f 2 1)).signExtend 12) 2 0 2 0x13)
    else some (((BitVec.ofNat 6 sh).signExtend 20) ++ BitVec.ofNat 5 rd ++ 0x37#7)
  | 1, 4 =>
    (match f 10 2 with
     | 0 => some (rvI (imm sh) r1 5 r1 0x13)
     | 1 => some (rvI (imm (0x400 + sh)) r1 5 r1 0x13)
     | 2 => some (rvI i6 r1 7 r1 0x13)
     | _ =>
       match f 12 1, f 5 2 with
       | 0, 0 => some (rvR 0x20 r2 r1 0 r1 0x33)
       | 0, 1 => some (rvR 0 r2 r1 4 r1 0x33)
       | 0, 2 => some (rvR 0 r2 r1 6 r1 0x33)
       | 0, _ => some (rvR 0 r2 r1 7 r1 0x33)
       | _, 0 => some (rvR 0x20 r2 r1 0 r1 0x3B)
       | _, 1 => some (rvR 0 r2 r1 0 r1 0x3B)
       | _, _ => none)
  | 1, 5 =>
    some (rvJ ((BitVec.ofNat 12 (2048 * f 12 1 + 16 * f 11 1 + 256 * f 9 2 + 1024 * f 8 1 + 64 * f 7 1 + 128 * f 6 1 +
      2 * f 3 3 + 32 * f 2 1)).signExtend 21) 0)
  | 1, k =>
    some (rvB ((BitVec.ofNat 9 (256 * f 12 1 + 8 * f 10 2 + 64 * f 5 2 + 2 * f 3 2 + 32 * f 2 1)).signExtend 13) r1 (k - 6))
  | 2, 0 => some (rvI (imm sh) rd 1 rd 0x13)
  | 2, 2 => if rd = 0 then none else some (rvI (imm (32 * f 12 1 + 4 * f 4 3 + 64 * f 2 2)) 2 2 rd 0x03)
  | 2, 3 => if rd = 0 then none else some (rvI (imm (32 * f 12 1 + 8 * f 5 2 + 64 * f 2 3)) 2 3 rd 0x03)
  | 2, 4 =>
    if s2 ≠ 0 then some (rvR 0 s2 (if f 12 1 = 0 then 0 else rd) 0 rd 0x33)
    else if rd = 0 then none
    else some (rvI 0 rd 0 (f 12 1) 0x67)
  | 2, 6 => some (rvS (4 * f 9 4 + 64 * f 7 2) s2 2 2)
  | 2, 7 => some (rvS (8 * f 10 3 + 64 * f 7 3) s2 2 3)
  | _, _ => none

/-! ### Running -/

/-- Fetch and execute one instruction; none where it traps. -/
def rvStep (c : RvCore) : Option RvCore :=
  (c.load c.rv.pc 2).bind (fun h =>
    if h % 4 ≠ 3 then (rvExpand h).bind (fun w => rvExec c w 2)
    else (c.load c.rv.pc 4).bind (fun w => rvExec c (BitVec.ofNat 32 w) 4))

/-- Run until the program counter is at the return address: the core, and whether it has returned. -/
def rvRun (ret : DWord) : Nat → RvCore → RvCore × Bool
  | 0, c => (c, c.rv.pc == ret)
  | n + 1, c =>
    if c.rv.pc = ret then (c, true)
    else match rvStep c with
      | some d => rvRun ret n d
      | none => (c, false)

/-- Call a program at an address with arguments in `a0` to `a4`, for at most 100,000 instructions (25 R380; PRESUMED, log 26: an
instruction takes a cycle or more). -/
def rvCall (c : RvCore) (entry ret : Nat) (args : List Nat) : RvCore × Bool :=
  let x := (args.zipIdx).foldl (fun m y => cellSet m (10 + y.2) (BitVec.ofNat 64 y.1)) (cellSet c.rv.x 1 (BitVec.ofNat 64 ret))
  rvRun (BitVec.ofNat 64 ret) 100000 { c with rv := { c.rv with pc := BitVec.ofNat 64 entry, x := x } }

end Sys2Proof.Machine
end

