-- ==== Sys2Proof/Machine/Routing.lean ====
section
/-! DEFINITION. The select unit (18 R320 to R325) and the Admiral of each die (18 R326 to R341): pushing and waiting, the
gathering of packets, and the routing of a batch. -/

namespace Sys2Proof.Machine

/-! ### Ranking (18 R322) -/

/-- A present value ranks before another; NaN is below every number. -/
def ranksHigher (a b : Val) : Bool :=
  match a, b with
  | .nan, _ => false
  | _, .nan => true
  | a, b => b.lt a

/-- Stable insertion, best first. -/
def insertBest (x : Nat × Val) : List (Nat × Val) → List (Nat × Val)
  | [] => [x]
  | y :: ys => if ranksHigher x.2 y.2 then x :: y :: ys else y :: insertBest x ys

/-- The present values' indices in rank order, at most `k` of them. -/
def bestOf (k : Nat) (vals : List Val) : List Nat :=
  ((((vals.zipIdx.map (fun y => (y.2, y.1))).filter (fun y => y.2 != .na)).foldl (fun l y => insertBest y l) []).take k).map (·.1)

/-! ### The select unit -/

/-- Positions of the ranked dimension and lines of the other. -/
def selectDims (rows : Bool) (h : Shape) : Nat × Nat := if rows then (h.extAt 0, h.extAt 1) else (h.extAt 1, h.extAt 0)

/-- A position in a record by place and line. -/
def selectAt (rows : Bool) (j line : Nat) : List Coord :=
  if rows then [coordOf (Int.ofNat j), coordOf (Int.ofNat line)] else [coordOf (Int.ofNat line), coordOf (Int.ofNat j)]

/-- The plan of `topk.r` and `topk.c`. -/
def planTopk (i sr n : Nat) (x : Issue) : Plan :=
  let hs := Shape.of (hGet x.g sr)
  let hv := Shape.of (hGet x.g (i + 1))
  { bad := convertRounds hs.ty hv.ty && modeField x.g.mode 11 3 == 7, extra := [(0xC0 + n, false)] }

/-- `topk.r` and `topk.c` at issue (18 R323, R324). -/
def topkBody (rows : Bool) (i sr tl : Nat) (x : Issue) : Except Stop Done :=
  let k := scalarK x 0 % 2 ^ 32
  let recs := [hGet x.g sr, hGet x.g i, hGet x.g (i + 1)]
  let hs := Shape.of (hGet x.g sr)
  let hi := Shape.of (hGet x.g i)
  let hv := Shape.of (hGet x.g (i + 1))
  let odd (h : Shape) : Bool := !h.valid || h.cls != 0 || h.rank != 2
  let d := selectDims rows hs
  if k = 0xFFFFFFFF then .ok (.ok x.s)
  else match firstFault [
      faultIf (odd hs || odd hi || odd hv || decide (4096 < d.1) || decide (65536 < d.2) || k == 0 || decide (64 < k)) 0x02 0,
      faultIf (hs.ty.isRaw || !hi.ty.isInt || convertRefused hs.ty hv.ty) 0x02 0,
      (([hs, hi, hv]).find? (fun h => !Side.near.ok h)).map (fun h => fault 0x15 h.base),
      tlFull x.s x.g.team tl] with
  | some f => .error (.flt f)
  | none => .ok (.ok (issueOp x.s x.g (blankOp .select tl x.e.word x.e.mode recs [BitVec.ofNat 64 k])))

/-- The elements of a line of a record. -/
def selectLine (s : State) (e : Eng) (rows : Bool) (h : Shape) (len l : Nat) : EStop ⊕ List Elem :=
  (List.range len).foldl (fun acc i => eb acc (fun a => eb (readElem s e h (selectAt rows i l)) (fun y => .inr (a ++ [y.1]))))
    (.inr [])

/-- Run a select operation. Element 2 × (k × line + j) is an index, the next its value. Its records are near, so it never
waits for a page. -/
def runSelect (s : State) (op : EngineOp) (rows : Bool) (stopAt : Option (Nat × Nat)) : EngineResult :=
  let hs := Shape.of (op.recs.getD 0 0)
  let hi := Shape.of (op.recs.getD 1 0)
  let hv := Shape.of (op.recs.getD 2 0)
  let k := (op.args.getD 0 0).toNat
  let e := opEng op
  let m := engMode op.mode
  let (len, lines) := selectDims rows hs
  let dest (n : Nat) : Option Int :=
    let pos := selectAt rows (n % (2 * k) / 2) (n / (2 * k))
    if n % 2 = 0 then hi.target pos else hv.target pos
  -- element n: pick n / 2 of a line's elements
  let move (xs : List Elem) (picks : List Nat) (l n : Nat) (s : State) : Moved :=
    let pos := selectAt rows (n % (2 * k) / 2) l
    let pick := picks[n % (2 * k) / 2]?
    if n % 2 = 0 then
      let c : LRes := match pick with | some i => deliverInt hi.ty 0 (Int.ofNat i) | none => { code := hi.ty.na, s := 0 }
      eb (writeElem s e hi pos c.code) (fun w => .inr (chargeOp w.1 op hi.tid (c.events.plus w.2.1), {}, w.2.2))
    else
      let c : LRes := match pick with
        | some i => convElem hs.ty hv.ty m (xs.getD i (.code 0 false))
        | none => { code := hv.ty.na, s := 0 }
      eb (writeElem s e hv pos c.code) (fun w => .inr (w.1, c.events.plus w.2.1, w.2.2))
  let line (r : Run) (l : Nat) : Run :=
    match selectLine r.s e rows hs len l with
    | .inl (.flt c) => if r.failed.isSome then r else r.fails (2 * k * l) c
    | .inl (.park p q) => r.parks (2 * k * l) p q
    | .inr xs =>
      let picks := bestOf k (xs.map (elemVal hs.ty))
      (List.range (2 * k)).foldl (fun r n => runOne op.id stopAt (move xs picks l) (fun n _ => dest n) r (2 * k * l + n)) r
  { op := op, run := (List.range lines).foldl line { s := s }, n := 2 * k * lines, dest := dest, tensor := hv.tid }

/-! ### Routing descriptors (18 R326, R327) -/

/-- The Admiral of a die as an accessor of a context's scratchpad. -/
def admiral (ctx die : Nat) : Who := { group := 0, team := 0, ctx := ctx, core := 128 * die }

/-- The die of a canonical scratchpad address. -/
def scratchDie (a : Nat) : Nat := (a - 0x80000000) / 0x20000000

/-- A near address lies in a scratchpad window. -/
def inScratch (core a : Nat) : Bool := match nearWindow core a with | some (2, _, _) => true | _ => false

/-- The die, and so the Admiral, that holds a descriptor (18 R326). -/
def admiralDie (s : State) (ctx d : Nat) : Nat := physDie s ctx (scratchDie d)

/-- A field of a descriptor. -/
def routeField (s : State) (ctx d o n : Nat) : Nat := nearRead s (admiral ctx (scratchDie d)) (d + o) n

/-- A descriptor's fields meet an uncorrectable error. -/
def routeBad (s : State) (ctx d : Nat) : Bool := nearBad s (admiral ctx (scratchDie d)) false d 0x80

/-- A descriptor obeys the ranges of 18 R327. -/
def routeOk (s : State) (ctx d : Nat) : Bool :=
  let f := routeField s ctx d
  decide (1 ≤ f 0 2) && decide (f 0 2 ≤ 256) && decide (1 ≤ f 2 1) && decide (f 2 1 ≤ 8) && decide (f 3 1 ≤ 1) &&
  decide (f 4 1 ≤ 1) && decide (f 5 1 + f 0 2 ≤ 256) && decide (f 6 1 ≤ 2) && decide (1 ≤ f 8 4) && decide (f 8 4 ≤ 65536) &&
  decide (1 ≤ f 0xC 4) && decide (f 0xC 4 ≤ 4096) && decide (1 ≤ f 0x28 4) && f 0x30 4 % 64 == 0 && f 0x40 64 == 0 &&
  (f 4 1 == 0 || (getDie s (admiralDie s ctx d)).loaded)

/-- The failure of a descriptor: kept by the Admiral, or written in it (08 R163, 18 R327). -/
def routeFailure (s : State) (ctx d : Nat) : Option Nat :=
  match (getDie s (admiralDie s ctx d)).routing.find? (fun r => r.context == ctx && r.desc.toNat == d && r.failure.isSome) with
  | some r => r.failure.map (·.toNat)
  | none => if routeField s ctx d 6 1 = 2 then some (routeField s ctx d 7 1) else none

/-- Write a field of a descriptor. -/
def setRouteField (s : State) (ctx d o n x : Nat) : State := nearStore s (admiral ctx (scratchDie d)) deviceWriter (d + o) n x

/-- Bytes of a descriptor that the Admiral writes, and its bias array, meet a sealed range. -/
def routeSealed (s : State) (ctx d : Nat) : Bool := sealHit s (admiral ctx (scratchDie d)) d 0x40

/-- What the Admiral keeps of a descriptor. -/
def getRouting (s : State) (k ctx d : Nat) : Routing :=
  ((getDie s k).routing.find? (fun r => r.context == ctx && r.desc.toNat == d)).getD
    { context := ctx, desc := BitVec.ofNat 64 d, batch := 0, received := [] }

/-- Keep it, first in its die's list. -/
def setRouting (s : State) (k : Nat) (r : Routing) : State :=
  modDie s k (fun y => { y with routing := r :: (y.routing.filter (fun q => !(q.context == r.context && q.desc == r.desc))) })

/-- A descriptor fails (08 R163, 18 R337, R340): the state and cause are written in it, or kept where it is sealed; its
batch is abandoned, and an error is reported to the host (25 R382). -/
def failRoute (s : State) (ctx d cause : Nat) : State :=
  let s := signalBad s (BitVec.ofNat 8 cause)
  let k := admiralDie s ctx d
  let r := { getRouting s k ctx d with received := [] }
  if routeSealed s ctx d then setRouting s k { r with failure := some (BitVec.ofNat 8 cause) }
  else setRouteField (setRouteField (setRouting s k r) ctx d 6 1 2) ctx d 7 1 cause

/-- A near address that an instruction checks: its bytes and alignment. -/
structure NearUse where
  a : Int
  n : Nat
  al : Nat

/-- The faults of the addresses of `rqpush` and `rqwait` (18 R330, 2 and the first part of 3), the descriptor's first. -/
def routeFault (s : State) (w : Who) (d : Int) (logits : List Int) : Option FaultInfo :=
  let e := if (nearFault s w d 2 1).isNone then nearRead s w d.toNat 2 else 1
  let uses : List NearUse := { a := d, n := 0x80 + 4 * e, al := 64 } :: logits.map (fun a => { a := a, n := 4 * e, al := 4 })
  let first (c : Nat) : Option FaultInfo :=
    (uses.find? (fun u => nearFault s w u.a u.n u.al == some c)).map (fun u => fault c (addrData u.a))
  firstFault [first 0x11, first 0x10, first 0x12,
    (uses.find? (fun u => !inScratch w.core u.a.toNat)).map (fun u => fault 0x15 (addrData u.a))]

/-- How an instruction that names a descriptor stops (18 R330, 2 to 4): at an address, at an error in the descriptor, at a field
out of range, or with the descriptor's failure. -/
def routeStop (x : Issue) (d : Int) (logits : List Int) : Option Stop :=
  let w := whoOf x.s x.g
  let canon := nearCanon w.core d.toNat
  match routeFault x.s w d logits with
  | some f => some (.flt f)
  | none =>
    if routeBad x.s w.ctx canon then
      some (.part (failRoute x.s w.ctx canon 0x50) x.e (.inl (fault 0x50 (addrData d))))
    else if !routeOk x.s w.ctx canon then some (.flt (fault 0x15 (addrData d)))
    else (routeFailure x.s w.ctx canon).map (fun c => .flt (fault c (addrData d)))

/-- Where a word captures the register that its function field names (21 R345): in the unused part of slot a, if that holds a
scalar, else in slot b (DEDUCED, log 53). -/
def descPlace (f : Form) : Place := if isS f.a then .nth 0 1 else .whole 1

/-- The address in that register, as captured. -/
def descAddr (x : Issue) : Option Int := i64? (extraVal false x.e (descPlace x.i.form) 0)

/-- A plan that reads it too. -/
def Plan.withDesc (p : Plan) (r : Nat) (x : Issue) : Plan :=
  { p with extra := p.extra ++ [(0xC0 + r, false)], places := p.places ++ [descPlace x.i.form] }

/-- The plan of `rqpush`. -/
def planRqpush (r : Nat) (x : Issue) : Plan :=
  let vec := kindOf x
  Plan.withDesc
    { bad := vec && (oddV x.i.form.d || oddV x.i.form.a)
      vec := vec, readA := true, readD := true, pairA := vec, pairD := vec, naA := na64, naD := na64
      active := if vec then activeSet x.g else 0 } r x

/-- The packets of an `rqpush`: token and logits operand of each lane. -/
def rqLanes (x : Issue) : List (Nat × Nat) :=
  (actingLanes x).filterMap (fun i =>
    let tok := srcVal x.e x.i.form.d x.e.slotD (.raw 64) i
    if tok = na64 then none else some (tok, srcVal x.e x.i.form.a x.e.slotA (.raw 64) i))

/-- The packet of a token and a logits operand (18 R328). -/
def packetOf (s : State) (g : Group) (canon : Nat) (p : Nat × Nat) : Packet :=
  let w := whoOf s g
  let a := match i64? p.2 with | some y => nearCanon w.core y.toNat | none => 0xFFFFFFFF
  { context := w.ctx, team := teamLinear s g.team, desc := BitVec.ofNat 64 canon, core := w.core, carried := groupCarries s g
    bits := BitVec.ofNat 128 (canon * 2 ^ 96 + a * 2 ^ 64 + p.1 % 2 ^ 64) }

/-- The batch and the token of a packet. -/
def Packet.batch (p : Packet) : Nat := p.bits.toNat / 2 ^ 32 % 2 ^ 32
def Packet.token (p : Packet) : Nat := p.bits.toNat % 2 ^ 32

/-- `rqpush` (18 R330). -/
def rqpushBody (x : Issue) : Except Stop Done :=
  let w := whoOf x.s x.g
  match descAddr x with
  | none => .ok (.ok x.s)
  | some d =>
    let pushed := rqLanes x
    match routeStop x d (pushed.filterMap (fun p => i64? p.2)) with
    | some f => .error f
    | none =>
      let canon := nearCanon w.core d.toNat
      let die := admiralDie x.s w.ctx canon
      if 4096 < (getDie x.s die).packets.length + pushed.length then .error (.wait .packets)
      else
        let packets := pushed.map (packetOf x.s x.g canon)
        -- a release toward the Admiral, and so toward what its batches are acquired by (18 R339)
        let s := packets.foldl (fun s p => releaseAt s (.batch w.ctx canon p.batch) (groupCarries x.s x.g)) x.s
        .ok (.ok (modDie s die (fun y => { y with packets := y.packets ++ packets })))

/-- The plan of `rqwait`. -/
def planRqwait (r : Nat) (x : Issue) : Plan := (planAD x).withDesc r x

/-- What the batches of a descriptor before the n-th have left (18 R339; DEDUCED, log 70). -/
def releasedBatches (s : State) (ctx d n : Nat) : List Nat :=
  (s.sync.filter (fun y => match y.point with
    | .batch c e k => c == ctx && e == d && decide (k < n)
    | _ => false)).foldl (fun acc y => joinAges acc y.ages) []

/-- `rqwait` (18 R338): the group acquires what the batches below the count have left (18 R339). -/
def rqwaitBody (x : Issue) : Except Stop Done :=
  let w := whoOf x.s x.g
  let give (s : State) (v : Nat) : Except Stop Done :=
    .ok (.ok (putScalar s (groupNow s x) x.e x.i.form.t (destReg x.i.form.d) v))
  match descAddr x with
  | none => give x.s na64
  | some d =>
    match routeStop x d [] with
    | some f => .error f
    | none =>
      let n := scalarA x % 2 ^ 32
      let n := if n = 0xFFFFFFFF then 0 else n
      let canon := nearCanon w.core d.toNat
      let c := routeField x.s w.ctx canon 0x10 4
      if n ≤ c then give (acquireAges x.s x.g.id (releasedBatches x.s w.ctx canon c)) c else .error (.wait .batch)

/-! ### The Admiral (18 R331) -/

/-- A packet whose batch is not current stays in the queue (DEDUCED, log 52). -/
def heldPacket (s : State) (p : Packet) : Bool :=
  !routeBad s p.context p.desc.toNat && (routeFailure s p.context p.desc.toNat).isNone &&
  (routeField s p.context p.desc.toNat 6 1 == 0 || decide (routeField s p.context p.desc.toNat 0x10 4 < p.batch))

/-- Take up the first packet that is not held (18 R331). -/
def takePacket (s : State) (k : Nat) : State :=
  match (getDie s k).packets.findIdx? (fun p => !heldPacket s p) with
  | none => s
  | some i =>
    match (getDie s k).packets[i]? with
    | none => s
    | some p =>
      let s := modDie s k (fun y => { y with packets := y.packets.eraseIdx i })
      let d := p.desc.toNat
      let f := routeField s p.context d
      let r := getRouting s k p.context d
      if routeBad s p.context d then failRoute s p.context d 0x50
      else if (routeFailure s p.context d).isSome then s
      else if routeSealed s p.context d then failRoute s p.context d 0x13
      else if p.batch < f 0x10 4 ∨ f 8 4 ≤ p.token ∨ r.received.any (·.1 == p.token) then
        setRouteField s p.context d 0x24 4 (f 0x24 4 + 1)
      else
        let a : BitVec 32 := BitVec.ofNat 32 (p.bits.toNat / 2 ^ 64)
        setRouteField (setRouting s k { r with batch := BitVec.ofNat 32 p.batch, received := r.received ++ [(p.token, a, p.carried)] })
          p.context d 0x14 4 (r.received.length + 1)

/-! ### Routing a batch (18 R332 to R337) -/

/-- f32 and its nearest-even rounding. -/
def f32 : Ty := .flt 8 23
def rne2 (o : Op2) (a b : Nat) : Nat := (op2 o f32 (roundMode 0) 0 a b).code

/-- The picks of a token: experts in rank order, weights, status bits 0 and 1 (18 R332). -/
structure Picks where
  experts : List Nat
  weights : List Nat
  status : Nat

/-- Route one token on its scores `sc` and adjusted scores `ad`. -/
def pickExperts (k : Nat) (sc ad : List Nat) : Picks :=
  let picks := bestOf k (ad.map (valOf f32 false))
  match picks.map (fun e => sc.getD e 0) with
  | [] => { experts := [], weights := [], status := 2 }
  | g0 :: gs =>
    let sum := gs.foldl (fun a g => rne2 .add a g) g0
    let plain := match valOf f32 false sum with
      | .fin _ n _ => n != 0 && !subMag f32 (sum % 2 ^ 31)
      | _ => false
    if plain then { experts := picks, weights := (g0 :: gs).map (fun g => rne2 .div g sum), status := 0 }
    else
      let w := (deliver f32 (roundMode 0) 0 (.fin false 1 picks.length)).code
      { experts := picks, weights := picks.map (fun _ => w), status := 1 }

/-- The scores of a token and its adjusted scores (18 R332). -/
structure Scores where
  plain : List Nat
  adjusted : List Nat

/-- The view of an Admiral of the logit at an address: a store that nothing orders with its read is observed or not, independently
for each 4-byte logit (18 R339). -/
def admiralView (carried : List Nat) (a : Nat) : View :=
  { id := 0, group := 0, acquired := carried, own := 0, part := 2 ^ 64 + a }

/-- Scores at a logits address of so many experts: `sigm` or identity, and the biases added; an error stops them. `carried` is what
the push of the packet released. -/
def readScores (s : State) (w : Who) (carried : List Nat) (a e : Nat) (sigm : Bool) (bias : Nat → Nat) : EStop ⊕ Scores :=
  if a ≠ 0xFFFFFFFF ∧ nearBad s w false a (4 * e) then .inl (.flt 0x50)
  else
    let logit (j : Nat) : Nat := if a = 0xFFFFFFFF then f32.na else nearSeen s w (admiralView carried (a + 4 * j)) (a + 4 * j) 4
    let sc := (List.range e).map (fun j => if sigm then (op1 .sigm f32 (roundMode 0) 0 (logit j)).code else logit j)
    .inr { plain := sc, adjusted := sc.zipIdx.map (fun y => rne2 .add y.1 (bias y.2)) }

/-- The area of the private memory through which the Admiral and a program exchange a token's scores and result (25 R380) lies
where the device chooses, below the program (DESIGN CHOICE, log 26): the scores, the adjusted scores, the result and the return
address. -/
def placeFits (at_ : Nat) : Bool := at_ % 64 == 0 && decide (at_ + 2176 ≤ 0x80000)

/-- What the customer's program returns for a token (25 R380); none where it traps, does not return, or returns a pick that it
may not. -/
def programPicks (y : Die) (at_ k e : Nat) (x : Scores) : Die × Option Picks :=
  let put (m : Cells 8) (a : Nat) (l : List Nat) : Cells 8 := l.zipIdx.foldl (fun m z => bytesSet m (a + 4 * z.2) 4 z.1) m
  let mem := put (put y.mem at_ x.plain) (at_ + 1024) x.adjusted
  let r := rvCall { rv := y.rv, mem := mem } 0x80000 (at_ + 2112) [at_, at_ + 1024, e, k, at_ + 2048]
  let f (o n : Nat) : Nat := bytesGet r.1.mem (at_ + 2048 + o) n
  let n := f 0 1
  let experts := (List.range n).map (fun j => f (8 + 2 * j) 2)
  ({ y with rv := r.1.rv, mem := r.1.mem },
   if !r.2 || decide (k < n) || experts.any (fun c => decide (e ≤ c)) then none
   else some { experts := experts, weights := (List.range n).map (fun j => f (24 + 4 * j) 4), status := f 1 1 % 4 })

/-- A write of a batch: `n` bytes of `x`. -/
structure BatchWrite where
  a : Nat
  n : Nat
  x : Nat

/-- How far a batch has come: the counts and loads by expert, and the writes of its records and lists. -/
structure BatchRun where
  counts : List Nat
  loads : List Nat
  records : List BatchWrite := []
  lists : List BatchWrite := []

/-- A pick as a routing record holds it: expert, position and weight. -/
structure Placed where
  expert : Nat := 0xFFFF
  pos : Nat := 0xFFFFFFFF
  weight : Nat := 0xFFFFFFFF

/-- A routing record of 128 bytes (18 R333). -/
def recordValue (token batch status : Nat) (l : List Placed) : Nat :=
  let field (o x : Nat) : Nat := x * 2 ^ (8 * o)
  (List.range 8).foldl (fun v j =>
    let p := l.getD j {}
    v + field (0x10 + 2 * j) p.expert + field (0x20 + 4 * j) p.pos + field (0x40 + 4 * j) p.weight)
    (token + field 4 l.length + field 5 status + field 8 batch)

/-- Place a token's picks (18 R333, R334). -/
def placeToken (recs lists batchLen cap token batch : Nat) (p : Picks) (r : BatchRun) : BatchRun :=
  let (r, l) := (p.experts.zipIdx).foldl (fun (acc : BatchRun × List Placed) y =>
    let r := acc.1
    let (e, j) := y
    let c := r.counts.getD e 0
    let r := { r with loads := r.loads.set e (r.loads.getD e 0 + 1) }
    if c < cap then
      ({ r with counts := r.counts.set e (c + 1), lists := r.lists ++ [⟨lists + 4 * batchLen * e + 4 * c, 4, token⟩] },
       acc.2 ++ [{ expert := e, pos := c, weight := p.weights.getD j 0 }])
    else (r, acc.2 ++ [{ expert := e }])) (r, [])
  let status := p.status + (if l.any (fun q => q.pos == 0xFFFFFFFF) then 4 else 0)
  { r with records := r.records ++ [⟨recs + 128 * token, 128, recordValue token batch status l⟩] }

/-- The bias controller (18 R336). -/
def newBias (gain target limit bias load : Nat) : Nat :=
  let number (x : Nat) : Bool := match valOf f32 false x with | .na => false | .nan => false | _ => true
  if number gain && number target && number limit then
    let l := (deliver f32 (roundMode 0) 0 (.fin false load 1)).code
    let y := rne2 .add bias (rne2 .mul gain (rne2 .sub target l))
    if valOf f32 false y = .nan then bias
    else rne2 .min (rne2 .max y (opNeg f32 (roundMode 0) 0 limit).code) limit
  else bias

/-- An entry of the bias table records a descriptor. -/
def biasOf (y : Die) (ctx d k : Nat) : Bool := y.biasDesc.any (fun b => b.1 == k && b.2 == (ctx, BitVec.ofNat 64 d))

/-- Load the entries of a window that do not record the descriptor (18 R327). -/
def loadBias (y : Die) (ctx d b0 e : Nat) (arr : Nat → Nat) : Die :=
  (List.range e).foldl (fun y j =>
    let k := b0 + j
    if biasOf y ctx d k then y
    else { y with bias := cellSet y.bias k (BitVec.ofNat 32 (arr j)),
                  biasDesc := (k, ctx, BitVec.ofNat 64 d) :: (y.biasDesc.filter (fun b => b.1 != k)) }) y

/-- A full batch of a die: the descriptor that has received its tokens. -/
def fullBatch (s : State) (k : Nat) : Option Routing :=
  (getDie s k).routing.find? (fun r => r.failure.isNone && !r.received.isEmpty &&
    decide (routeField s r.context r.desc.toNat 8 4 ≤ r.received.length))

/-- The full batch runs the customer's program. -/
def customBatch (s : State) (k : Nat) : Bool :=
  match fullBatch s k with | some r => routeField s r.context r.desc.toNat 4 1 == 1 | none => false

/-- Route the tokens of a batch in ascending order: the die, and the run; or the cause of a failure (18 R332, 25 R380). -/
def routeTokens (s : State) (k at_ : Nat) (r : Routing) : Die × (EStop ⊕ BatchRun) :=
  let ctx := r.context
  let d := r.desc.toNat
  let f := routeField s ctx d
  let e := f 0 2
  (List.range (f 8 4)).foldl (fun (acc : Die × (EStop ⊕ BatchRun)) tok =>
    match acc.2 with
    | .inl x => (acc.1, .inl x)
    | .inr b =>
      let (a, carried) := match r.received.find? (·.1 == tok) with | some y => (y.2.1.toNat, y.2.2) | none => (0xFFFFFFFF, [])
      match readScores s (admiral ctx (scratchDie d)) carried a e (f 3 1 == 1) (fun j => (cellGet acc.1.bias (f 5 1 + j)).toNat) with
      | .inl x => (acc.1, .inl x)
      | .inr sc =>
        let (y, picks) := if f 4 1 = 1 then programPicks acc.1 at_ (f 2 1) e sc
          else (acc.1, some (pickExperts (f 2 1) sc.plain sc.adjusted))
        match picks with
        | none => (y, .inl (.flt 0x15))
        | some p => (y, .inr (placeToken (f 0x30 4) (f 0x34 4) (f 8 4) (f 0x28 4 * f 0xC 4) tok (f 0x10 4) p b)))
    (getDie s k, .inr { counts := List.replicate e 0, loads := List.replicate e 0 })

/-- Write for a batch; a part with an error that the write does not cover stops it (18 R340). -/
def batchPut (w : Who) (l : List BatchWrite) (s : State) : State × Bool :=
  l.foldl (fun acc b =>
    if acc.2 then acc
    else if nearBad acc.1 w true b.a b.n then (acc.1, true)
    else (nearStore acc.1 w deviceWriter b.a b.n b.x, false)) (s, false)

/-- The task decrements of a batch, each a release of the writes `ages` toward its task (18 R339): the number refused, and whether
a handle met an error (18 R335). -/
def batchTasks (s : State) (w : Who) (handles tiles t : Nat) (counts ages : List Nat) : State × Nat × Bool :=
  let all := counts.zipIdx.flatMap (fun y => (List.range ((y.1 + t - 1) / t)).map (fun i => handles + 4 * (tiles * y.2 + i)))
  all.foldl (fun (acc : State × Nat × Bool) a =>
    if acc.2.2 then acc
    else if nearBad acc.1 w false a 4 then (acc.1, acc.2.1, true)
    else
      let h := nearRead acc.1 w a 4
      match decTask acc.1 w.ctx h 1 with
      | .skip => acc
      | .bad => (acc.1, acc.2.1 + 1, false)
      | .done s => (releaseAt s (taskPoint w.ctx h) ages, acc.2.1, false)) (s, 0, false)

/-- What a batch releases: the accesses before its packets, and what the Admiral has written for it since an age (18 R337, R339). -/
def batchAges (s : State) (ctx d n since : Nat) : List Nat :=
  joinAges (released s (.batch ctx d n)) ((madeBy s deviceWriter).filter (since ≤ ·))

/-- The last write of a batch: the count of the batches routed, a release of all that the batch releases (18 R337; DEDUCED with
every class in its mask, log 4). -/
def batchRouted (s : State) (ctx d n : Nat) (ages : List Nat) : State :=
  let r : Release := { group := 0, team := 0, mask := 0b111111, arms := [], age := 0, acquired := ages }
  let s := nearStore s (admiral ctx (scratchDie d)) { deviceWriter with releases := [r] } (d + 0x10) 4 (n + 1)
  releaseAt s (.batch ctx d n) ages

/-- Complete a routed batch in the order of 18 R337: records; lists and counts; decrements; bias array; the descriptor's counts. -/
def completeBatch (s : State) (k : Nat) (r : Routing) (run : BatchRun) : State :=
  let ctx := r.context
  let d := r.desc.toNat
  let w := admiral ctx (scratchDie d)
  let f := routeField s ctx d
  let b0 := f 5 1
  let fresh_ := (List.range (f 0 2)).map (fun j =>
    newBias (f 0x18 4) (f 0x1C 4) (f 0x20 4) (cellGet (getDie s k).bias (b0 + j)).toNat (run.loads.getD j 0))
  let counts := run.counts.zipIdx.map (fun y => (⟨f 0x38 4 + 4 * y.2, 4, y.1⟩ : BatchWrite))
  let biases := fresh_.zipIdx.map (fun y => (⟨d + 0x80 + 4 * y.2, 4, y.1⟩ : BatchWrite))
  let first := run.records ++ run.lists ++ counts
  if routeSealed s ctx d || (first ++ biases).any (fun b => sealHit s w b.a b.n) then failRoute s ctx d 0x13
  else
    let a := batchPut w first s
    if a.2 then failRoute a.1 ctx d 0x50
    else
      let n := f 0x10 4
      let t := batchTasks a.1 w (f 0x3C 4) (f 0x28 4) (f 0xC 4) run.counts (batchAges a.1 ctx d n s.age)
      let u := setRouteField t.1 ctx d 0x2C 4 (f 0x2C 4 + t.2.1)
      if t.2.2 then failRoute u ctx d 0x50
      else
        let b := batchPut w biases u
        if b.2 then failRoute b.1 ctx d 0x50
        else
          let u := modDie b.1 k (fun y => { y with
            bias := cellSetAll y.bias (fresh_.zipIdx.map (fun z => (b0 + z.2, BitVec.ofNat 32 z.1))) })
          let u := setRouteField u ctx d 0x14 4 0
          let u := batchRouted u ctx d n (batchAges u ctx d n s.age)
          setRouting u k { r with received := [], batch := BitVec.ofNat 32 (n + 1) }

/-- Route a full batch (18 R332 to R337). A program works in the private memory at `at_`. -/
def routeBatch (s : State) (k at_ : Nat) (r : Routing) : State :=
  let ctx := r.context
  let d := r.desc.toNat
  let f := routeField s ctx d
  let loads := (List.range (f 0 2)).any (fun j => !biasOf (getDie s k) ctx d (f 5 1 + j) &&
    nearBad s (admiral ctx (scratchDie d)) false (d + 0x80 + 4 * j) 4)
  if routeBad s ctx d || loads then failRoute s ctx d 0x50
  else if (routeFailure s ctx d).isSome then setRouting s k { r with received := [] }
  else
    let s := setDie s k (loadBias (getDie s k) ctx d (f 5 1) (f 0 2) (fun j => f (0x80 + 4 * j) 4))
    let t := routeTokens s k at_ r
    let s := setDie s k t.1
    match t.2 with
    | .inl (.flt c) => failRoute s ctx d c
    | .inl (.park ..) => s
    | .inr run => completeBatch s k r run

/-- `topk.r` (18 R323). -/
def execTopkR (e : Bool) (i : BitVec 4) (sf : BitVec 4) (l : BitVec 3) (n : BitVec 5) (s : State) :
    Host.Outcome State Fault Refusal := runWord (.topkR e i sf l n) s (planTopk i.toNat sf.toNat n.toNat) scalarPlaces (topkBody true i.toNat sf.toNat l.toNat)

/-- `topk.c` (18 R323). -/
def execTopkC (e : Bool) (i : BitVec 4) (sf : BitVec 4) (l : BitVec 3) (n : BitVec 5) (s : State) :
    Host.Outcome State Fault Refusal := runWord (.topkC e i sf l n) s (planTopk i.toNat sf.toNat n.toNat) scalarPlaces (topkBody false i.toNat sf.toNat l.toNat)

/-- `rqpush` (18 R330). -/
def execRqpush (e : Bool) (d : Opnd) (a : Opnd) (r : BitVec 3) (s : State) :
    Host.Outcome State Fault Refusal := runWord (.rqpush e d a r) s (planRqpush r.toNat) [] rqpushBody

/-- `rqwait` (18 R338). -/
def execRqwait (t : Bool) (d : Opnd) (a : Opnd) (r : BitVec 3) (s : State) :
    Host.Outcome State Fault Refusal := runWord (.rqwait t d a r) s (planRqwait r.toNat) [] rqwaitBody

end Sys2Proof.Machine
end

