-- ==== Sys2Proof/Machine/Luna.lean ====
section
/-! DEFINITION. Luna, the search-tree engine of each die (12): trees in scratchpad, descent, expansion, backup, reuse. An
operation of a timeline is applied after it is accepted, a node at a time; whatever comes next on its tree finds it applied whole
(12 R246). The group waits for the answer (12 R247). -/

namespace Sys2Proof.Machine

/-! ### A tree and its fields (12 R229 to R231) -/

/-- A tree that an operation works on: the state, the context, the canonical descriptor address, the bytes written so far (address
and count, the latest first), who writes, and the writes that are ordered before, by age. -/
structure Tree where
  s : State
  ctx : Nat
  d : Nat
  w : List (Nat × Nat) := []
  by_ : Writer := {}
  known : List Nat := []

/-- The view of a Luna, of the field at an address: a plain store that nothing orders before its operation is observed or not,
independently for each field (12 R249). -/
def lunaView (known : List Nat) (a : Nat) : View := { id := 0, group := 0, acquired := known, own := 0, part := a, luna := true }

/-- Read near memory as a Luna. -/
def lunaRead (s : State) (w : Who) (known : List Nat) (a n : Nat) : Nat := nearSeen s w (lunaView known a) a n

/-- Read and write near memory as the tree's engine. -/
def Tree.get (t : Tree) (a n : Nat) : Nat := lunaRead t.s (admiral t.ctx (scratchDie t.d)) t.known a n
def Tree.put (t : Tree) (a n x : Nat) : Tree :=
  { t with s := nearStore t.s (admiral t.ctx (scratchDie t.d)) t.by_ a n x, w := (a, n) :: t.w }

/-- A field of the descriptor by offset and bytes. -/
def Tree.dg (t : Tree) (o n : Nat) : Nat := t.get (t.d + o) n
def Tree.ds (t : Tree) (o n x : Nat) : Tree := t.put (t.d + o) n x

def Tree.cap (t : Tree) : Nat := t.dg 4 4
def Tree.root (t : Tree) : Nat := t.dg 0x10 4

/-- The pool's base, canonicalised by the descriptor's die. -/
def Tree.pool (t : Tree) : Nat := nearCanon (128 * scratchDie t.d) (t.dg 0 4)

/-- A field of node i by offset and bytes. -/
def Tree.ng (t : Tree) (i o n : Nat) : Nat := t.get (t.pool + 64 * i + o) n
def Tree.ns (t : Tree) (i o n x : Nat) : Tree := t.put (t.pool + 64 * i + o) n x

/-- Why an operation of Luna does not go on: a fault at the descriptor; a sealed byte (08 R163); an uncorrectable error in the
tree, which breaks it (12 R245), or in an expansion record. -/
inductive LunaStop where
  | flt (cause : Nat)
  | sealed (a : Nat)
  | broken
  | badRecord (a : Nat)
  deriving DecidableEq, Repr

/-- Bytes of the tree meet an uncorrectable error. -/
def Tree.bad (t : Tree) (a n : Nat) : Bool := nearBad t.s (admiral t.ctx (scratchDie t.d)) false a n

/-- Node i meets one. -/
def Tree.badNode (t : Tree) (i : Nat) : Bool := t.bad (t.pool + 64 * i) 64

/-- Flags of a node. -/
def Tree.flag (t : Tree) (i k : Nat) : Bool := t.ng i 0x1C 2 / 2 ^ k % 2 == 1

/-- "None" in an index field. -/
def noIndex : Nat := 0xFFFFFFFF

/-- A followed index is below the capacity and not freed (12 R233). -/
def Tree.okIndex (t : Tree) (i : Nat) : Bool := decide (i < t.cap) && !t.flag i 3

/-- Write all 64 bytes of a node. -/
def Tree.node (t : Tree) (i first parent prior action flags depth : Nat) : Tree :=
  t.ns i 0 64 (first * 2 ^ 96 + parent * 2 ^ 128 + prior * 2 ^ 160 + action * 2 ^ 192 + flags * 2 ^ 224 + depth * 2 ^ 240)

/-- The tree-descriptor fault. -/
def badTree {α : Type} : LunaStop ⊕ α := .inl (.flt 0x22)

/-- Follow an index: below the capacity, not freed, and without an error (12 R233, R245). -/
def Tree.follow (t : Tree) (i : Nat) : LunaStop ⊕ Unit :=
  if t.cap ≤ i then badTree else if t.badNode i then .inl .broken else if t.flag i 3 then badTree else .inr ()

/-- A byte that has been written is sealed: its address (08 R163). -/
def Tree.sealed (t : Tree) : Option Nat :=
  (t.w.reverse.find? (fun x => sealHit t.s (admiral t.ctx (scratchDie t.d)) x.1 x.2)).map (·.1)

/-- Set full bits of the granules written, but those of a list (07 R138; DEDUCED, log 53). -/
def Tree.fill (t : Tree) (but : List Nat) : State :=
  let w := admiral t.ctx (scratchDie t.d)
  let gs := t.w.flatMap (fun x => (List.range (x.2 / 16 + 1)).map (fun k => x.1 / 16 + k))
  (gs.filter (fun k => !but.contains k && t.w.any (fun x => decide (x.1 < 16 * k + 16) && decide (16 * k < x.1 + x.2)))).foldl
    (fun s k => fillGranule s w t.by_ (16 * k)) t.s

/-- End a lane or an operation: with a write to a sealed byte, nothing is written. -/
def Tree.commit (t : Tree) : LunaStop ⊕ State :=
  match t.sealed with
  | some a => .inl (.sealed a)
  | none => .inr (t.fill [])

/-! ### Acceptance (12 R243) -/

/-- The stop at acceptance of a tree named by a group's accessor; `made` for `tnew`, which replaces the high-water mark and the
root. -/
def Tree.refused (t : Tree) (w : Who) (made : Bool) : Option LunaStop :=
  let die := scratchDie t.d
  if lunaRead t.s w t.known (t.d + 0x25) 1 = 2 then some (.flt 0x50)
  else if nearBad t.s w false t.d 64 then some .broken
  else if !inScratch w.core t.d then some (.flt 0x22)
  else
    let pool := t.pool
    let bad := !(t.dg 0x25 1 == 1 || (made && t.dg 0x25 1 == 0)) || decide (1 < t.dg 0x24 1) || t.dg 0x26 2 != 0 ||
      t.dg 0x2C 20 != 0 || pool % 64 != 0 || decide (pool < 0x80000000) || scratchDie pool != die ||
      t.cap == 0 || t.cap == 0xFFFFFFFF || (nearLoc t.s (admiral t.ctx die) pool (64 * t.cap)).isNone
    if bad then some (.flt 0x22)
    else if !made && decide (t.cap < t.dg 0x14 4) then some (.flt 0x22)
    else if made then none
    else match t.follow t.root with
      | .inl e => some e
      | .inr _ => none

/-! ### Allocation (12 R232) -/

/-- Follow the free runs to one of at least k nodes: `prev` is the run before. -/
def Tree.findRun (t : Tree) (k : Nat) : Nat → Option Nat → Nat → LunaStop ⊕ Option (Nat × Option Nat)
  | fuel, prev, i =>
    if i = noIndex then .inr none
    else match fuel with
      | 0 => badTree
      | fuel + 1 =>
        if t.cap ≤ i then badTree
        else if t.badNode i then .inl .broken
        else
          let n := t.ng i 0 4
          if n = 0 ∨ t.cap < i + n ∨ !t.flag i 3 then badTree
          else if k ≤ n then .inr (some (i, prev))
          else t.findRun k fuel (some i) (t.ng i 0xC 4)

/-- Allocate k contiguous nodes. -/
def Tree.alloc (t : Tree) (k : Nat) : LunaStop ⊕ (Nat × Tree) :=
  let used (t : Tree) : Tree := t.ds 0x28 4 (t.dg 0x28 4 + k)
  eb (t.findRun k (t.dg 0xC 4) none (t.dg 8 4)) (fun r =>
    match r with
    | some (i, prev) =>
      let n := t.ng i 0 4
      let next := t.ng i 0xC 4
      -- a split run's second part gets a length and a link, writes to parts of a node (12 R245)
      if n ≠ k ∧ t.badNode (i + k) then .inl .broken
      else
        let (link, t) :=
          if n = k then (next, t) else (i + k, (t.ns (i + k) 0 4 (n - k)).ns (i + k) 0xC 4 next)
        let t := match prev with | some p => t.ns p 0xC 4 link | none => t.ds 8 4 link
        .inr (i, used (t.ds 0xC 4 (t.dg 0xC 4 - k)))
    | none =>
      let h := t.dg 0x14 4
      if t.cap - h < k then .inl (.flt 0x21)
      else .inr (h, used (t.ds 0x14 4 (h + k))))

/-- Free a run of n nodes onto the head of the list. -/
def Tree.freeRun (t : Tree) (i n : Nat) : Tree :=
  if n = 0 then t
  else
    let t := (List.range n).foldl (fun t j => t.node (i + j) 0 0 0 0 8 0) t
    let t := (t.ns i 0 4 n).ns i 0xC 4 (t.dg 8 4)
    ((t.ds 8 4 i).ds 0xC 4 (t.dg 0xC 4 + n)).ds 0x28 4 (t.dg 0x28 4 - n)

/-! ### Descent (12 R237, R238) -/

/-- A natural number at f32. -/
def f32Nat (n : Nat) : Nat := (deliver f32 (roundMode 0) 0 (.fin false n 1)).code

/-- The score of child x of parent p (12 R237). -/
def Tree.score (t : Tree) (p x : Nat) : Nat :=
  let v := t.ng x 8 2
  let n := t.ng x 0 4 + v
  let q := if n = 0 then t.dg 0x20 4
    else rne2 .div (rne2 .sub (t.ng x 4 4) (rne2 .mul (f32Nat v) (t.dg 0x1C 4))) (f32Nat n)
  let root := (op1 .sqrt f32 (roundMode 0) 0 (f32Nat (t.ng p 0 4 + t.ng p 8 2))).code
  let u := rne2 .div (rne2 .mul (rne2 .mul (t.dg 0x18 4) (t.ng x 0x14 4)) root) (f32Nat (1 + n))
  rne2 .add q u

/-- A score ranks above another: numbers by value, then NaN, then absent. -/
def scoreAbove (a b : Val) : Bool :=
  match a, b with
  | .na, _ => false
  | _, .na => true
  | a, b => ranksHigher a b

/-- The best-ranked child. -/
def Tree.best (t : Tree) (p : Nat) : LunaStop ⊕ Nat :=
  let first := t.ng p 0xC 4
  let kids := (List.range (t.ng p 0xA 2)).map (fun j => first + j)
  eb (kids.foldl (fun acc y => eb acc (fun _ => t.follow y)) (.inr ())) (fun _ =>
    .inr ((kids.foldl (fun (b : Nat × Val) y =>
      let v := valOf f32 false (t.score p y)
      if scoreAbove v b.2 then (y, v) else b) (first, .na)).1))

/-- Walk down from x: the path, the leaf first. -/
def Tree.descend (t : Tree) : Nat → Nat → List Nat → LunaStop ⊕ List Nat
  | fuel, x, path =>
    if t.flag x 0 && !t.flag x 1 && t.ng x 0xA 2 != 0 then
      match fuel with
      | 0 => badTree
      | fuel + 1 => eb (t.best x) (fun y => t.descend fuel y (y :: path))
    else .inr path

/-- One descent (12 R238): the leaf and the condition. -/
def Tree.tdesc (t : Tree) : LunaStop ⊕ (Tree × Nat × Cond) :=
  eb (t.follow t.root) (fun _ =>
    eb (t.descend 65535 t.root [t.root]) (fun path =>
      let x := path.headD t.root
      let t := path.reverse.foldl (fun (t : Tree) y => t.ns y 8 2 (min (t.ng y 8 2 + 1) 0xFFFF)) t
      if t.flag x 1 || (t.ng x 0xA 2 == 0 && t.flag x 0) then .inr (t, x, condU)
      else if t.flag x 2 then .inr (t, x, condF)
      else .inr (t.ns x 0x1C 2 (t.ng x 0x1C 2 + 4), x, condT)))

/-! ### Expansion (12 R239) -/

/-- The flags of a node without pending. -/
def notPending (f : Nat) : Nat := if f / 4 % 2 = 1 then f - 4 else f

/-- Expand a node from the record at near address `a` of group accessor `w`. -/
def Tree.texp (t : Tree) (w : Who) (x : Nat) (a : Option Nat) : LunaStop ⊕ (Tree × Nat) :=
  if x = noIndex then .inr (t, noIndex)
  else eb (t.follow x) (fun _ =>
    let clear := t.ns x 0x1C 2 (notPending (t.ng x 0x1C 2))
    if t.flag x 0 then .inr (clear, t.ng x 0xC 4)
    else match a with
      | none => .inr (clear, noIndex)
      | some a =>
        let k := lunaRead t.s w t.known a 4
        let rec_ := 8 + (if 1024 < k then 0 else 8 * k)
        if nearBad t.s w false a rec_ then .inl (.badRecord a)
        else if k = noIndex then .inr (clear, noIndex)
        else if 1024 < k then badTree
        else if k = 0 then .inr (t.ns x 0x1C 2 3, noIndex)
        else
          eb (t.alloc k) (fun r =>
            let (i, t) := r
            let depth := min (t.ng x 0x1E 2 + 1) 0xFFFF
            let t := (List.range k).foldl (fun (t : Tree) j =>
              t.node (i + j) noIndex x (lunaRead t.s w t.known (a + 8 + 8 * j) 4) (lunaRead t.s w t.known (a + 12 + 8 * j) 4) 0 depth) t
            .inr (((t.ns x 0xC 4 i).ns x 0xA 2 k).ns x 0x1C 2 1, i)))

/-! ### Backup (12 R240) -/

/-- The walk of a lane at its leaf (12 R240). -/
def Walk.start (leaf : Nat) : Walk := { x := leaf, neg := false, fuel := 65536 }

/-- One node of a backup walk with a value (absent cancels the visit): the tree, and a stop or where the walk goes on. -/
def Tree.backStep (t : Tree) (leaf v : Nat) (p : Walk) : Tree × (LunaStop ⊕ Option Walk) :=
  let x := p.x
  if t.cap ≤ x then (t, .inl (.flt 0x22))
  else if t.badNode x then (t, .inl .broken)
  else if t.flag x 3 then (t, .inr none)
  else if p.fuel = 0 then (t, .inl (.flt 0x22))
  else
    let t := if v = f32.na then t
      else (t.ns x 0 4 (min (t.ng x 0 4 + 1) 0xFFFFFFFF)).ns x 4 4 (rne2 (if p.neg then .sub else .add) (t.ng x 4 4) v)
    let t := if t.ng x 8 2 = 0 then t else t.ns x 8 2 (t.ng x 8 2 - 1)
    let t := if x = leaf then t.ns x 0x1C 2 (notPending (t.ng x 0x1C 2)) else t
    let up := t.ng x 0x10 4
    if x = t.root ∨ up = noIndex then (t, .inr none)
    else (t, .inr (some { x := up, neg := if t.dg 0x24 1 = 1 then !p.neg else p.neg, fuel := p.fuel - 1 }))

/-- A whole walk; a stop leaves what was done. -/
def Tree.backup (t : Tree) (leaf v : Nat) : Nat → Walk → Tree
  | 0, _ => t
  | n + 1, p =>
    let r := t.backStep leaf v p
    match r.2 with
    | .inr (some q) => r.1.backup leaf v n q
    | _ => r.1

/-- A lane of a `tback`: its number, leaf and value. -/
structure BackLane where
  lane : Nat
  leaf : Nat
  v : Nat

/-- What a lane's walk would leave from a place on. -/
def Tree.rest (t : Tree) (l : BackLane) (p : Walk) : Tree := t.backup l.leaf l.v (p.fuel + 1) p

/-- What a lane's walk would leave. -/
def Tree.walked (t : Tree) (l : BackLane) : Tree := if l.leaf = noIndex then t else t.rest l (.start l.leaf)

/-! ### Reuse (12 R241) -/

/-- The nodes of subtrees in preorder with their children's first index and count; more than `fuel` of them is a cycle. -/
def Tree.preorder (t : Tree) : Nat → List Nat → List (Nat × Nat × Nat) → LunaStop ⊕ List (Nat × Nat × Nat)
  | _, [], acc => .inr acc.reverse
  | 0, _ :: _, _ => badTree
  | fuel + 1, z :: stack, acc =>
    match t.follow z with
    | .inl e => .inl e
    | .inr _ =>
      let n := t.ng z 0xA 2
      let f := t.ng z 0xC 4
      t.preorder fuel ((List.range n).map (fun j => f + j) ++ stack) ((z, f, n) :: acc)

/-- Make child r of the root the root, and free the rest. -/
def Tree.treuse (t : Tree) (r : Nat) : LunaStop ⊕ Tree :=
  let old := t.root
  let f := t.ng old 0xC 4
  let n := t.ng old 0xA 2
  if !(decide (f ≤ r) && decide (r < f + n)) then badTree
  else
    let others := ((List.range n).map (fun j => f + j)).filter (· != r)
    eb (t.preorder t.cap others []) (fun gone =>
      eb (t.preorder (t.cap - gone.length) [r] []) (fun keep =>
        let dr := t.ng r 0x1E 2
        let t := (t.ds 0x10 4 r).ns r 0x10 4 noIndex
        let t := ((t.freeRun old 1).freeRun f (r - f)).freeRun (r + 1) (f + n - r - 1)
        let t := gone.foldl (fun (t : Tree) z => t.freeRun z.2.1 z.2.2) t
        .inr (keep.foldl (fun (t : Tree) z => t.ns z.1 0x1E 2 (t.ng z.1 0x1E 2 + 2 ^ 16 - dr)) t)))

/-! ### The operations of a timeline (12 R240, R241, R244 to R246) -/

/-- The lanes of a `tback` as its operation holds them after the descriptor: the number, then leaf and value. -/
def backLanes : List DWord → List BackLane
  | k :: y :: rest => { lane := k.toNat, leaf := y.toNat % 2 ^ 32, v := y.toNat / 2 ^ 32 } :: backLanes rest
  | _ => []

def lunaLanesOf (op : EngineOp) : List BackLane := backLanes (op.args.drop 1)

/-- The tree of an operation. -/
def lunaTree (s : State) (op : EngineOp) : Tree :=
  { s := s, ctx := op.context, d := (op.args.getD 0 0).toNat, by_ := (opEng op).writer, known := (getDie s (opDie s op)).luna }

/-- The descriptor meets an uncorrectable error (12 R245). -/
def Tree.badDesc (t : Tree) : Bool := t.bad t.d 64

/-- An uncorrectable error in a tree (12 R245): the state is 2, but for a sealed descriptor, whose bytes stay (08 R163; DEDUCED, log
53). -/
def Tree.break (t : Tree) : State :=
  let b := Tree.ds { t with w := [] } 0x25 1 2
  if b.sealed.isSome then t.s else b.s

/-- The cause of a stop. -/
def LunaStop.cause : LunaStop → Nat
  | .flt c => c
  | .sealed _ => 0x13
  | .broken => 0x50
  | .badRecord _ => 0x50

/-- An operation ends, whole or at a lane: full bits are set of what it wrote, but where a lane that is not done writes (06 R115,
R117). -/
def endLuna (s : State) (op : EngineOp) (fail : Option (Nat × LunaStop)) : State :=
  let t := lunaTree s op
  let rest := ((lunaLanesOf op).drop op.next).flatMap (fun l => (t.walked l).w.map (fun x => x.1 / 16))
  let s := Tree.fill { t with w := op.wrote.map (fun y : Nat × Nat => (y.2, 1)) } rest
  match fail with
  | none => endOp s op none
  | some (k, e) =>
    endOp (if e = .broken then (lunaTree s op).break else s) op (some (BitVec.ofNat 64 k, BitVec.ofNat 8 e.cause))

/-- Where the next step of an operation stops, if it does: the lane and the stop; and what the step leaves. A step of a walk looks
at the descriptor, which it reads (12 R245), and at the seals over every byte that the walk would still write (08 R163; DEDUCED,
log 53). -/
def stepWalk (s : State) (op : EngineOp) : State × EngineOp × Option (Nat × LunaStop) :=
  match instrOf op.word with
  | some (.treuse ..) =>
    let t := lunaTree s op
    match (if t.badDesc then .inl .broken else eb (t.treuse (op.args.getD 1 0).toNat) (fun t => t.commit)) with
    | .inr s => (s, op, none)
    | .inl e => (s, op, some (0, e))
  | _ =>
    match (lunaLanesOf op)[op.next]? with
    | none => (s, op, none)
    | some l =>
      let done (op : EngineOp) : EngineOp := { op with walk := none, next := op.next + 1, left := op.left - 1 }
      let t := lunaTree s op
      let p := op.walk.getD (.start l.leaf)
      if l.leaf = noIndex then (s, done op, none)
      else if t.badDesc then (s, op, some (l.lane, .broken))
      else match (t.rest l p).sealed with
        | some a => (s, op, some (l.lane, .sealed a))
        | none =>
          let r := t.backStep l.leaf l.v p
          let op := { op with wrote := op.wrote ++ r.1.w.reverse.map (fun y => (op.next, y.1)) }
          match r.2 with
          | .inl e => (r.1.s, op, some (l.lane, e))
          | .inr (some q) => (r.1.s, { op with walk := some q }, none)
          | .inr none => (r.1.s, done op, none)

/-- An operation of Luna goes on: a `treuse` whole, a `tback` by a node; it ends with its last. -/
def completeLuna (s : State) (op : EngineOp) : State :=
  let r := stepWalk s op
  match r.2.2 with
  | some f => endLuna r.1 r.2.1 (some f)
  | none => if (lunaLanesOf op).length ≤ r.2.1.next ∨ (instrOf op.word matches some (.treuse ..)) then endLuna r.1 r.2.1 none
    else setOp r.1 r.2.1

/-- An operation goes on to its end. -/
def runLuna : Nat → Nat → State → State
  | 0, _, s => s
  | n + 1, id, s => match getOp s id with
    | some op => runLuna n id (completeLuna s op)
    | none => s

/-- The outstanding operations on a tree are applied, in arrival order (12 R246). -/
def drainTree (s : State) (ctx d : Nat) : State :=
  (s.ops.filter (fun o => o.kind == .luna && o.context == ctx && (o.args.getD 0 0).toNat == d)).foldl
    (fun s o => runLuna (65537 * 65) o.id s) s

/-! ### The instructions -/

/-- The die whose Luna serves a tree (12 R229), at a descriptor address. -/
def treeDie (x : Issue) (d : Nat) : Nat := physDie x.s (whoOf x.s x.g).ctx (scratchDie (nearCanon (whoOf x.s x.g).core d))

/-- The group waits for the answer of the Luna of a tree (12 R247). -/
def awaitLuna (s : State) (x : Issue) (d : Nat) : State :=
  modGroup s x.g.id (fun g => { g with wait := some (.luna (treeDie x d) x.e.word x.e.addr) })

/-- The fault of a descriptor address (12 R243, 3). -/
def descFault (x : Issue) (d : Int) : Option FaultInfo := nearFaults x.s (whoOf x.s x.g) false 64 64 [d]

/-- The tree at a descriptor address. -/
def treeAt (x : Issue) (s : State) (d : Int) : Tree :=
  { s := s, ctx := (whoOf x.s x.g).ctx, d := nearCanon (whoOf x.s x.g).core d.toNat, by_ := lunaWriter x.g.id
    known := (getDie s (treeDie x d.toNat)).luna }

/-- The issue of an operation releases what its group orders before accesses of class X toward the Luna of a tree (12 R248, R249);
what no reader may miss any more is not kept. -/
def lunaJoined (x : Issue) (s : State) (d : Int) : State :=
  let ages := (classView s (groupNow s x) maskX).carried s
  if s.past = [] then s
  else modDie s (treeDie x d.toNat) (fun y =>
    { y with luna := (joinAges y.luna ages).filter (fun a => s.past.any (·.age == a)) })

/-- What a stop leaves, and its fault, at the descriptor address that the instruction named; an error is reported to the host
(25 R382). -/
def lunaHalt (x : Issue) (d : Int) (s : State) (e : LunaStop) : State × (FaultInfo ⊕ Wait) :=
  match e with
  | .flt c => (s, .inl (fault c (addrData d)))
  | .sealed a => (s, .inl (fault 0x13 a))
  | .broken => (signal (treeAt x s d).break 2, .inl (fault 0x50 (addrData d)))
  | .badRecord a => (signal s 2, .inl (fault 0x50 a))

/-- Stop a word. -/
def stopLuna (x : Issue) (d : Int) (s : State) (e : LunaStop) : Stop :=
  let r := lunaHalt x d s e
  .part r.1 x.e r.2

/-- Accept an operation at a descriptor (12 R243): the state in which the tree's earlier operations are applied. -/
def lunaStart (x : Issue) (d : Int) (made : Bool) : Except Stop State :=
  let s := lunaJoined x (drainTree x.s (whoOf x.s x.g).ctx (nearCanon (whoOf x.s x.g).core d.toNat)) d
  match (treeAt x s d).refused (whoOf x.s x.g) made with
  | some e => .error (stopLuna x d s e)
  | none => .ok s

/-- An instruction with a descriptor (12 R243): what it does with an absent one, its faults before acceptance, and its work. -/
def lunaWord (x : Issue) (made : Bool) (absent : Except Stop Done) (first : Int → Option FaultInfo)
    (f : Int → State → Except Stop Done) : Except Stop Done :=
  match descAddr x with
  | none => absent
  | some d =>
    match firstFault [descFault x d, first d] with
    | some e => .error (.flt e)
    | none => match lunaStart x d made with
      | .error e => .error e
      | .ok s => f d s

/-- A single operation with a scalar result (12 R235, R236). -/
def lunaScalar (x : Issue) (made : Bool) (f : Tree → LunaStop ⊕ (Tree × Nat)) : Except Stop Done :=
  let give (s : State) (v : Nat) : State := putScalar s (groupNow s x) x.e x.i.form.t (destReg x.i.form.d) v
  lunaWord x made (.ok (.ok (give x.s noIndex))) (fun _ => none) (fun d s =>
    match eb (f (treeAt x s d)) (fun r => eb r.1.commit (fun s => .inr (s, r.2))) with
    | .inl e => .error (stopLuna x d s e)
    | .inr (s, v) => .ok (.ok (awaitLuna (give s v) x d.toNat)))

/-- A new tree: one node, the root, with nothing free (12 R235). -/
def Tree.tnew (t : Tree) : Tree :=
  let t := (((((t.ds 0x10 4 0).ds 0x14 4 1).ds 8 4 noIndex).ds 0xC 4 0).ds 0x28 4 1).ds 0x25 1 1
  t.node 0 noIndex noIndex 0x3F800000 noIndex 0 0

/-- A tree with a larger capacity, and the capacity (12 R236). -/
def Tree.tgrow (t : Tree) (n : Nat) : LunaStop ⊕ (Tree × Nat) :=
  if n = noIndex then .inr (t, t.cap)
  else
    let c := min (t.cap + n) 0xFFFFFFFE
    if (nearLoc t.s (admiral t.ctx (scratchDie t.d)) t.pool (64 * c)).isNone then badTree
    else .inr (t.ds 4 4 c, c)

/-- `tnew` (12 R235). -/
def tnewBody (x : Issue) : Except Stop Done := lunaScalar x true (fun t => .inr (t.tnew, 0))

/-- `tgrow` (12 R236). -/
def tgrowBody (x : Issue) : Except Stop Done := lunaScalar x false (fun t => t.tgrow (scalarA x % 2 ^ 32))

/-- The plan of `tdesc`. -/
def planTdesc (r : Nat) (x : Issue) : Plan :=
  let f := x.i.form
  let vec := isV f.d
  Plan.withDesc { vec := vec, writes := if f.t then [] else [codeAfter f.d 0], active := if vec then activeSet x.g else 0 } r x

/-- Apply lanes with their answers, in the shape of 05 R108 (12 R244). -/
def lunaLanes (x : Issue) (first : Int → Option FaultInfo) (f : Int → State → Nat → LunaStop ⊕ (State × Nat)) : Except Stop Done :=
  lunaWord x false (.ok (.ok (putLoad x.s x (.raw 32) (fun _ => noIndex)))) first (fun d s =>
    laneEngine { x with s := s } (.raw 32) true (lunaHalt x d) (fun s => awaitLuna s x d.toNat) (f d))

/-- `tdesc` (12 R238). -/
def tdescBody (x : Issue) : Except Stop Done :=
  lunaLanes x (fun _ => none) (fun d s i =>
    eb (treeAt x s d).tdesc (fun r => eb r.1.commit (fun s =>
      let g := groupNow s x
      let lanes := if x.e.vec then [i] else List.range g.width
      .inr (setGroup s (setConds g (modeField x.e.mode 1 3) lanes (fun _ => r.2.2)), r.2.1))))

/-- The plan of `texp`. -/
def planTexp (r : Nat) (x : Issue) : Plan :=
  let f := x.i.form
  let vec := kindOf x
  Plan.withDesc
    { bad := (isS f.d && vec) || (vec && oddV f.a)
      vec := vec, readA := true, readD := true, pairA := vec, naA := na64, naD := noIndex, stops := true
      writes := if f.t then [] else [codeAfter f.d 0], active := if vec then activeSet x.g else 0} r x

/-- The faults of the expansion records' addresses (12 R243, 4). -/
def recordFaults (x : Issue) (d : Int) : Option FaultInfo :=
  let w := whoOf x.s x.g
  let known := (getDie (lunaJoined x x.s d) (treeDie x d.toNat)).luna
  let uses := (touched x).map (fun ia =>
    let k := if (nearFault x.s w ia.2 8 1).isNone then nearSeen x.s w (lunaView known ia.2.toNat) ia.2.toNat 4 else 0
    (ia.2, 8 + (if k ≤ 1024 then 8 * k else 0)))
  let first (c : Nat) : Option FaultInfo :=
    (uses.find? (fun u => nearFault x.s w u.1 u.2 8 == some c)).map (fun u => fault c (addrData u.1))
  firstFault [first 0x11, first 0x10, first 0x12]

/-- `texp` (12 R239). -/
def texpBody (x : Issue) : Except Stop Done :=
  lunaLanes x (recordFaults x) (fun d s i =>
    let n := srcVal x.e x.i.form.d x.e.slotD (.raw 32) i
    eb ((treeAt x s d).texp (whoOf x.s x.g) n ((laneAddr x i).map (·.toNat))) (fun r =>
      eb r.1.commit (fun s => .inr (s, r.2))))

/-- The plan of `trd`. -/
def planTrd (r : Nat) (x : Issue) : Plan :=
  let f := x.i.form
  let vec := kindOf x
  Plan.withDesc
   { bad := isS f.d && vec, vec := vec, readA := true, naA := noIndex
     writes := (List.range 4).map (codeAfter f.d), active := if vec then activeSet x.g else 0 } r x

/-- `trd` (12 R242). -/
def trdBody (x : Issue) : Except Stop Done :=
  let dn := destReg x.i.form.d
  let lanes := actingLanes x
  let index (i : Nat) : Nat := srcVal x.e x.i.form.a x.e.slotA (.raw 32) i
  -- the four registers from a value by lane
  let write (s : State) (v : Nat → Nat → Nat) : State :=
    if x.e.vec then
      let g := groupNow s x
      let others := if zeroFlag x.e.mode then (List.range g.width).filter (fun i => !x.e.active.getLsbD i) else []
      let s := [1, 2, 3].foldl (fun s j =>
        partVec s (groupNow s x) (dn + j) false (lanes ++ others) (fun i => if x.e.active.getLsbD i then v j i else 0)) s
      putVec s (groupNow s x) x.e false dn false x.e.active (v 0)
    else
      let s := [1, 2, 3].foldl (fun s j => putPlain s (groupNow s x) (dn + j) (v j 0)) s
      putScalar s (groupNow s x) x.e false dn (v 0 0)
  lunaWord x false (.ok (.ok (write x.s (fun _ _ => noIndex)))) (fun _ => none) (fun d s =>
    let t := treeAt x s d
    let asked := (lanes.map index).filter (· != noIndex)
    if asked.any (fun y => decide (t.cap ≤ y)) then .error (stopLuna x d s (.flt 0x22))
    else if asked.any t.badNode then .error (stopLuna x d s .broken)
    else
      let v (j i : Nat) : Nat :=
        let y := index i
        if y = noIndex then noIndex
        else if j = 0 then t.ng y 0 4
        else if j = 1 then t.ng y 4 4
        else if j = 2 then t.ng y 0xA 2 * 2 ^ 16 + t.ng y 8 2
        else t.ng y 0x1E 2 * 2 ^ 16 + t.ng y 0x1C 2
      .ok (.ok (awaitLuna (write s v) x d.toNat)))

/-- Number an accepted operation on its timeline. -/
def acceptLuna (x : Issue) (s : State) (tl left : Nat) (d : Nat) (args : List Nat) : Except Stop Done :=
  .ok (.ok (awaitLuna
    (issueOp s x.g { blankOp .luna tl x.e.word x.e.mode [] ((d :: args).map (BitVec.ofNat 64)) with
      left := left, home := some (treeDie x d) }) x d))

/-- The plan of `tback`: leaf and value in one slot. -/
def planTback (r : Nat) (x : Issue) : Plan :=
  let f := x.i.form
  let vec := isV f.d
  let p : Plan := { vec := vec, readD := true, pairD := vec, active := if vec then activeSet x.g else 0 }
  (if vec then p else { p with extra := [(codeAfter f.d 1, false)], places := [.upper 2] }).withDesc r x

/-- Leaf and value of a lane of `tback`, as captured. -/
def backValue (x : Issue) (i : Nat) : Nat :=
  if x.e.vec then (cellGet x.e.slotD i).toNat
  else (cellGet x.e.slotD 0).toNat % 2 ^ 32 + 2 ^ 32 * (extraVal false x.e (.upper 2) 0 % 2 ^ 32)

/-- `tback` (12 R240): accepted with its lanes. -/
def tbackBody (tl : Nat) (x : Issue) : Except Stop Done :=
  lunaWord x false (.ok (.ok x.s)) (fun _ => tlFull x.s x.g.team tl) (fun d s =>
    let lanes := actingLanes x
    acceptLuna x s tl lanes.length (treeAt x s d).d (lanes.flatMap (fun i => [i, backValue x i])))

/-- `treuse` (12 R241): accepted with its new root, once the walk of 12 R241 has found nothing to refuse. -/
def treuseBody (tl : Nat) (x : Issue) : Except Stop Done :=
  lunaWord x false (.ok (.ok x.s)) (fun _ => tlFull x.s x.g.team tl) (fun d s =>
    let r := scalarA x % 2 ^ 32
    match (treeAt x s d).treuse r with
    | .inl e => .error (stopLuna x d s e)
    | .inr _ => acceptLuna x s tl 1 (treeAt x s d).d [r])

/-- The plan of `treuse`; and of `tnew` and `tgrow`. -/
def planTreuse (r : Nat) (x : Issue) : Plan := (planA x).withDesc r x
def planTree (r : Nat) (x : Issue) : Plan := (planAD x).withDesc r x

/-- `tnew` (12 R235). -/
def execTnew (e : Bool) (t : Bool) (d : Opnd) (r : BitVec 3) (s : State) :
    Host.Outcome State Fault Refusal := runWord (.tnew e t d r) s (planTree r.toNat) [] tnewBody

/-- `tdesc` (12 R238). -/
def execTdesc (e : Bool) (t : Bool) (d : Opnd) (r : BitVec 3) (s : State) :
    Host.Outcome State Fault Refusal := runWord (.tdesc e t d r) s (planTdesc r.toNat) [] tdescBody

/-- `texp` (12 R239). -/
def execTexp (e : Bool) (t : Bool) (d : Opnd) (a : Opnd) (r : BitVec 3) (s : State) :
    Host.Outcome State Fault Refusal := runWord (.texp e t d a r) s (planTexp r.toNat) [] texpBody

/-- `tback` (12 R240). -/
def execTback (e : Bool) (d : Opnd) (l : BitVec 3) (r : BitVec 3) (s : State) :
    Host.Outcome State Fault Refusal := runWord (.tback e d l r) s (planTback r.toNat) [] (tbackBody l.toNat)

/-- `treuse` (12 R241). -/
def execTreuse (e : Bool) (l : BitVec 3) (a : Opnd) (r : BitVec 3) (s : State) :
    Host.Outcome State Fault Refusal := runWord (.treuse e l a r) s (planTreuse r.toNat) [] (treuseBody l.toNat)

/-- `trd` (12 R242). -/
def execTrd (e : Bool) (d : Opnd) (a : Opnd) (r : BitVec 3) (s : State) :
    Host.Outcome State Fault Refusal := runWord (.trd e d a r) s (planTrd r.toNat) [] trdBody

/-- `tgrow` (12 R236). -/
def execTgrow (e : Bool) (t : Bool) (d : Opnd) (a : Opnd) (r : BitVec 3) (s : State) :
    Host.Outcome State Fault Refusal := runWord (.tgrow e t d a r) s (planTree r.toNat) [] tgrowBody

end Sys2Proof.Machine
end

