-- ==== Sys2Proof/Machine/Waits.lean ====
section
/-! DEFINITION. How waits end: timelines (06 R129), full/empty bits (07 R144 to R146), frames (08 R151, R166), slots (11
R212), room in tables and queues (16 R304, R307, 18 R330), releases (13 R259), barriers (16 R311, R312), `fuse` (14
R287), the fault buffer (04 R72), the scoreboard (08 R152), answers (05 R98, 12 R247), and faults taken while a group
waits (21 R343, R354). A step that is not enabled leaves the state as it is (DESIGN CHOICE, log 8). -/

namespace Sys2Proof.Machine

/-- The effect of a step without a word: nothing where it is not enabled. -/
def happen (s : State) (r : Option State) : Host.Outcome State Fault Refusal := .next (r.getD s)

/-- A wait is over: the queued word executes again. -/
def wake (s : State) (g : Group) : State := setGroup s { g with wait := none }

/-- The queued word at which a group waits, as its meaning sees it. -/
def headIssue (s : State) (g : Group) : Option Issue :=
  match g.rq with
  | e :: _ => (instrOf e.word).map (fun i => { s := s, g := { g with mode := e.mode }, i := i, e := e, fresh := false })
  | [] => none

/-- A condition on the word at which a group waits. -/
def headIs (s : State) (g : Group) (p : Issue → Bool) : Bool := match headIssue s g with | some x => p x | none => false

/-- End the wait of a group when `ok` holds of it. -/
def endWait (s : State) (g : Nat) (ok : Group → Bool) : Option State :=
  match getGroup s g with
  | some g => if ok g then some (wake s g) else none
  | none => none

/-- Record a fault in a waiting group and end its wait. -/
def failWait (s : State) (g : Group) (f : FaultInfo) : State := setGroup s { g with wait := none, pending := some f }

/-- The first of a list of groups by the order of their requests, and the last. -/
def firstAsked : List Group → Option Group
  | [] => none
  | g :: gs => some (gs.foldl (fun a b => if b.serial < a.serial then b else a) g)

def lastAsked : List Group → Option Group
  | [] => none
  | g :: gs => some (gs.foldl (fun a b => if a.serial < b.serial then b else a) g)

/-- The immediate control field of a release, its mask (13 R257). -/
def maskOf (i : Instr) : BitVec 6 :=
  match i with
  | .ldo _ _ _ _ _ m => m
  | .sto _ _ _ _ m => m
  | .aadd _ _ _ _ _ m => m
  | .amin _ _ _ _ _ m => m
  | .amax _ _ _ _ _ m => m
  | .aand _ _ _ _ _ m => m
  | .aor _ _ _ _ _ m => m
  | .axor _ _ _ _ _ m => m
  | .axch _ _ _ _ _ m => m
  | .acas _ _ _ _ _ m => m
  | .fence _ _ m => m
  | _ => 0

/-! ### Timelines -/

/-- The condition that a `tlbind` or `tlwait` waits for (06 R129). -/
def timelineReached (s : State) (g : Group) (tl : Nat) : Bool :=
  let t := getTl s g.team tl
  headIs s g (fun x =>
    match x.i with
    | .tlwait .. => decide (scalarK x 0 ≤ t.completed.toNat)
    | _ => t.issued == t.completed)

/-- TIMELINE_WAIT_END (06 R129). -/
def evTimelineWaitEnd (g : Nat) (s : State) : Option State :=
  endWait s g (fun g => match g.wait with | some (.timeline tl) => timelineReached s g tl | _ => false)

/-- TIMELINE_LIMIT_EXPIRY (06 R126, R129): only `tlwait` has a limit, and a limit of 0 means none. -/
def evTimelineLimitExpiry (g : Nat) (s : State) : Option State :=
  match getGroup s g with
  | some g =>
    (match g.wait with
     | some (.timeline tl) =>
       if headIs s g (fun x => match x.i with | .tlwait .. => true | _ => false) && (getTl s g.team tl).limit != 0 then
         some (failWait s g (fault 0x30 tl))
       else none
     | _ => none)
  | none => none

/-- Every team of a gang on the package is resident (16 R312). -/
def gangResident (s : State) (g : Group) : Bool :=
  match gridOf s g with
  | some gr => (s.teams.filter (·.grid == gr.id)).all (fun t => !t.saved)
  | none => true

/-- The waits that the limit of `tl0` bounds (07 R146, 11 R212, 14 R287, 16 R307, R311, R312, 18 R330, R338): of `gbar`, only
level 1. -/
def tl0Bounds (s : State) (g : Group) : Bool :=
  match g.wait with
  | some .fullEmpty => true
  | some .slotClaim => true
  | some .fuse => true
  | some .taskRoom => true
  | some .packets => true
  | some .batch => true
  | some (.bar _ _) => true
  | some (.gbar _) => gangResident s g && (gridOf s g).any (fun gr => !gangArrived s gr)
  | _ => false

/-- The fault of a descriptor that has failed while a group waits for its batches: it comes before an expiry (18 R338). -/
def batchFailure (s : State) (g : Group) : Option FaultInfo :=
  if g.wait ≠ some .batch then none
  else (headIssue s g).bind (fun x => (descAddr x).bind (fun d =>
    (routeFailure s (whoOf s g).ctx (nearCanon (whoOf s g).core d.toNat)).map (fun c => fault c (addrData d))))

/-- WAIT_LIMIT_EXPIRY: 0x30 at the waiting word, with no effect of it. -/
def evWaitLimitExpiry (g : Nat) (s : State) : Option State :=
  match getGroup s g with
  | some g =>
    if tl0Bounds s g && (getTl s g.team 0).limit != 0 then some (failWait s g ((batchFailure s g).getD (fault 0x30))) else none
  | none => none

/-! ### Full/empty bits, room, releases -/

/-- FULL_EMPTY_WAKE (07 R144, R145). -/
def evFullEmptyWake (g : Nat) (s : State) : Option State :=
  endWait s g (fun g => g.wait == some .fullEmpty &&
    headIs s g (fun x => granulesAre x (match x.i with | .wfeEmpty .. => false | _ => true)))

/-- TASK_TABLE_ROOM (16 R307). -/
def evTaskTableRoom (g : Nat) (s : State) : Option State :=
  endWait s g (fun g => g.wait == some .taskRoom &&
    (let w := whoOf s g
     decide ((s.tasks.filter (fun t => t.context == w.ctx && t.die == dieOf w.core && t.inUse)).length < 4096)))

/-- ITEM_QUEUE_ROOM (16 R304). -/
def evItemQueueRoom (g : Nat) (s : State) : Option State :=
  endWait s g (fun g => g.wait == some .items &&
    headIs s g (fun x => decide (itemsQueued (getDie s (dieOf (whoOf s g).phys)) + (itemLanes x).length ≤ 65536)))

/-- PACKET_QUEUE_ROOM (18 R330). -/
def evPacketQueueRoom (g : Nat) (s : State) : Option State :=
  endWait s g (fun g => g.wait == some .packets &&
    headIs s g (fun x =>
      match descAddr x with
      | none => true
      | some d =>
        let die := admiralDie s (whoOf s g).ctx (nearCanon (whoOf s g).core d.toNat)
        decide ((getDie s die).packets.length + (rqLanes x).length ≤ 4096)))

/-- BATCH_WAIT_END (18 R338): enough batches are routed, or the descriptor has failed. -/
def evBatchWaitEnd (g : Nat) (s : State) : Option State :=
  endWait s g (fun g => g.wait == some .batch &&
    headIs s g (fun x =>
      match descAddr x with
      | none => true
      | some d =>
        let w := whoOf s g
        let n := scalarA x % 2 ^ 32
        (routeStop x d []).isSome ||
        decide ((if n = 0xFFFFFFFF then 0 else n) ≤ routeField s w.ctx (nearCanon w.core d.toNat) 0x10 4)))

/-- RELEASE_WAIT_END (13 R259). -/
def evReleaseWaitEnd (g : Nat) (s : State) : Option State :=
  endWait s g (fun g => g.wait == some .release && headIs s g (fun x => !releaseWaits s g (maskOf x.i)))

/-! ### Frames and slots -/

/-- The groups of a core that wait for frames, unless they are being drained. -/
def frameWaiters (s : State) (core : Nat) : List Group :=
  (coreGroups s core).filter (fun g => !g.stopped && g.pending.isNone &&
    (match g.wait with | some (.unit _) => true | some (.replay _) => true | some .split => true | _ => false))

/-- Give a unit's frame to a waiting group. -/
def grantUnit (s : State) (g : Group) (k : Nat) : State := setGroup s { holdUnit g k with wait := none }

/-- The same for a replay, which a draining then waits for (08 R167). -/
def grantReplay (s : State) (g : Group) (k : Nat) : State := setGroup s { holdUnit g k with wait := none, replaying := true }

/-- FRAME_GRANT (08 R151, R165, 14 R288): the pool's frames go to the requests in their order; the reserve goes to a
replay. -/
def evFrameGrant (core : Nat) (s : State) : Option State :=
  match firstAsked (frameWaiters s core) with
  | none => none
  | some g =>
    let free := poolFree s core
    let first : Option State :=
      match g.wait with
      | some (.unit k) => if 0 < free then some (grantUnit s g k) else none
      | some (.replay k) => if 0 < free then some (grantReplay s g k) else none
      | some .split =>
        if 1 + bits4 g.held ≤ free then
          some { setGroup s { g with wait := none, granted := true } with agenda := .run g.id :: s.agenda }
        else none
      | _ => none
    match first with
    | some s => some s
    | none =>
      if (getCore s core).reserveFull then
        match firstAsked ((frameWaiters s core).filter (fun g => match g.wait with | some (.replay _) => true | _ => false)) with
        | some g =>
          (match g.wait with
           | some (.replay k) => some (grantReplay (modCore s core (fun c => { c with reserveFull := false })) g k)
           | _ => none)
        | none => none
      else none

/-- REGISTER_STARVATION (08 R166): every resident group of the core is blocked for frames; the latest request is
withdrawn. -/
def evRegisterStarvation (core : Nat) (s : State) : Option State :=
  let ws := frameWaiters s core
  if (evFrameGrant core s).isNone && decide (ws.length = (coreGroups s core).length) then
    (lastAsked ws).map (fun g => failWait s g (fault 0x0A))
  else none

/-- The name that a group waits to claim is free. -/
def claimFree (s : State) (g : Group) : Bool :=
  headIs s g (fun x => match x.i with | .slotc k .. => (getName s g.team k.toNat).isNone | _ => true)

/-- SLOT_CLAIM_GRANT (11 R212): a free slot goes to the first request whose name is free. -/
def evSlotClaimGrant (core : Nat) (s : State) : Option State :=
  if slotsFree s core = 0 then none
  else
    (firstAsked ((coreGroups s core).filter (fun g => g.wait == some .slotClaim && !g.stopped && claimFree s g))).map (fun g =>
      { setGroup s { g with wait := none, granted := true } with agenda := .run g.id :: s.agenda })

/-! ### Barriers and `fuse` -/

/-- Groups whose barrier phase has passed continue. -/
def passBar (team barrier : Nat) (phase : BitVec 32) (g : Group) : Bool :=
  g.team == team && (match g.wait with | some (.bar b p) => b == barrier && p != phase | _ => false)

/-- Wake the groups that satisfy `p`; none when there is none. -/
def wakeAll (s : State) (p : Group → Bool) : Option State :=
  if s.groups.any p then some { s with groups := s.groups.map (fun g => if p g then { g with wait := none } else g) } else none

/-- BARRIER_PHASE_COMPLETE (16 R311): the groups that wait for a phase that has passed continue. -/
def evBarrierPhaseComplete (team barrier : Nat) (s : State) : Option State :=
  wakeAll s (passBar team barrier (getBar s team barrier).phase)

/-- GBAR_COMPLETE (16 R312): when every live group of the gang has arrived, the phase completes; the groups that wait for a
phase that has passed, or for a broken one, continue. -/
def evGbarComplete (grid : Nat) (s : State) : Option State :=
  match getGrid s grid with
  | none => none
  | some gr =>
    let ended := gangArrived s gr && !gr.gbArrived.isEmpty && gr.gbBroken.isNone
    let s := if ended then gangNext s grid else s
    let now := (match getGrid s grid with | some g => g.gbPhase | none => 0)
    let mine (g : Group) : Bool := match getTeam s g.team with | some t => t.grid == grid | none => false
    match wakeAll s (fun g => mine g &&
      (match g.wait with | some (.gbar p) => p != now || gr.gbBroken.isSome | _ => false)) with
    | some s => some s
    | none => if ended then some s else none

/-- FUSE_RENDEZVOUS (14 R287): both halves wait in `fuse`, each naming the other. -/
def evFuseRendezvous (g : Nat) (s : State) : Option State :=
  match getGroup s g with
  | none => none
  | some g =>
    match fusePartner s g with
    | none => none
    | some o =>
      if g.wait = some .fuse ∧ o.wait = some .fuse ∧ topSibling o = some g.index then
        some (fuseGroups s { g with rq := g.rq.drop 1 } { o with rq := o.rq.drop 1 })
      else none

/-! ### The fault buffer, the scoreboard, answers -/

/-- A wait that gets its entries: its pages, and the wait with them. -/
def Wait.given : Wait → List Nat × Wait
  | .page ps _ l d h => (ps, .page ps true l d h)
  | .fetch p _ d => ([p], .fetch p true d)
  | w => ([], w)

/-- A group gets all the entries that it asks for, where they are free, and its requests are posted. -/
def grantGroup (s : State) (die : Nat) (g : Group) : Option State :=
  g.wait.bind (fun w =>
    let n := match w.asks with | some (_, n) => n | none => 0
    if (getDie s die).buffered + n ≤ 4096 then
      let s' := w.given.1.foldl (fun s p => postPage s (whoOf s g).ctx p) (takeEntries s die n)
      some (setGroup s' { g with wait := some w.given.2 })
    else none)

/-- The same of an operation. -/
def grantOp (s : State) (die : Nat) (o : EngineOp) : Option State :=
  o.asks.bind (fun a =>
    if (getDie s die).buffered + a.2.length ≤ 4096 then
      let s' := a.1.foldl (fun s p => postPage s o.context p) (takeEntries s die a.2.length)
      some (setOp s' { o with asks := none, parked := a.1, lines := a.2 })
    else none)

/-- FAULT_BUFFER_GRANT (04 R72): of the instructions and operations that wait, the one that parked first gets all the entries
that it needs. -/
def evFaultBufferGrant (die : Nat) (s : State) : Option State :=
  let g := firstAsked (s.groups.filter (asksEntries s die))
  let o := (byNumber (·.serial) (s.ops.filter (opAsks s die))).head?
  match g, o with
  | some g, some o => if o.serial < g.serial then grantOp s die o else grantGroup s die g
  | some g, none => grantGroup s die g
  | none, some o => grantOp s die o
  | none, none => none

/-- ISSUED_WORD_FINISHED (08 R152): the earliest unfinished word of a group finishes. -/
def evIssuedWordFinished (g : Nat) (s : State) : Option State :=
  match getGroup s g with
  | some g => if g.unfinished.isEmpty then none else some (setGroup s { g with unfinished := g.unfinished.drop 1 })
  | none => none

/-- An answer ends the wait of a group; a run that was over gives up its slot now (05 R98, 12 R247). -/
def answerWait (s : State) (g : Nat) (ok : Wait → Bool) : Option State :=
  match getGroup s g with
  | some g => if g.wait.any ok then 
      some (setGroup s (if g.runCount = 0 then { g with wait := none, slot := none, runWords := [] } else { g with wait := none }))
    else none
  | none => none

/-- SPARSE_OPERATION_ANSWER (05 R98). -/
def evSparseAnswer (g : Nat) (s : State) : Option State := answerWait s g (fun w => match w with | .sparse .. => true | _ => false)

/-- LUNA_ANSWER (12 R247): the group's later loads observe what the operation wrote (12 R249). -/
def evLunaAnswer (g : Nat) (s : State) : Option State :=
  (answerWait s g (fun w => match w with | .luna .. => true | _ => false)).map (fun t => acquireAges t g (madeBy s (lunaWriter g)))

/-! ### Faults of waiting groups -/

/-- TRAP_ENTRY (21 R342, R343): a recorded fault is taken by the group's handler, once the engine brings none of the group's words
to its end any more. -/
def evTrapEntry (g : Nat) (s : State) : Option State :=
  match getGroup s g with
  | some g =>
    (match g.pending with
     | some f => if !g.stopped && !matrixRuns s g && canHandle s g then some (takePending s g f) else none
     | none => none)
  | none => none

/-- FAULT_ESCALATION (21 R342, R354): a recorded fault that no handler takes ends the grid. -/
def evFaultEscalation (g : Nat) (s : State) : Option State :=
  match getGroup s g with
  | some g =>
    (match g.pending with
     | some f => if !g.stopped && !matrixRuns s g && !canHandle s g then some (takePending s g f) else none
     | none => none)
  | none => none

/-- TIMELINE_WAIT_END (06 R129). -/
def execTimelineWaitEnd (group : Nat) (s : State) :
    Host.Outcome State Fault Refusal := happen s (evTimelineWaitEnd group s)

/-- TIMELINE_LIMIT_EXPIRY (06 R129). -/
def execTimelineLimitExpiry (group : Nat) (s : State) :
    Host.Outcome State Fault Refusal := happen s (evTimelineLimitExpiry group s)

/-- WAIT_LIMIT_EXPIRY (07 R146). -/
def execWaitLimitExpiry (group : Nat) (s : State) :
    Host.Outcome State Fault Refusal := happen s (evWaitLimitExpiry group s)

/-- FULL_EMPTY_WAKE (07 R144). -/
def execFullEmptyWake (group : Nat) (s : State) :
    Host.Outcome State Fault Refusal := happen s (evFullEmptyWake group s)

/-- FRAME_GRANT (08 R151). -/
def execFrameGrant (core : Nat) (s : State) :
    Host.Outcome State Fault Refusal := happen s (evFrameGrant core s)

/-- REGISTER_STARVATION (08 R166). -/
def execRegisterStarvation (core : Nat) (s : State) :
    Host.Outcome State Fault Refusal := happen s (evRegisterStarvation core s)

/-- SLOT_CLAIM_GRANT (11 R212). -/
def execSlotClaimGrant (core : Nat) (s : State) :
    Host.Outcome State Fault Refusal := happen s (evSlotClaimGrant core s)

/-- TASK_TABLE_ROOM (16 R307). -/
def execTaskTableRoom (group : Nat) (s : State) :
    Host.Outcome State Fault Refusal := happen s (evTaskTableRoom group s)

/-- ITEM_QUEUE_ROOM (16 R304). -/
def execItemQueueRoom (group : Nat) (s : State) :
    Host.Outcome State Fault Refusal := happen s (evItemQueueRoom group s)

/-- PACKET_QUEUE_ROOM (18 R330). -/
def execPacketQueueRoom (group : Nat) (s : State) :
    Host.Outcome State Fault Refusal := happen s (evPacketQueueRoom group s)

/-- BATCH_WAIT_END (18 R338). -/
def execBatchWaitEnd (group : Nat) (s : State) :
    Host.Outcome State Fault Refusal := happen s (evBatchWaitEnd group s)

/-- RELEASE_WAIT_END (13 R259). -/
def execReleaseWaitEnd (group : Nat) (s : State) :
    Host.Outcome State Fault Refusal := happen s (evReleaseWaitEnd group s)

/-- BARRIER_PHASE_COMPLETE (16 R311). -/
def execBarrierPhaseComplete (team barrier : Nat) (s : State) :
    Host.Outcome State Fault Refusal := happen s (evBarrierPhaseComplete team barrier s)

/-- GBAR_COMPLETE (16 R312). -/
def execGbarComplete (grid : Nat) (s : State) :
    Host.Outcome State Fault Refusal := happen s (evGbarComplete grid s)

/-- FUSE_RENDEZVOUS (14 R287). -/
def execFuseRendezvous (group : Nat) (s : State) :
    Host.Outcome State Fault Refusal := happen s (evFuseRendezvous group s)

/-- FAULT_BUFFER_GRANT (04 R72). -/
def execFaultBufferGrant (die : Nat) (s : State) :
    Host.Outcome State Fault Refusal := happen s (evFaultBufferGrant die s)

/-- ISSUED_WORD_FINISHED (08 R152). -/
def execIssuedWordFinished (group : Nat) (s : State) :
    Host.Outcome State Fault Refusal := happen s (evIssuedWordFinished group s)

/-- SPARSE_OPERATION_ANSWER (05 R98). -/
def execSparseOperationAnswer (group : Nat) (s : State) :
    Host.Outcome State Fault Refusal := happen s (evSparseAnswer group s)

/-- LUNA_ANSWER (12 R247). -/
def execLunaAnswer (group : Nat) (s : State) :
    Host.Outcome State Fault Refusal := happen s (evLunaAnswer group s)

/-- TRAP_ENTRY (21 R343). -/
def execTrapEntry (group : Nat) (s : State) :
    Host.Outcome State Fault Refusal := happen s (evTrapEntry group s)

/-- FAULT_ESCALATION (21 R354). -/
def execFaultEscalation (group : Nat) (s : State) :
    Host.Outcome State Fault Refusal := happen s (evFaultEscalation group s)

end Sys2Proof.Machine
end

