-- ==== Sys2Proof/Machine/EngineEvents.lean ====
section
/-! DEFINITION. Steps of the engines: operations that complete or fault (06 R117, R127), collectives, reforms and lost
members (13 R265 to R271), the matrix engine (11 R209), and the Admiral (18 R331 to R337, 25 R380). -/

namespace Sys2Proof.Machine

/-- An outstanding operation of a kind that is not parked. -/
def runningOp (s : State) (n : Nat) (k : OpKind) : Option EngineOp :=
  (getOp s n).filter (fun o => o.kind == k && !o.stalled)

/-- A state in which an operation has gone on; none where it has not. -/
def movedOn (s : State) (n : Nat) (t : State) : Option State := if getOp t n = getOp s n then none else some t

/-- COPY_OPERATION_COMPLETE (06 R127). -/
def evCopyComplete (n : Nat) (s : State) : Option State :=
  (runningOp s n .copy).bind (fun op => movedOn s n (completeCopy s op))

/-- FETCH_OPERATION_COMPLETE (06 R125). -/
def evFetchComplete (n : Nat) (s : State) : Option State :=
  (runningOp s n .fetch).bind (fun op => movedOn s n (completeCopy s op))

/-- A select operation works by rows. -/
def selectRows (op : EngineOp) : Bool := match instrOf op.word with | some (.topkR ..) => true | _ => false

/-- SELECT_OPERATION_COMPLETE (18 R323). -/
def evSelectComplete (n : Nat) (s : State) : Option State :=
  (runningOp s n .select).bind (fun op => movedOn s n (finishEngine (runSelect s op (selectRows op) none)))

/-- MMAV_COMPLETE (11 R222): behind the earlier operations on its slot and its tile (11 R209). -/
def evMmavComplete (n : Nat) (s : State) : Option State :=
  (runningOp s n .mmav).bind (fun op => if mmavBlocked s op then none else movedOn s n (completeMmav s op none))

/-- LUNA_OPERATION_COMPLETE (12 R240). -/
def evLunaComplete (n : Nat) (s : State) : Option State :=
  (runningOp s n .luna).bind (fun op => movedOn s n (completeLuna s op))

/-- A result whose operation failed at an element with a cause. -/
def failsWith (r : EngineResult) (cause : BitVec 8) (element : BitVec 64) : Bool :=
  r.run.pages.isEmpty && r.run.failed == some (element.toNat, cause.toNat)

/-- An operation that failed so, ended. -/
def faulted (r : EngineResult) (cause : BitVec 8) (element : BitVec 64) : Option State :=
  if failsWith r cause element then some (finishEngine r) else none

/-- A lane of an operation of Luna at which it stops with a cause: an error arises at the lane under way. -/
def lunaFault (s : State) (op : EngineOp) (cause : BitVec 8) (element : BitVec 64) : Option State :=
  let lane : Nat := match (lunaLanesOf op)[op.next]? with | some l => l.lane | none => 0
  if cause = 0x50 ∧ element.toNat = lane then some (endLuna s op (some (lane, .broken)))
  else match (stepWalk s op).2.2 with
    | some (k, e) => if e.cause = cause.toNat ∧ k = element.toNat then some (completeLuna s op) else none
    | none => none

/-- ENGINE_OPERATION_FAULT (06 R117): the operation stops at an element. An uncorrectable error (0x50) may arise there; any
other cause is what the element meets. -/
def evEngineFault (n : Nat) (cause : BitVec 8) (element : BitVec 64) (s : State) : Option State :=
  let stop : Option (Nat × Nat) := if cause = 0x50 then some (element.toNat, 0x50) else none
  match (getOp s n).filter (fun o => !o.stalled) with
  | none => none
  | some op =>
    match op.kind, instrOf op.word with
    | .copy, some i => if op.started then none else faulted (runCopy s op i stop) cause element
    | .fetch, some i => faulted (runCopy s op i stop) cause element
    | .select, _ => faulted (runSelect s op (selectRows op) stop) cause element
    | .mmav, _ => if mmavBlocked s op || !failsWith (runMmav s op stop) cause element then none else some (completeMmav s op stop)
    | .luna, _ => lunaFault s op cause element
    | .coll, _ =>
      if cause = 0x50 then
        (getSet s op.context (op.args.getD 0 0).toNat).map (fun p => dropColl (signal s 2) op p (.lost p.rank))
      else none
    | _, _ => none

/-! ### Peer sets -/

/-- COLLECTIVE_COMPLETE (13 R269): `peers` holds, by rank, what each member sent. -/
def evCollectiveComplete (n : Nat) (peers : List (List Byte)) (s : State) : Option State :=
  (runningOp s n .coll).bind (fun op => movedOn s n (completeColl s op peers))

/-- PSET_REFORM_COMPLETE (13 R271): `peers` holds, by new rank, the list that each member gave. -/
def evReformComplete (n : Nat) (peers : List (List Byte)) (s : State) : Option State :=
  (runningOp s n .reform).bind (fun op => movedOn s n (completeReform s op peers))

/-- A gang's barrier waits for the other members of its peer set (16 R312). -/
def gbarWaits (s : State) (g : Grid) : Bool :=
  recGang g.record && recPeers g.record != 0xFFFF && g.placed && !g.ended && g.gbBroken.isNone && !g.gbArrived.isEmpty &&
  gangArrived s g

/-- TRANSACTION_TIMEOUT (13 R265): the end-to-end timeout of what a number names: a collective or a reform ends with code 1, and
so does the barrier of a gang that waits for its peer set (16 R312). -/
def evTransactionTimeout (n : Nat) (s : State) : Option State :=
  match getOp s n with
  | some op =>
    if op.kind = .coll ∨ op.kind = .reform then
      (getSet s op.context (op.args.getD 0 0).toNat).bind (fun p => movedOn s n (dropColl s op p .timeout))
    else none
  | none =>
    match getGrid s n with
    | some g => if gbarWaits s g then some (breakGang s n 0xFFFF 1) else none
    | none => none

/-- The gangs of a context that span a peer set and have started. -/
def setGangs (s : State) (ctx set : Nat) : List Grid :=
  s.grids.filter (fun g => g.context == ctx && recPeers g.record == set && g.placed && !g.ended)

/-- PEER_MEMBER_LOSS (13 R269, 16 R312): every pending collective and gang barrier of the set ends with code 2. -/
def evPeerLoss (ctx set rank : Nat) (s : State) : Option State :=
  match getSet s ctx set with
  | none => none
  | some p =>
    if p.state = 0 ∨ p.members.length ≤ rank then none
    else
      let s := dropOps s (setOps s ctx set) (.lost rank)
      some ((setGangs s ctx set).foldl (fun s g => breakGang s g.id rank 2) s)

/-! ### The matrix engine and the Admiral -/

/-- An operation that waits in a core's matrix engine and may have its effect now: its place. -/
def matrixNext (l : List MatrixOp) : Option Nat := (List.range l.length).find? (matrixReady l)

/-- An operation may leave the engine: it has had its effect, or it has failed and its group is gone. -/
def MatrixOp.spent (s : State) (m : MatrixOp) : Bool :=
  m.op.isNone && (m.todo.isNone || (m.failed.isSome && (getGroup s m.group).isNone))

/-- The operation at a place of the engine meets a fault as it has its effect (11 R209, R225): it stays there, unfinished, and its
group has the fault recorded, unless it has one. -/
def matrixFails (s : State) (core k : Nat) (m : MatrixOp) (f : FaultInfo) : State :=
  let s := modCore (signalBad s f.cause) core (fun c => { c with matrix := c.matrix.set k { m with failed := some f } })
  modGroup s m.group (fun g => if g.pending.isSome then g else { g with pending := some f })

/-- A group of a core that is being drained has an operation in the engine that has failed, and nothing there goes on. -/
def drainsLeft (s : State) (core : Nat) (g : Group) : Bool :=
  g.stopped && (whoOf s g).phys == core && (matrixLeft s g).any (·.failed.isSome) && !matrixRuns s g

/-- MATRIX_OPERATION_COMPLETE (11 R209): the first operation that is over leaves the engine; else the first that no earlier one
holds back has its effect; else the words of a group that is being drained join its queue (21 R357). -/
def evMatrixComplete (core : Nat) (s : State) : Option State :=
  let l := (getCore s core).matrix
  let without (k : Nat) : State := modCore s core (fun c => { c with matrix := c.matrix.eraseIdx k })
  match l.findIdx? (·.spent s) with
  | some k => some (without k)
  | none =>
    match matrixNext l with
    | some k => (l[k]?).bind (fun m => m.todo.map (fun t =>
        match matrixApply (without k) t m.issueAge with
        | .inr s => s
        | .inl f => matrixFails s core k m f))
    | none =>
      (s.groups.find? (drainsLeft s core)).bind (fun g => g.pending.map (fun f =>
        setGroup (dropLeft s g) { g with rq := queueLeft s g f }))

/-- ADMIRAL_PACKET (18 R331): the first packet that is not kept for a later batch. -/
def evAdmiralPacket (die : Nat) (s : State) : Option State :=
  if (getDie s die).packets.any (fun p => !heldPacket s p) then some (takePacket s die) else none

/-- BATCH_ROUTING (18 R337): a customer's program works at a place of the private memory. -/
def evBatchRouting (die place : Nat) (s : State) : Option State :=
  if customBatch s die && !placeFits place then none else (fullBatch s die).map (routeBatch s die place)

/-- ROUTING_PROGRAM_TIMEOUT (25 R380): the descriptor fails with 0x15. -/
def evProgramTimeout (die : Nat) (s : State) : Option State :=
  if customBatch s die then
    (fullBatch s die).map (fun r => failRoute s r.context r.desc.toNat 0x15)
  else none

/-- COPY_OPERATION_COMPLETE (06 R127). -/
def execCopyOperationComplete (op : Nat) (s : State) :
    Host.Outcome State Fault Refusal := happen s (evCopyComplete op s)

/-- FETCH_OPERATION_COMPLETE (06 R125). -/
def execFetchOperationComplete (op : Nat) (s : State) :
    Host.Outcome State Fault Refusal := happen s (evFetchComplete op s)

/-- SELECT_OPERATION_COMPLETE (18 R323). -/
def execSelectOperationComplete (op : Nat) (s : State) :
    Host.Outcome State Fault Refusal := happen s (evSelectComplete op s)

/-- MMAV_COMPLETE (11 R222). -/
def execMmavComplete (op : Nat) (s : State) :
    Host.Outcome State Fault Refusal := happen s (evMmavComplete op s)

/-- LUNA_OPERATION_COMPLETE (12 R240). -/
def execLunaOperationComplete (op : Nat) (s : State) :
    Host.Outcome State Fault Refusal := happen s (evLunaComplete op s)

/-- ENGINE_OPERATION_FAULT (06 R117). -/
def execEngineOperationFault (op : Nat) (cause : BitVec 8) (element : BitVec 64) (s : State) :
    Host.Outcome State Fault Refusal := happen s (evEngineFault op cause element s)

/-- COLLECTIVE_COMPLETE (13 R269). -/
def execCollectiveComplete (op : Nat) (peers : List (List (BitVec 8))) (s : State) :
    Host.Outcome State Fault Refusal := happen s (evCollectiveComplete op peers s)

/-- PSET_REFORM_COMPLETE (13 R271). -/
def execPsetReformComplete (r : ReformEnd) (s : State) :
    Host.Outcome State Fault Refusal := happen s (evReformComplete r.op r.peers s)

/-- TRANSACTION_TIMEOUT (13 R265). -/
def execTransactionTimeout (op : Nat) (s : State) :
    Host.Outcome State Fault Refusal := happen s (evTransactionTimeout op s)

/-- PEER_MEMBER_LOSS (13 R269). -/
def execPeerMemberLoss (context set rank : Nat) (s : State) :
    Host.Outcome State Fault Refusal := happen s (evPeerLoss context set rank s)

/-- MATRIX_OPERATION_COMPLETE (11 R209). -/
def execMatrixOperationComplete (core : Nat) (s : State) :
    Host.Outcome State Fault Refusal := happen s (evMatrixComplete core s)

/-- ADMIRAL_PACKET (18 R331). -/
def execAdmiralPacket (die : Nat) (s : State) :
    Host.Outcome State Fault Refusal := happen s (evAdmiralPacket die s)

/-- BATCH_ROUTING (18 R337). -/
def execBatchRouting (b : BatchTurn) (s : State) :
    Host.Outcome State Fault Refusal := happen s (evBatchRouting b.die b.place s)

/-- ROUTING_PROGRAM_TIMEOUT (25 R380). -/
def execRoutingProgramTimeout (die : Nat) (s : State) :
    Host.Outcome State Fault Refusal := happen s (evProgramTimeout die s)

end Sys2Proof.Machine
end

