-- ==== Sys2Proof/Machine/Fetch.lean ====
section
/-! DEFINITION. Fetching a word (14 R276), the scoreboard (08 R152), which groups may issue (16 R315), what the next word of a
group does before its meaning, and the answers to page requests (04 R71). -/

namespace Sys2Proof.Machine

/-! ### Fetching -/

/-- Park a group at a word that cannot be fetched yet, with an entry for its line in its die's fault buffer (04 R72). -/
def parkFetch (s : State) (g : Group) (page : Nat) : State :=
  let w := whoOf s g
  let d := dieOf w.phys
  let r := parkOn s w.ctx [page] [g.pc.toNat / 64] d 0 false
  setGroup r.1 { g with wait := some (.fetch page (r.2.holds).isSome d), slot := none, serial := s.tick }

/-- A word that is no instruction faults at issue, as the last entry of the queue (03 R63, 21 R346). -/
def illegalWord (s : State) (g : Group) (w : Word) : State :=
  let e : Entry := { word := w, addr := g.pc, faulting := true, active := 0, mode := g.mode }
  let g' := { g with pc := g.pc + 4, runCount := g.runCount + 1, runWords := w :: g.runWords }
  takeFault s g' (fault 0x01 w.toNat) [e] 0 g.pc g'.pc

/-- A queued word that is no instruction. -/
def illegalEntry (s : State) (g : Group) : State :=
  match g.rq with
  | e :: _ => takePending s g (fault 0x01 e.word.toNat)
  | [] => s

/-- Note a late result of a word that has just issued. -/
def noteLate (g : Group) (i : Instr) (s : State) : State :=
  if longWord i then
    modGroup s g.id (fun y =>
      if y.wait.isNone && y.pending.isNone && y.rq.isEmpty && y.handler == g.handler then
        { y with unfinished := y.unfinished ++ [lateCodes g.mode i] }
      else y)
  else s

/-- A group may run its next word: it waits for nothing, has no recorded fault, and is not being drained, unless its replay holds a
frame, which draining waits for (08 R167). -/
def runnable (s : State) (g : Group) : Bool :=
  g.wait.isNone && g.pending.isNone && (!g.stopped || g.replaying) &&
  (match g.rq with
   | e :: _ => (match instrOf e.word with | some i => !matrixHolds s g i | none => true)
   | [] => (match fetchWord s g with
     | .word w => (match instrOf w with | some i => !matrixHolds s g i | none => true)
     | _ => true))

/-! ### Arbitration (16 R315) -/

/-- A group is ready: it could issue, and holds no slot. One that only finishes a word whose run has ended needs none (03 R53). -/
def ready (s : State) (g : Group) : Bool :=
  g.slot.isNone && !g.detached && runnable s g &&
  (match g.rq, fetchWord s g with
   | [], .word w => (match instrOf w with | some i => !scoreboardHolds s g i | none => true)
   | _, _ => true)

/-- How far a residency slot comes after the last winner. -/
def afterWinner (last r : Nat) : Nat := (r + 32 - last - 1) % 32

/-- The group that a free slot of a core chooses. -/
def arbitrate (s : State) (core slot : Nat) : Option Group :=
  let l := (coreGroups s core).filter (ready s)
  let cls := l.foldl (fun c g => min c (classOf s g)) 4
  let last := (((getCore s core).lastWon.find? (fun w => w.1 == slot && w.2.1 == cls)).map (·.2.2)).getD 31
  match l.filter (fun g => classOf s g == cls) with
  | [] => none
  | g :: gs => some (gs.foldl (fun a b => if afterWinner last b.residency < afterWinner last a.residency then b else a) g)

/-- ISSUE_ARBITRATION (16 R315): a free slot takes a ready group. -/
def evArbitration (core slot : Nat) (s : State) : Option State :=
  if 2 ≤ slot ∨ (coreGroups s core).any (fun g => g.slot == some slot) then none
  else
    (arbitrate s core slot).map (fun g =>
      modCore (setGroup s { g with slot := some slot, aged := false }) core (fun k =>
        setWinner k slot (classOf s g) g.residency))

/-- ISSUE_AGING (16 R315): a group that has been ready for 4,096 cycles counts as class 0. -/
def evAging (g : Nat) (s : State) : Option State :=
  match getGroup s g with
  | some g => if ready s g && !g.aged then some (setGroup s { g with aged := true }) else none
  | none => none

/-! ### Page answers (04 R71, R72) -/

/-- The lowest lane of a parked word whose access waits for a page: for a scoped word by its address, for a sparse word the first
lane not yet applied; none for a scalar form, or for `spit`, which has no lane of its own (05 R108). -/
def parkedLane (s : State) (g : Group) (page : Nat) : BitVec 32 :=
  match headIssue s g with
  | none => 0xFFFFFFFF
  | some x =>
    if !x.e.vec then 0xFFFFFFFF
    else match x.i with
      | .spit .. => 0xFFFFFFFF
      | .spld .. => BitVec.ofNat 32 x.e.first
      | .spst .. => BitVec.ofNat 32 x.e.first
      | .spadd .. => BitVec.ofNat 32 x.e.first
      | _ =>
        let hits (i : Nat) : Bool :=
          !x.e.lanesDone.getLsbD i &&
          (match scopedAddr x i with
           | some a => (match mainAcc s (whoOf s g).ctx a .read with | .park p => p == page | _ => false)
           | none => false)
        match (actingLanes x).find? hits with
        | some i => BitVec.ofNat 32 i
        | none => BitVec.ofNat 32 x.e.first

/-- A wait is for a page. -/
def Wait.awaits (w : Wait) (page : Nat) : Bool :=
  match w with
  | .page ps _ _ _ _ => ps.contains page
  | .fetch p _ _ => p == page
  | _ => false

/-- A group's part in the answer for a page: its entries return. A resolved answer lets it go on, in its turn (04 R71); a failed
one raises 0x14. -/
def answerGroup (page : Nat) (failed : Bool) (s : State) (g : Group) : State :=
  let s := dropBuffer s g
  let lane := match g.wait with | some (.page ..) => parkedLane s g page | _ => 0xFFFFFFFF
  if failed then setGroup s { g with wait := none, pending := some { fault 0x14 page with lane := lane } }
  else setGroup s { g with wait := none, granted := !g.rq.isEmpty }

/-- An engine operation's part. It keeps its lines, and so its turn, until it goes on. -/
def answerOp (page : Nat) (failed : Bool) (s : State) (o : EngineOp) : State :=
  setOp s { o with parked := [], asks := none, failed := if failed then page :: o.failed else o.failed }

/-- The step with which an operation goes on. -/
def opTurn (o : EngineOp) : List Turn :=
  match o.kind with
  | .copy => [.event (.copyOperationComplete o.id)]
  | .fetch => [.event (.fetchOperationComplete o.id)]
  | .mmav => [.event (.mmavComplete o.id)]
  | _ => []

/-- A retiring grid's part: its writes use one entry of the first die's buffer (16 R300). -/
def answerGrid (ctx page : Nat) (failed : Bool) (s : State) (g : Grid) : State :=
  if g.context = ctx ∧ g.parked = some page then
    setGrid (giveEntries s 0 1) { g with parked := none, failedPages := if failed then page :: g.failedPages else g.failedPages }
  else s

/-- The answer to a page request of a context: every access that waits for the page goes on or fails, in the order in which they
parked (04 R71). Pages that found no free entry of the table are posted now. -/
def answerPage (s : State) (ctx page : Nat) (failed : Bool) : State :=
  let gs := s.groups.filter (fun g => (whoOf s g).ctx == ctx && g.wait.any (·.awaits page))
  let os := s.ops.filter (fun o => o.context == ctx && o.pages.contains page)
  let turns := gs.map (fun g => (g.serial, if failed || g.rq.isEmpty then ([] : List Turn) else [.run g.id])) ++
    os.map (fun o => (o.serial, opTurn o))
  let s := gs.foldl (answerGroup page failed) s
  let s := os.foldl (answerOp page failed) s
  let s := s.grids.foldl (answerGrid ctx page failed) s
  let wanted := (s.groups.filter (fun g => (whoOf s g).ctx == ctx && (g.wait.bind Wait.holds).isSome)).flatMap (fun g =>
      match g.wait with | some (.page ps _ _ _ _) => ps | some (.fetch p _ _) => [p] | _ => []) ++
    (s.ops.filter (·.context == ctx)).flatMap (·.parked) ++ (s.grids.filter (·.context == ctx)).filterMap (·.parked)
  let s := wanted.foldl (fun s p => postPage s ctx p) s
  { s with agenda := (byNumber (·.1) turns).flatMap (·.2) ++ s.agenda }

/-- ISSUE_ARBITRATION (16 R315). -/
def execIssueArbitration (core slot : Nat) (s : State) :
    Host.Outcome State Fault Refusal := happen s (evArbitration core slot s)

/-- ISSUE_AGING (16 R315). -/
def execIssueAging (group : Nat) (s : State) :
    Host.Outcome State Fault Refusal := happen s (evAging group s)

end Sys2Proof.Machine
end

