-- ==== Sys2Proof/Machine/WorkEvents.lean ====
section
/-! DEFINITION. Steps of work on its way: launch records (16 R293), teams, gangs, tasks and items that find cores (16 R295 to
R309), teams that end (21 R355) and grids that retire (16 R298 to R300). -/

namespace Sys2Proof.Machine

/-! ### Submission queues (16 R293) -/

def getQueue (s : State) (q : Nat) : Option SubQueue := s.queues.find? (·.q == q)
def setQueue (s : State) (x : SubQueue) : State :=
  { s with queues := s.queues.map (fun y => if y.q == x.q then x else y) }

/-- The record at a queue's head. -/
def headRecord (s : State) (q : SubQueue) : List Byte := bytesList s.mem (q.base + 128 * q.head) 128

/-- A queue has a record that may be dispatched now: a serial one only after the record before it has retired. -/
def dispatchable (s : State) (q : SubQueue) : Bool :=
  q.head != q.tail && (!recSerial (headRecord s q) || q.lastGrid.isNone)

/-- The queue whose turn it is. -/
def nextQueue (s : State) : Option Nat :=
  ((List.range 64).map (fun i => (s.rrNext + i) % 64)).find? (fun q =>
    match getQueue s q with | some x => dispatchable s x | none => false)

/-- What the groups of a queue's next grid begin having acquired: what its record was rung with, and of a serial one the grid before
it (16 R293, 25 R369). -/
def dispatchAges (s : State) (x : SubQueue) (r : List Byte) : List Nat :=
  joinAges (released s (.rung x.q x.head)) (if recSerial r then released s (.queue x.q) else [])

/-- LAUNCH_RECORD_DISPATCH (16 R290, R291, R293). -/
def evDispatch (q : Nat) (s : State) : Option State :=
  if s.device ≠ 1 ∨ nextQueue s ≠ some q then none
  else
    (getQueue s q).map (fun x =>
      let r := headRecord s x
      let start := if recordOk s x.context r false then startGrid s x.context r 0 q x.head none 0
        else refuseGrid s x.context r q x.head
      let t := replaceAt start.2 (.start start.1) (dispatchAges s x r)
      { setQueue t { x with head := (x.head + 1) % 2 ^ x.k, lastGrid := some start.1 } with rrNext := (q + 1) % 64 })

/-! ### Placement -/

/-- TEAM_PLACEMENT (16 R295, R394). -/
def evTeamPlacement (core : Nat) (s : State) : Option State :=
  match nextWork s core with
  | some (.ticket n) =>
    (getGrid s n).bind (fun g => (takeTicket g (virtDie s g.context (dieOf core))).map (fun t =>
      startIndex (setGrid s t.2) t.2 core t.1))
  | _ => none

/-- A gang spans a peer set (16 R297). -/
def crossPackage (g : Grid) : Bool := recGang g.record && recPeers g.record != 0xFFFF

/-- A gang that has found its cores: it starts; one that spans a peer set has reserved its placement, and its groups stand
still until the commit (16 R297; DESIGN CHOICE, log 38). -/
def gangFound (s : State) (g : Grid) : State :=
  let s := setGrid s { g with placed := !crossPackage g, reserved := crossPackage g, target := [] }
  if crossPackage g then { s with groups := s.groups.map (fun x => if gridOfTeam s x.team == some g.id then { x with stopped := true } else x) }
  else s

/-- GANG_PLACEMENT (16 R296, R394): all the teams of a waiting gang fit, and it is next on each core that they fill. -/
def evGangPlacement (n : Nat) (s : State) : Option State :=
  (getGrid s n).bind (fun g =>
    if g.placed || g.reserved || g.ended || !gangNextWork s g then none
    else (gangPlace s g).map (fun s => gangFound s g))

/-- A cross-package gang that has not started. -/
def waitingPeerGang (s : State) (n : Nat) : Option Grid :=
  (getGrid s n).filter (fun g => crossPackage g && !g.placed && !g.ended)

/-- GANG_LAUNCH_COMMIT (16 R297): every member has acknowledged, this one among them, and its groups start. -/
def evGangCommit (n : Nat) (s : State) : Option State :=
  ((waitingPeerGang s n).filter (·.reserved)).map (fun g =>
    let s := setGrid s { g with placed := true, reserved := false }
    { s with groups := s.groups.map (fun x =>
      if gridOfTeam s x.team == some n && !(getTeam s x.team).any (·.draining) then { x with stopped := false } else x) })

/-- GANG_LAUNCH_ABORT (16 R297, R299): no member starts, and what this one has reserved is free again. -/
def evGangAbort (n : Nat) (s : State) : Option State :=
  (waitingPeerGang s n).map (fun g => setGrid (dropReserved s n) { g with
    placed := true, reserved := false, target := [], ended := true, status := 2, cause := 0x32 })

/-- Start the team of a released task (16 R309). -/
def startTask (s : State) (t : TaskEntry) (core : Nat) : State :=
  let h := handleOf t.gen t.die t.index
  let s := { s with tasks := s.tasks.map (fun y =>
    if y.context = t.context ∧ y.die = t.die ∧ y.index = t.index then { y with placed := true } else y) }
  startTeam s { grid := t.grid, carried := released s (.task t.context t.die t.index), linear := BitVec.ofNat 64 h, origin := 1, core := core, shape := taskShape t.record,
                prio := leAt t.record 0x17 1 % 4, pc := leAt t.record 0 8, arg := leAt t.record 8 8, s1 := h,
                seed := match getGrid s t.grid with | some g => recSeed g.record | none => 0 }

/-- TASK_PLACEMENT (16 R309, R394). -/
def evTaskPlacement (core : Nat) (s : State) : Option State :=
  match nextWork s core with
  | some (.task d k c) =>
    (s.tasks.find? (fun t => t.die == d && t.index == k && t.context == c)).map (fun t => startTask s t core)
  | _ => none

/-! ### Items (16 R305) -/

/-- Form a group from the oldest items of a queue. -/
def formItems (s : State) (die k : Nat) (q : ItemQueue) : State :=
  let (age, s) := fresh s
  let d := getDie s die
  let rest := q.items.drop 64
  let queues := if rest.isEmpty then d.queues.eraseIdx k else d.queues.set k { q with items := rest }
  setDie s die { d with
    queues := queues
    formed := d.formed ++ [{ grid := q.grid, target := q.target, items := q.items.take 64, order := age }] }

/-- ITEM_GROUP_FORM: 64 items wait. -/
def evItemForm (die k : Nat) (s : State) : Option State :=
  ((getDie s die).queues[k]?).bind (fun q => if 64 ≤ q.items.length ∧ die < 4 then some (formItems s die k q) else none)

/-- ITEM_WAIT_EXPIRY: the oldest item has waited 256 cycles. -/
def evItemExpiry (die k : Nat) (s : State) : Option State :=
  ((getDie s die).queues[k]?).bind (fun q => if !q.items.isEmpty ∧ die < 4 then some (formItems s die k q) else none)

/-- What an item group begins with beside a team of one group (16 R305). The stochastic states of the lanes that hold no item are
those of a launch with team index 0: the rule gives the items' lanes alone (DESIGN CHOICE, log 36). -/
def itemGroupOf (x : ItemGroup) (g : Group) : Group :=
  let n := x.items.length
  let pay (i : Nat) : Nat := match x.items[i]? with | some it => it.payload.toNat | none => 0
  { g with
    em := BitVec.ofNat 64 (2 ^ n - 1)
    v := cellSetAll (cellsOf 32 n (fun i => pay i % 2 ^ 32))
      ((cellsOf 32 n (fun i => pay i / 2 ^ 32)).map (fun e => (64 + e.1, e.2)))
    s := cellSet g.s 2 (BitVec.ofNat 64 n)
    rng := cellSetAll g.rng ((x.items.zipIdx).map (fun y => (y.2, y.1.seed)))
    sibling := 0 }

/-- Start the team of an item group (DESIGN CHOICE, log 36). -/
def startItems (s : State) (x : ItemGroup) (core : Nat) : State :=
  let gr := getGrid s x.grid
  let rec' := match gr with | some g => g.record | none => []
  let team := s.nextId
  let s := startTeam s { grid := x.grid, carried := x.items.foldl (fun acc it => joinAges acc it.carried) [], linear := 0, origin := 2, core := core, shape := itemShape s x.grid, prio := recPrio rec',
                         pc := x.target.toNat, arg := leAt rec' 8 8, s1 := x.target.toNat, seed := recSeed rec' }
  { s with groups := s.groups.map (fun g => if g.team = team then itemGroupOf x g else g) }

/-- ITEM_GROUP_PLACEMENT (16 R305, R394). -/
def evItemPlacement (core : Nat) (s : State) : Option State :=
  match nextWork s core with
  | some (.items d k) =>
    ((getDie s d).formed[k]?).map (fun x =>
      startItems (modDie s d (fun y => { y with formed := y.formed.eraseIdx k })) x core)
  | _ => none

/-! ### Ends -/

/-- A team's engine operations have completed, launches excepted, and its operations in the matrix engine (21 R355, R357). -/
def teamIdle (s : State) (t : Team) : Bool :=
  !s.ops.any (fun o => o.team == t.id && o.kind != .launch) && !(getCore s (teamCore s t)).matrix.any (·.team == t.id)

/-- A team's resources can be freed (21 R355): no live group, and nothing outstanding. -/
def teamOver (s : State) (t : Team) : Bool := t.live.isEmpty && !t.saved && teamIdle s t

/-- The points of a grid go with it, and those of a team with the team. -/
def dropGridPoints (s : State) (n : Nat) : State :=
  { s with sync := s.sync.filter (fun y => match y.point with
    | .start g => g != n
    | .finish g => g != n
    | .gang g _ => g != n
    | _ => true) }
def dropTeamPoints (s : State) (n : Nat) : State :=
  { s with sync := s.sync.filter (fun y => match y.point with
    | .number t _ _ => t != n
    | .phase t _ _ => t != n
    | .granule (.team t _) => t != n
    | _ => true) }

/-- TEAM_FREE (21 R355): its seal entries over team memory go, a task's entry becomes free, and the grid counts it. -/
def evTeamFree (n : Nat) (s : State) : Option State :=
  match getTeam s n with
  | none => none
  | some t =>
    if !teamOver s t then none
    else
      let ctx := gridCtx s t.grid
      let s := modCtx s ctx (fun c => { c with seals := (c.seals.filter (fun e => !(e.team == t.id && decide (e.start < 0x80000000)))) })
      let h := t.linear.toNat
      let s := if t.origin = 1 then
          { s with tasks := s.tasks.map (fun y =>
            if y.context = ctx ∧ handleOf y.gen y.die y.index = h then { y with inUse := false } else y) }
        else s
      let s := modGrid s t.grid (fun g => { g with retired := g.retired + 1 })
      some (dropTeamPoints { s with teams := (s.teams.filter (·.id != t.id)) } t.id)

/-- Nothing of a grid is left to run (16 R298). -/
def gridDone (s : State) (g : Grid) : Bool :=
  (g.ended || g.placed) && !g.tickets.any (fun t => decide (t.next < t.stop)) &&
  !s.teams.any (·.grid == g.id) &&
  !s.tasks.any (fun t => t.inUse && t.grid == g.id && t.released && !t.placed) &&
  !s.dies.any (fun d => d.queues.any (·.grid == g.id) || d.formed.any (·.grid == g.id)) &&
  !s.grids.any (fun c => c.parent.isSome && c.parentGrid == g.id)

/-- The statistics records that a grid writes: address and the six counts (04 R82, R83). -/
def statRecords (g : Grid) : List (Nat × List Nat) :=
  let base := recStats g.record
  let ids := sortNats (g.counts.map (fun c => c.1 / 6))
  if base = 0 then []
  else ids.map (fun n => (base + 64 * n, (List.range 6).map (fun k =>
    match g.counts.find? (fun c => c.1 == 6 * n + k) with | some c => c.2 | none => 0)))

/-- Where a retirement write of `n` bytes goes: the physical address of each byte; the page it waits for; or nowhere, an
uncorrectable error there included: it writes less than a whole part (21 R361). -/
def retireAt (s : State) (g : Grid) (a n : Nat) : EStop ⊕ List Nat :=
  (List.range n).foldl (fun acc i =>
    eb acc (fun l =>
      match mainAcc s g.context (a + i) .write with
      | .ok p => if physBad s true p 1 then .inl (.flt 0x50) else .inr (l ++ [p])
      | .flt c => .inl (.flt c)
      | .park p => if g.failedPages.contains p then .inl (.flt 0x14) else .inl (.park p (a / 64)))) (.inr [])

/-- Where the completion word goes (16 R290, R299). -/
def doneAt (s : State) (g : Grid) : EStop ⊕ List Nat :=
  if recDone g.record % 16 ≠ 0 then .inl (.flt 0x12) else retireAt s g (recDone g.record) 16

/-- The first page that a grid's retirement must wait for. -/
def retirePage (s : State) (g : Grid) : Option Nat :=
  let page (r : EStop ⊕ List Nat) : Option Nat := match r with | .inl (.park p _) => some p | _ => none
  match firstSome (fun r => page (retireAt s g r.1 48)) (statRecords g) with
  | some p => some p
  | none => page (doneAt s g)

/-- The bytes at a list of physical addresses, as a value, and a value written there. -/
def peekAt (m : Memory) (l : List Nat) : Nat := leNat (l.map (cellGet m))
def pokeAt (m : Memory) (l : List Nat) (x : Nat) : Memory := cellSetAll m ((l.zip (leBytes l.length x)))

/-- Add one record's counts, each saturating at 2^64 − 1 (04 R83); a count of zero is not written. -/
def addRecord (m : Memory) (l : List Nat) (counts : List Nat) : Memory :=
  (counts.zipIdx).foldl (fun m c =>
    let at_ := (l.drop (8 * c.2)).take 8
    if c.1 = 0 then m else pokeAt m at_ (min (peekAt m at_ + c.1) (2 ^ 64 - 1))) m

/-- The completion word (16 R299). -/
def doneWord (g : Grid) (statFailed : Bool) : Nat :=
  g.retired % 2 ^ 64 * 2 ^ 64 + g.discarded % 2 ^ 32 * 2 ^ 32 + (if statFailed then 2 ^ 16 else 0) +
  g.cause.toNat * 2 ^ 8 + g.status.toNat

/-- Log a lost completion word (16 R300, 25 R371). -/
def logLost (s : State) (g : Grid) : State :=
  match getCtx s g.context with
  | none => s
  | some c =>
    let at_ := c.save + 0x4040
    let n := bytesGet s.mem at_ 4
    let s := physSet s (at_ + 8 + 16 * (n % 64)) 16 (g.queue % 2 ^ 16 + g.ring % 2 ^ 32 * 2 ^ 32 + g.id % 2 ^ 64 * 2 ^ 64)
    signal (physSet s at_ 8 ((n + 1) % 2 ^ 32)) 3

/-- Count the line accesses of a write (04 R73). -/
def countLines (s : State) (l : List Nat) : State := l.foldl bumpAccess s

/-- The retirement writes of a grid's statistics: the state, and whether some record was not written (16 R300). -/
def writeStats (s : State) (g : Grid) : State × Bool :=
  (statRecords g).foldl (fun (acc : State × Bool) x =>
    match retireAt acc.1 g x.1 48 with
    | .inr l => ({ countLines acc.1 l with mem := addRecord acc.1.mem l x.2 }, acc.2)
    | .inl (.flt c) => (signalBad acc.1 (BitVec.ofNat 8 c), true)
    | .inl _ => (acc.1, true)) (s, false)

/-- The release of a completion word: toward H and K, of every write that the grid's groups made or acquired (16 R299). -/
def doneRelease (s : State) (grid : Nat) : Release :=
  { group := 0, team := 0, mask := 0b100010, arms := [], age := 0, acquired := released s (.finish grid) }

/-- Its completion word, or the entry for a lost one. -/
def writeDone (s : State) (g : Grid) (failed : Bool) : State :=
  match doneAt s g with
  | .inr l => locStore (countLines s l) { deviceWriter with releases := [doneRelease s g.id] } (.phys (l.headD 0)) 16 (doneWord g failed)
  | .inl (.flt c) => logLost (signalBad s (BitVec.ofNat 8 c)) g
  | .inl _ => logLost s g

/-- What a grid has released at its end goes to its queue, for a serial grid, and to the number of its launch (16 R293, R303). -/
def passOn (s : State) (g : Grid) : State :=
  let ages := released s (.finish g.id)
  let s := (s.queues.filter (·.lastGrid == some g.id)).foldl (fun s q => replaceAt s (.queue q.q) ages) s
  match g.parent with
  | some p => releaseAt s (.number p.1 p.2.1 p.2.2.toNat) ages
  | none => s

/-- The last acts of a grid: statistics, the completion word, its parent's number, its queue (DESIGN CHOICE, log 35). -/
def retireGrid (s : State) (g : Grid) : State :=
  let r := writeStats s g
  let s := dropGridPoints (passOn (writeDone r.1 g r.2) g) g.id
  let s := match s.ops.find? (fun o => o.kind == .launch && o.child == g.id) with
    | some op => endOp s op (if g.status = 0 then none else some (na64, 0x41 + g.status))
    | none => s
  { s with queues := s.queues.map (fun q => if q.lastGrid = some g.id then { q with lastGrid := none } else q)
           grids := (s.grids.filter (·.id != g.id)) }

/-- GRID_RETIREMENT (16 R298 to R300): a write that reaches a page that is not resident waits for the host's answer (DESIGN CHOICE, log 34). -/
def evRetirement (n : Nat) (s : State) : Option State :=
  match getGrid s n with
  | none => none
  | some g =>
    if g.parked.isSome || !gridDone s g then none
    else
      match retirePage s g with
      | some p =>
        if (getDie s 0).buffered < 4096 then
          some (postPage (takeEntries (setGrid s { g with parked := some p }) 0 1) g.context p)
        else none
      | none =>
        let s := dropTasks s n
        (getGrid s n).map (retireGrid s)

/-- LAUNCH_RECORD_DISPATCH (16 R293). -/
def execLaunchRecordDispatch (queue : Nat) (s : State) :
    Host.Outcome State Fault Refusal := happen s (evDispatch queue s)

/-- TEAM_PLACEMENT (16 R295). -/
def execTeamPlacement (core : Nat) (s : State) :
    Host.Outcome State Fault Refusal := happen s (evTeamPlacement core s)

/-- GANG_PLACEMENT (16 R296, R297). -/
def execGangPlacement (grid : Nat) (s : State) :
    Host.Outcome State Fault Refusal := happen s (evGangPlacement grid s)

/-- GANG_LAUNCH_COMMIT (16 R297). -/
def execGangLaunchCommit (grid : Nat) (s : State) :
    Host.Outcome State Fault Refusal := happen s (evGangCommit grid s)

/-- GANG_LAUNCH_ABORT (16 R297). -/
def execGangLaunchAbort (grid : Nat) (s : State) :
    Host.Outcome State Fault Refusal := happen s (evGangAbort grid s)

/-- TASK_PLACEMENT (16 R309). -/
def execTaskPlacement (core : Nat) (s : State) :
    Host.Outcome State Fault Refusal := happen s (evTaskPlacement core s)

/-- ITEM_GROUP_FORM (16 R305). -/
def execItemGroupForm (die queue : Nat) (s : State) :
    Host.Outcome State Fault Refusal := happen s (evItemForm die queue s)

/-- ITEM_WAIT_EXPIRY (16 R305). -/
def execItemWaitExpiry (die queue : Nat) (s : State) :
    Host.Outcome State Fault Refusal := happen s (evItemExpiry die queue s)

/-- ITEM_GROUP_PLACEMENT (16 R305). -/
def execItemGroupPlacement (core : Nat) (s : State) :
    Host.Outcome State Fault Refusal := happen s (evItemPlacement core s)

/-- TEAM_FREE (21 R355). -/
def execTeamFree (team : Nat) (s : State) :
    Host.Outcome State Fault Refusal := happen s (evTeamFree team s)

/-- GRID_RETIREMENT (16 R298). -/
def execGridRetirement (grid : Nat) (s : State) :
    Host.Outcome State Fault Refusal := happen s (evRetirement grid s)

end Sys2Proof.Machine
end

