-- ==== Sys2Proof/Machine/Chrysalis.lean ====
section
/-! DEFINITION. Chrysalis images (21 R357 to R360): draining a team, the image's sections (R358, R359), saving and resuming.
What an image does not hold of its groups the model keeps beside it (DESIGN CHOICE, log 14); where sections stand is DESIGN CHOICE, log 31. -/

namespace Sys2Proof.Machine

/-! ### Sections (21 R359) -/

/-- A section: its size and its bytes. -/
structure Section where
  size : Nat
  cells : Cells 8

/-- A section's bytes from a place on. -/
def Section.at_ (b : Section) (o : Nat) : Cells 8 := (cellFilter (fun k => decide (k < b.size)) b.cells).map (fun e => (o + e.1, e.2))

/-- Sections one after the other. -/
def Section.join (l : List Section) : Section :=
  l.foldl (fun a b => { size := a.size + b.size, cells := a.cells ++ b.at_ a.size }) ⟨0, []⟩

/-- A section of fields: offset, bytes, value. -/
def fieldSection (size : Nat) (l : List (Nat × Nat × Nat)) : Section := { size := size, cells := fieldCells l }

/-- `n` values of `b` bytes each. -/
def tableSection (n b : Nat) (f : Nat → Nat) : Section :=
  fieldSection (n * b) ((List.range n).map (fun i => (b * i, b, f i)))

/-- Bits packed from bit 0, `n` of them. -/
def bitSection (n : Nat) (m : Cells 1) : Section :=
  tableSection ((n + 7) / 8) 1 (fun j =>
    (List.range 8).foldl (fun k i => k + (cellGet m (8 * j + i)).toNat * 2 ^ i) 0)

/-- A window of bytes with its full/empty bits. -/
def windowSection (size : Nat) (m : Cells 8) (fe : Cells 1) : Section :=
  Section.join [⟨size, cellFilter (fun k => decide (k < size)) m⟩, bitSection (size / 16) fe]

def timelineSection (t : Timeline) : Section :=
  fieldSection 40 (
    [(0, 8, t.issued.toNat), (8, 8, t.completed.toNat)] ++
    (match t.failure with
     | some f => [(16, 8, f.number.toNat), (24, 8, f.elem.toNat), (32, 4, t.limit.toNat), (36, 1, f.cause.toNat)]
     | none => [(32, 4, t.limit.toNat)]))

def launchSection (s : State) (team : Nat) : Section :=
  let l := s.ops.filter (fun o => o.team == team && o.kind == .launch)
  Section.join (fieldSection 8 [(0, 4, l.length)] ::
    l.map (fun o => fieldSection 16 [(0, 8, o.number.toNat), (8, 8, o.child)]))

def barrierSection (b : Barrier) : Section :=
  fieldSection 16 [(0, 4, b.phase.toNat), (4, 4, b.arrivals), (8, 4, b.expected)]

def nameSection (n : SlotName) : Section :=
  Section.join [fieldSection 64 [(0, 1, n.name), (1, 1, n.type.toNat), (2, 1, n.layout.toNat), (3, 1, if n.form then 1 else 0)],
    ⟨64, n.sidecar⟩, ⟨16384, n.store⟩]

def tileSection (t : Tile) : Section :=
  Section.join [fieldSection 8 [(0, 1, t.kind.toNat)],
    ⟨131072, fieldCells (t.vals.map (fun e => (8 * e.1, 8, e.2.toNat)))⟩]

def sealSection (e : Seal) : Section :=
  fieldSection 16 [(0, 2, 1), (2, 2, e.refs), (4, 4, e.team), (8, 4, e.size), (12, 4, e.start)]

/-- A recipe-table entry (08 R159). -/
def recipeBits (g : Group) (r : Recipe) : Nat :=
  let word (k : Nat) : Nat := (r.words.getD k 0).toNat
  r.em.toNat * 2 ^ 192 + r.mode.toNat * 2 ^ 167 + r.target * 2 ^ 152 + g.residency * 2 ^ 142 + (r.words.length - 1) * 2 ^ 140 +
  (if r.depth then 2 ^ 138 else 0) + (if isDropped g r.target then 2 ^ 137 else 0) + 2 ^ 136 + r.index % 256 * 2 ^ 128 +
  word 3 * 2 ^ 96 + word 2 * 2 ^ 64 + word 1 * 2 ^ 32 + word 0

/-- The units that a group holds, ascending. -/
def heldUnits (g : Group) : List Nat := (List.range 4).filter (fun k => g.held.getLsbD k)

/-- The frame of a group in its image: with the fault that arose while it was drained, or none. -/
def imageFrame (g : Group) : Cells 8 :=
  let none' : FaultInfo := { cause := 0, data := 0 }
  match g.pending with
  | some f =>
    let es := markFaulting g.rq
    let fi := (es.findIdx? (·.faulting)).getD 0xFF
    frameCells g es f fi (match es[fi]? with | some e => e.addr | none => g.pc) g.pc
  | none => frameCells g g.rq none' 0xFF 0 g.pc

def groupSection (s : State) (g : Group) : Section :=
  let lo (x : BitVec 128) : Nat := x.toNat % 2 ^ 64
  let hi (x : BitVec 128) : Nat := x.toNat / 2 ^ 64
  let regs (first n : Nat) : Section :=
    tableSection (g.width * n) 4 (fun i => vGet g (first + i % n) (i / n))
  Section.join ([
    fieldSection 64 [(0, 1, g.index), (1, 1, if g.handler then 1 else 0), (2, 1, g.held.toNat), (3, 1, g.recipes.length % 256),
      (8, 8, lo g.tagged), (16, 8, lo g.dropped), (24, 8, hi g.tagged), (32, 8, hi g.dropped), (40, 4, g.sibling.toNat)],
    ⟨0xA000, imageFrame g⟩,
    tableSection 56 8 (sGet g),
    tableSection 16 64 (fun i => (cellGet g.h i).toNat),
    regs 0 64] ++
    (heldUnits g).map (fun k => regs (64 + 32 * k) 32) ++
    [tableSection g.width 4 (rngOf g),
     Section.join (g.recipes.map (fun r => fieldSection 32 [(0, 32, recipeBits g r)])),
     windowSection g.quota (spillOf s g) (spillFeOf s g)])

/-- The groups of a team, in index order. -/
def groupsInOrder (s : State) (team : Nat) : List Group :=
  (List.range 16).filterMap (fun k => s.groups.find? (fun g => g.team == team && g.index == k))

/-- Round up to 16. -/
def up16 (n : Nat) : Nat := (n + 15) / 16 * 16

/-- The image of a team with its digest field zero: its size and bytes. -/
def imageBody (s : State) (t : Team) : Section :=
  let gs := groupsInOrder s t.id
  let gr := getGrid s t.grid
  let ctx := gridCtx s t.grid
  let seals : List Seal := match getCtx s ctx with
    | some c => c.seals.filter (fun (e : Seal) => e.team == t.id && decide (e.start < 0x80000000))
    | none => []
  let parts : List Section := [
    Section.join (t.tl.map timelineSection), launchSection s t.id, Section.join (t.barriers.map barrierSection),
    windowSection t.memSize t.mem t.memFe, Section.join (t.slots.map nameSection), Section.join (t.accs.map tileSection),
    Section.join (seals.map sealSection), Section.join (gs.map (groupSection s))]
  let placed := parts.foldl (fun (acc : Nat × List (Nat × Nat) × Cells 8) p =>
    (up16 (acc.1 + p.size), acc.2.1 ++ [(acc.1, p.size)], acc.2.2 ++ p.at_ acc.1)) (256, [], [])
  let header := fieldCells (
    [(0, 2, 1), (2, 2, gs.length), (4, 1, widthCode t.width), (5, 1, t.tiles),
     (6, 1, (match gr with | some g => if recGang g.record then 1 else 0 | none => 0) + (if gs.any (·.handler) then 2 else 0)),
     (7, 1, t.slots.length), (8, 4, placed.1), (12, 4, t.memSize), (0x10, 8, t.grid), (0x18, 4, t.linear.toNat),
     (0x1C, 1, t.origin), (0x1D, 1, match gr with | some g => g.depth | none => 0), (0x1E, 1, t.prio), (0x20, 4, t.quota)] ++
    ((placed.2.1.zipIdx).map (fun x => [(0x60 + 8 * x.2, 4, x.1.1), (0x64 + 8 * x.2, 4, x.1.2)])).flatten)
  { size := placed.1, cells := header ++ placed.2.2 }

/-- The digest of an image of `n` bytes at a physical address, its digest field read as zero. -/
def imageDigest (m : Memory) (at_ n : Nat) : List Byte :=
  shake256 ((List.range n).map (fun i => if 0x40 ≤ i ∧ i < 0x60 then 0 else cellGet m (at_ + i)))

/-- Where the next image of a context goes: past those that it still holds. -/
def imagePlace (s : State) (ctx : Nat) : Nat :=
  match getCtx s ctx with
  | none => 0
  | some c => (s.teams.filter (fun t => t.saved && gridCtx s t.grid == ctx)).foldl
      (fun a t => max a (up16 (t.imageAt + t.imageLen))) (c.save + 0x5000)

/-! ### Draining (21 R357) -/

/-- Stop a group: a waiting or parked word stays in its queue, its buffer entries return; answered operations are
answered. -/
def stopGroup (s : State) (g : Group) : State :=
  let s := dropBuffer s g
  setGroup s { g with
    stopped := true
    slot := none
    wait := g.wait.filter (fun w => match w with | .sparse .. => true | .luna .. => true | _ => false) }

/-- Stop a team for draining. -/
def drainTeam (s : State) (n : Nat) : State :=
  let (k, s) := fresh s
  let s := (s.groups.filter (·.team == n)).foldl (fun s g => match getGroup s g.id with | some g => stopGroup s g | none => s) s
  modTeam s n (fun t => { t with draining := true, drainOrder := k })

/-- A drained team can be saved: its words, its replays that hold a frame (08 R167) and its engine operations have finished, launches
excepted. -/
def settled (s : State) (t : Team) : Bool :=
  t.draining && !t.saved && !t.live.isEmpty &&
  (s.groups.filter (·.team == t.id)).all (fun g => g.wait.isNone && g.unfinished.isEmpty && !(g.replaying && g.pending.isNone)) &&
  teamIdle s t

/-- CHRYSALIS_SAVE (21 R357): the image is written, and the team's resources are freed. -/
def evSave (n : Nat) (s : State) : Option State :=
  match getTeam s n with
  | none => none
  | some t =>
    if !settled s t then none
    else
      let a := imagePlace s (gridCtx s t.grid)
      let b := imageBody s t
      let core := teamCore s t
      let gs := groupsInOrder s n
      let s := physFill s a b.size b.cells
      let s := physPut s (a + 0x40) (imageDigest s.mem a b.size)
      let s := setTeam { s with groups := (s.groups.filter (·.team != n)) } { t with
        saved := true, imageAt := a, imageLen := b.size, savedGroups := gs, mem := [], memFe := [] }
      some { returnFrame s core with mailbox := { s.mailbox with images := s.mailbox.images + 1 } }

/-! ### Resuming (21 R360) -/

/-- Values of `b` bytes read back. -/
def readTable (m : Memory) (at_ n b : Nat) (w : Nat) : Cells w := cellsOf w n (fun i => bytesGet m (at_ + b * i) b)

/-- Packed bits read back. -/
def readBits (m : Memory) (at_ n : Nat) : Cells 1 :=
  cellsOf 1 n (fun i => bytesGet m (at_ + i / 8) 1 / 2 ^ (i % 8))

/-- Registers of a block read back: lane by lane. -/
def readRegs (m : Memory) (at_ width first n : Nat) (v : Cells 32) : Cells 32 :=
  (List.range n).foldl (fun v r =>
    cellSetAll v ((List.range width).map (fun i =>
      ((first + r) * 64 + i, BitVec.ofNat 32 (bytesGet m (at_ + 4 * (i * n + r)) 4))))) v

/-- A recipe read back; the seal entries that it loads from are kept beside the image. -/
def readRecipe (m : Memory) (at_ : Nat) (seals : List Nat) : Recipe :=
  let x := bytesGet m at_ 32
  let n := x / 2 ^ 140 % 4 + 1
  { index := x / 2 ^ 128 % 256
    words := (List.range n).map (fun k => BitVec.ofNat 32 (x / 2 ^ (32 * k)))
    mode := BitVec.ofNat 25 (x / 2 ^ 167)
    em := BitVec.ofNat 64 (x / 2 ^ 192)
    target := x / 2 ^ 152 % 256
    depth := x / 2 ^ 138 % 2 = 1
    seals := seals }

/-- A group read back from its section at a physical address: the group, and where its window's bytes stand. `g` is what the
image does not hold of it. -/
def readGroup (m : Memory) (at_ : Nat) (g : Group) : Group × Nat :=
  let head (o n : Nat) : Nat := bytesGet m (at_ + o) n
  let frame : Cells 8 := cellSlice m (at_ + 64) 0xA000 0
  let base : Group := { g with
    trapEmpty := emptyBits { g with latch := frameLatches g.rq g.latch }
    trapUsed := BitVec.ofNat 8 (latchByte (frameLatches g.rq g.latch))
    trapParts := g.rq
    trapArms := g.arms
    trapWords := g.runWords }
  let r := restoreFrame base frame (head 1 1 == 1)
  let aS := at_ + 64 + 0xA000
  let aH := aS + 56 * 8
  let aV := aH + 16 * 64
  let held : BitVec 4 := BitVec.ofNat 4 (head 2 1)
  let r := { r with held := held }
  let v := readRegs m aV g.width 0 64 []
  let units := (heldUnits r).foldl (fun (acc : Cells 32 × Nat) k =>
    (readRegs m acc.2 g.width (64 + 32 * k) 32 acc.1, acc.2 + g.width * 128)) (v, aV + g.width * 256)
  let aR := units.2
  let aP := aR + g.width * 4
  let n := head 3 1
  let aW := aP + 32 * n
  ({ r with
     v := units.1
     s := readTable m aS 56 8 64
     h := readTable m aH 16 64 512
     rng := readTable m aR g.width 4 32
     tagged := BitVec.ofNat 128 (head 8 8 + 2 ^ 64 * head 24 8)
     dropped := BitVec.ofNat 128 (head 16 8 + 2 ^ 64 * head 32 8)
     sibling := BitVec.ofNat 32 (head 40 4)
     recipes := (List.range n).map (fun k => readRecipe m (aP + 32 * k) (match g.recipes[k]? with | some x => x.seals | none => []))
     trapEmpty := g.trapEmpty, trapUsed := g.trapUsed, trapParts := g.trapParts, trapArms := g.trapArms, trapWords := g.trapWords
     detached := g.detached
     pending := if bytesGet frame 0 1 = 0 then none else g.pending
     stopped := false, slot := none, granted := false, aged := false },
   aW)

/-- A section's physical address and size. -/
def sectionAt (m : Memory) (at_ k : Nat) : Nat × Nat :=
  (at_ + bytesGet m (at_ + 0x60 + 8 * k) 4, bytesGet m (at_ + 0x64 + 8 * k) 4)

/-- A team read back from its image. Its timelines go on while it is saved, since its launches do. -/
def readTeam (m : Memory) (t : Team) (core : Nat) : Team :=
  let a := t.imageAt
  let bars := (sectionAt m a 2).1
  let mem := (sectionAt m a 3).1
  let names := (sectionAt m a 4).1
  let tiles := (sectionAt m a 5).1
  { t with
    core := core
    barriers := t.barriers.zipIdx.map (fun b => { b.1 with
      phase := BitVec.ofNat 32 (bytesGet m (bars + 16 * b.2) 4)
      arrivals := bytesGet m (bars + 16 * b.2 + 4) 4
      expected := bytesGet m (bars + 16 * b.2 + 8) 4 })
    mem := cellSlice m mem t.memSize 0
    memFe := readBits m (mem + t.memSize) (t.memSize / 16)
    slots := (List.range (bytesGet m (a + 7) 1)).map (fun k =>
      let o := names + 16512 * k
      { name := bytesGet m o 1, type := BitVec.ofNat 8 (bytesGet m (o + 1) 1), layout := BitVec.ofNat 2 (bytesGet m (o + 2) 1)
        form := bytesGet m (o + 3) 1 == 1, sidecar := cellSlice m (o + 64) 64 0, store := cellSlice m (o + 128) 16384 0 })
    accs := (List.range (bytesGet m (a + 5) 1)).map (fun k =>
      let o := tiles + 131080 * k
      { kind := BitVec.ofNat 8 (bytesGet m o 1), vals := readTable m (o + 8) 16384 8 56 })
    saved := false, draining := false, savedGroups := [], imageAt := 0, imageLen := 0 }

/-- The groups of a saved team, read back one after the other, each with the place of its window's bytes in the image. -/
def readGroups (m : Memory) (t : Team) : List (Group × Nat) :=
  (t.savedGroups.foldl (fun (acc : List (Group × Nat) × Nat) g =>
    let r := readGroup m acc.2 g
    (acc.1 ++ [r], r.2 + g.quota + (g.quota / 16 + 7) / 8)) ([], (sectionAt m t.imageAt 7).1)).1

/-- Give a group a residency slot of a core and a window in the pool, with the window's bytes and bits from the image at
`src`. -/
def seatGroup (core : Nat) (hold : Bool) (s : State) (x : (Group × Nat) × Nat) : State :=
  let g := { x.1.1 with residency := (freeSlot s core).getD 0, spillAt := x.2, stopped := hold }
  let bytes := cellSlice s.mem x.1.2 g.quota 0
  let bits := (readBits s.mem (x.1.2 + g.quota) (g.quota / 16)).map (fun e => (g.spillAt / 16 + e.1, e.2))
  let s := physFill (clearPad s g.spillAt g.quota) g.spillAt g.quota bytes
  settle { s with fe := cellSetAll (cellClear s.fe (g.spillAt / 16) (g.quota / 16)) bits, groups := s.groups ++ [g] }
    (fun p => decide (g.spillAt ≤ p) && decide (p < g.spillAt + g.quota))

/-- An image's digest is right. -/
def imageOk (m : Memory) (t : Team) : Bool := bytesList m (t.imageAt + 0x40) 32 == imageDigest m t.imageAt t.imageLen

/-- A saved team goes on, on a core. -/
def resumeTeam (s : State) (t : Team) (core : Nat) : State :=
  let ctx := gridCtx s t.grid
  let virt := virtCore s ctx core
  let spills := (placeSpills s ctx (dieOf virt) t.quota t.savedGroups.length).getD []
  let gs := readGroups s.mem t
  let hold := (getGrid s t.grid).any (·.reserved)
  ((gs.zipIdx).map (fun x => (x.1, spills.getD x.2 0))).foldl (seatGroup core hold) (setTeam s (readTeam s.mem t virt))

/-- TEAM_RESUME (21 R360, 16 R394): the drained teams that a core has room for resume in the order in which they were
drained. -/
def evResume (n core : Nat) (s : State) : Option State :=
  match getTeam s n with
  | none => none
  | some t =>
    let first := s.teams.all (fun u => !resumable s u core || decide (t.drainOrder ≤ u.drainOrder))
    if core < 512 ∧ resumable s t core ∧ first ∧ imageOk s.mem t then some (resumeTeam s t core) else none

/-- CHRYSALIS_SAVE (21 R357). -/
def execChrysalisSave (team : Nat) (s : State) :
    Host.Outcome State Fault Refusal := happen s (evSave team s)

/-- TEAM_RESUME (21 R360). -/
def execTeamResume (team core : Nat) (s : State) :
    Host.Outcome State Fault Refusal := happen s (evResume team core s)

end Sys2Proof.Machine
end

