-- ==== Sys2Proof/Machine/Host.lean ====
section
/-! DEFINITION. The host's commands and accesses (25 R367 to R371, R376 to R380), reset and boot (25 R370, R378). The
addresses of commands are device physical addresses (DEDUCED, log 29). -/

namespace Sys2Proof.Machine

/-! ### The mailbox (25 R370) -/

/-- A command that the mailbox holds and that the device may take up. -/
def taken (s : State) (code : Nat) : Bool := s.mailbox.go && s.mailbox.code.toNat == code && s.device != 0

/-- A command completes with a status and a result. -/
def complete (s : State) (status result : Nat) : State :=
  { s with mailbox := { s.mailbox with
      status := BitVec.ofNat 32 status, result := BitVec.ofNat 64 result, go := false, begun := false, images := 0 } }

/-- A command with a check: status 1 and no effect where it fails. -/
def command (s : State) (code : Nat) (ok : Bool) (f : State → State) : Option State :=
  if !taken s code then none
  else if ok then some (complete (f s) 0 0) else some (complete s 1 0)

def cmd0 (s : State) : Nat := s.mailbox.op0.toNat
def cmd1 (s : State) : Nat := s.mailbox.op1.toNat
def cmd2 (s : State) : Nat := s.mailbox.op2.toNat
def cmd3 (s : State) : Nat := s.mailbox.op3.toNat
def opCtx (s : State) : Nat := s.mailbox.context.toNat
def hasCtx (s : State) : Bool := (getCtx s (opCtx s)).isSome

/-- A write of go: busy while booting or while a command is held; invalid for a code that the state or the table does not
allow; else the device takes the command up. -/
def writeGo (s : State) : State :=
  let m := s.mailbox
  if s.device = 0 then { s with mailbox := { m with status := 3 } }
  else if m.go then { s with mailbox := { m with status := 3 } }
  else if m.code.toNat = 0 ∨ 0x0F < m.code.toNat ∨ (s.device = 2 ∧ m.code ≠ 0x0E) then
    { s with mailbox := { m with status := 1, result := 0 } }
  else { s with mailbox := { m with go := true, begun := false, images := 0 } }

/-- The mailbox's fields after a write of the 8-byte register at an offset of it; the device's own fields keep their values. -/
def mailboxWrite (offset : Nat) (value : DWord) (s : State) : State :=
  let m := s.mailbox
  let put (m : Mailbox) : State := if s.device = 0 then s else { s with mailbox := m }
  match offset with
  | 0x00 => put { m with code := value.setWidth 8, context := value.extractLsb' 16 16 }
  | 0x08 => put { m with op0 := value }
  | 0x10 => put { m with op1 := value }
  | 0x18 => put { m with op2 := value }
  | 0x20 => put { m with op3 := value }
  | 0x38 => if value.extractLsb' 32 32 = 1 then writeGo s else s
  | 0x3C => if value.setWidth 32 = (1 : BitVec 32) then writeGo s else s
  | _ => s

/-! ### Contexts -/

/-- Bytes wholly within backed HBM or second tier. -/
def tierBytes (a n : Nat) : Bool := (backedTier a n).isSome

/-- Bytes wholly within the backed scratchpad of one die (25 R368): the die. -/
def padDie (a n : Nat) : Option Nat :=
  let o := a - 0x80000000000
  if 0x80000000000 ≤ a ∧ o / 2 ^ 30 < 4 ∧ o % 2 ^ 30 + n ≤ 304 * 2 ^ 20 then some (o / 2 ^ 30) else none

/-- Bytes of device memory: HBM, second tier or scratchpad (16 R293, 25 R368). -/
def deviceBytes (a n : Nat) : Bool := tierBytes a n || (padDie a n).isSome

/-- The ranges of scratchpad that contexts hold. -/
def padRanges (s : State) : List (Nat × Nat) :=
  (s.contexts.map (fun c => c.scratch.map (fun a => (a, c.scratchSize)) ++ c.pool.map (fun a => (a, c.poolSize)))).flatten

/-- A placement that the device may choose (DESIGN CHOICE, log 9): on each die one allocation and one pool, aligned to 64 bytes, apart from
each other and from what other contexts hold. -/
def placementOk (s : State) (scratch pool : List Nat) (size psize : Nat) : Bool :=
  let new := scratch.map (fun a => (a, size)) ++ pool.map (fun a => (a, psize))
  decide (scratch.length = 4) && decide (pool.length = 4) &&
  (List.range 4).all (fun k =>
    let a := scratch.getD k 0
    let b := pool.getD k 0
    a % 64 == 0 && b % 64 == 0 && (padDie a size).isSome && padDie a size == padDie b psize && disjoint a size b psize &&
    (List.range 4).all (fun j => j == k || padDie (scratch.getD j 0) size != padDie a size)) &&
  new.all (fun x => (padRanges s).all (fun y => disjoint x.1 x.2 y.1 y.2))

/-- Every table below a table of a level (4 to 1) lies wholly within backed bytes of HBM or the second tier (25 R368). -/
def tablesOk (m : Memory) : Nat → Nat → Bool
  | 0, _ => true
  | l + 1, tbl =>
    (List.range 512).all (fun k =>
      let e := bytesGet m (tbl + 8 * k) 8
      let next := e / 2 ^ 8 % 2 ^ 44 * 2 ^ 8
      if e % 2 = 0 then true
      else if l = 0 then e / 2 ^ 7 % 2 == 0 || tierBytes next 256
      else tierBytes next 4096 && (!tableOk e false || tablesOk m l next))

/-- The operands of command 0x01 are in range (25 R368, R370). -/
def createOk (s : State) : Bool :=
  cmd0 s % 4096 == 0 && tierBytes (cmd0 s) 4096 && tablesOk s.mem 4 (cmd0 s) && tierBytes (cmd1 s) 0x5000 && tierBytes (cmd3 s) 0xA040 &&
  decide (cmd2 s % 2 ^ 32 ≤ 304 * 2 ^ 20) && decide (cmd2 s / 2 ^ 32 ≤ 304 * 2 ^ 20)

/-- CREATE_CONTEXT (25 R370, R371). The device chooses the number and the places; with no places to give, status 2. -/
def evCreate (num : Nat) (scratch pool : List Nat) (s : State) : Option State :=
  if !taken s 0x01 then none
  else if !createOk s then some (complete s 1 0)
  else if scratch.isEmpty && pool.isEmpty then some (complete s 2 0)
  else
    let size := cmd2 s % 2 ^ 32
    let psize := cmd2 s / 2 ^ 32
    if (getCtx s num).isSome || !placementOk s scratch pool size psize then none
    else
      let c : Context :=
        { num := num, root := s.mailbox.op0, save := cmd1 s, faultRec := cmd3 s, scratch := scratch, scratchSize := size,
          pool := pool, poolSize := psize, remap := (List.range 4).map (fun k => (padDie (scratch.getD k 0) size).getD k) }
      let s := { s with contexts := s.contexts ++ [c] }
      let s := (List.range 4).foldl (fun s k => clearPad (clearPad s (scratch.getD k 0) size) (pool.getD k 0) psize) s
      let s := (List.range 4).foldl (fun s k =>
        physSet s (c.save + 0x4000 + 16 * k) 16 (scratch.getD k 0 + pool.getD k 0 * 2 ^ 64)) s
      some (complete s 0 num)

/-- The grids of a context. -/
def ctxGrids (s : State) (c : Nat) : List Grid := s.grids.filter (·.context == c)

/-- Outstanding collectives and reforms of the teams of some grids, which end with them: aborted by the host (13 R269). -/
def hostDrops (s : State) (grids : List Nat) : State :=
  dropOps s (s.ops.filter (fun o =>
    (o.kind == .coll || o.kind == .reform) && (gridOfTeam s o.team).any grids.contains)) .host

/-- Kill a grid and its children with status 3 (25 R370). -/
def killGrids (s : State) (n : Nat) : State := hostDrops (endGrids s n 3 0) (descendants s 11 n)

/-- Kill every grid of a context with status 3. What they wait for fails, since no answer can come while the mailbox is held
(DEDUCED, log 28). -/
def killContext (s : State) (c : Nat) : State :=
  let ids := (ctxGrids s c).map (·.id)
  let s := hostDrops (ids.foldl (fun s n => endGrid s n 3 0) s) ids
  let pages := (s.ops.filter (·.context == c)).flatMap (·.pages) ++ (ctxGrids s c).filterMap (·.parked)
  pages.foldl (fun s p => answerPage s c p true) s

/-- Everything of a context goes. -/
def freeContext (s : State) (c : Nat) : State :=
  { s with
    contexts := (s.contexts.filter (·.num != c))
    queues := (s.queues.filter (·.context != c))
    tasks := (s.tasks.filter (·.context != c))
    migrations := (s.migrations.filter (·.context != c))
    oldEntries := (s.oldEntries.filter (·.1 != c))
    cores := s.cores.map (fun k => (k.1, { k.2 with takenFrom := (k.2.takenFrom.filter (·.1 != c)) }))
    dies := s.dies.map (fun d => { d with
      packets := (d.packets.filter (·.context != c)), routing := (d.routing.filter (·.context != c)),
      biasDesc := (d.biasDesc.filter (·.1 != c)) }) }

/-- DESTROY_CONTEXT (25 R370): its grids end with status 3; once they have retired, everything is freed. -/
def evDestroy (s : State) : Option State :=
  if !taken s 0x02 then none
  else
    let c := opCtx s
    if !hasCtx s then some (complete s 1 0)
    else if !s.mailbox.begun then
      some { killContext s c with mailbox := { s.mailbox with begun := true } }
    else if (ctxGrids s c).any (·.parked.isSome) || s.ops.any (fun o => o.context == c && o.stalled) then
      some (killContext s c)
    else if (ctxGrids s c).isEmpty && !s.ops.any (fun o => o.context == c) then some (complete (freeContext s c) 0 0)
    else none

/-- A table entry at an address is used to translate some address of [lo, hi) in a context, by its old values or its new one:
below a table of a level (4 to 1) whose range begins at `va`. -/
def entryUsed (s : State) (ctx lo hi a : Nat) : Nat → Nat → Nat → Bool
  | 0, _, _ => false
  | l + 1, tbl, va =>
    (List.range 512).any (fun k =>
      let at_ := tbl + 8 * k
      let b := va + k * 2 ^ (21 + 9 * l)
      decide (b < hi) && decide (lo < b + 2 ^ (21 + 9 * l)) &&
      (at_ == a || (bytesGet s.mem at_ 8 :: oldValues s ctx at_).any (fun e =>
        let next := e / 2 ^ 8 % 2 ^ 44 * 2 ^ 8
        if e % 2 = 0 then false
        else if l = 0 then
          tableOk e true && (List.range 32).any (fun j =>
            decide (b + 65536 * j < hi) && decide (lo < b + 65536 * (j + 1)) && next + 8 * j == a)
        else tableOk e false && entryUsed s ctx lo hi a l next b)))

/-- INVALIDATE (04 R70): the host's changes to the entries through which the range [op0, op0 + op1) is translated are in force
(DESIGN CHOICE, log 27). -/
def evInvalidate (s : State) : Option State :=
  let c := opCtx s
  let used (a : Nat) : Bool := match getCtx s c with | some x => entryUsed s c (cmd0 s) (cmd0 s + cmd1 s) a 4 x.root.toNat 0 | none => false
  command s 0x03 (hasCtx s) (fun t => { t with oldEntries := t.oldEntries.filter (fun o => !(o.1 == c && used o.2.1)) })

/-- PAGE_ANSWER (04 R71, 25 R371): the entry is cleared and its accesses go on or fail (DESIGN CHOICE, log 33). -/
def evPageAnswer (s : State) : Option State :=
  match (getCtx s (opCtx s)).bind (fun c => (requestAt s.mem c.save (cmd0 s)).map (fun p => (c, p))) with
  | some (c, p) =>
    command s 0x04 (decide (cmd0 s < 1024) && decide (cmd1 s ≤ 1)) (fun t =>
      answerPage (physSet t (c.save + 16 * cmd0 s) 16 0) c.num p (cmd1 s == 1))
  | none => command s 0x04 false id

/-! ### Pre-emption (21 R357, 25 R370) -/

/-- Teams of a context resident on a core. -/
def teamsOn (s : State) (ctx core : Nat) : List Team := (residents s core).filter (fun t => gridCtx s t.grid == ctx)

/-- The cores that a pre-emption takes, in the order of the choice: those with teams, fewest first, then those without; the
higher virtual identifier on a tie. -/
def chosenCores (s : State) (ctx n : Nat) : List Nat :=
  let all := ((List.range 512).reverse).map (physCore s ctx)
  let free := all.filter (fun c => !(getCore s c).takenFrom.any (·.1 == ctx))
  let held := free.filter (fun c => !(teamsOn s ctx c).isEmpty)
  let byCount := (List.range 8).flatMap (fun k => held.filter (fun c => decide ((teamsOn s ctx c).length = k + 1)))
  (byCount ++ free.filter (fun c => (teamsOn s ctx c).isEmpty)).take n

/-- Take a core from a context, and drain the context's teams on it. -/
def takeCore (ctx : Nat) (s : State) (core : Nat) : State :=
  let (k, s) := fresh s
  let s := modCore s core (fun c => { c with takenFrom := c.takenFrom ++ [(ctx, k)] })
  (teamsOn s ctx core).foldl (fun s t => drainTeam s t.id) s

/-- A parked operation of a draining team. -/
def parkedDraining (s : State) (ctx : Nat) (o : EngineOp) : Bool :=
  o.context == ctx && o.stalled && (getTeam s o.team).any (fun t => t.draining && !t.saved)

/-- Parked operations of draining teams fail: no answer can come while the mailbox is held (06 R132; DEDUCED, log 28). -/
def failParked (s : State) (ctx : Nat) : State :=
  { s with ops := s.ops.map (fun o =>
      if parkedDraining s ctx o then { o with parked := [], asks := none, failed := o.pages ++ o.failed } else o) }

/-- PRE_EMPT (21 R357): the cores are taken and their teams stopped; the command completes, with the number of images
written, once every stopped team is saved or over. -/
def evPreEmpt (s : State) : Option State :=
  if !taken s 0x05 then none
  else
    let c := opCtx s
    let left := ((List.range 512).filter (fun k => !(getCore s k).takenFrom.any (·.1 == c))).length
    if !s.mailbox.begun then
      if !hasCtx s || decide (left < cmd0 s) then some (complete s 1 0)
      else
        let s' := (chosenCores s c (cmd0 s)).foldl (takeCore c) s
        some { s' with mailbox := { s.mailbox with begun := true } }
    else
      let waiting := s.teams.filter (fun t => gridCtx s t.grid == c && t.draining && !t.saved)
      if waiting.isEmpty then some (complete s 0 s.mailbox.images)
      else if s.ops.any (parkedDraining s c) then some (failParked s c)
      else none

/-- The cores taken from a context, the latest first. -/
def takenCores (s : State) (ctx : Nat) : List Nat :=
  let l := (s.cores.map (fun k => (k.2.takenFrom.filter (·.1 == ctx)).map (fun x => (x.2, k.1)))).flatten
  ((sortNats (l.map (·.1))).reverse).filterMap (fun k => (l.find? (·.1 == k)).map (·.2))

/-- RETURN_CORES (25 R370). -/
def evReturn (s : State) : Option State :=
  let c := opCtx s
  let l := takenCores s c
  command s 0x06 (hasCtx s && decide (1 ≤ cmd0 s) && decide (cmd0 s ≤ l.length)) (fun s =>
    (l.take (cmd0 s)).foldl (fun s k =>
      modCore s k (fun x => { x with takenFrom := (x.takenFrom.filter (·.1 != c)) })) s)

/-! ### Peer sets, grids, queues -/

/-- DEFINE_PEER_SET (13 R266, 25 R370): the rank is this package's place in the list. What is outstanding on a set that is
defined anew is aborted by the host (13 R269; DEDUCED, log 68). -/
def evDefineSet (s : State) : Option State :=
  let a := cmd1 s
  let n := bytesGet s.mem a 4
  let ids := (List.range n).map (fun k => BitVec.ofNat 32 (bytesGet s.mem (a + 8 + 4 * k) 4))
  let us := cmd2 s / 2 ^ 32
  let rank := ids.idxOf? (Config.routeId (opCtx s))
  command s 0x07 (hasCtx s && decide (cmd0 s ≤ 63) && decide (1 ≤ n) && decide (n ≤ 4608) && deviceBytes a (8 + 4 * n) && bytesGet s.mem (a + 4) 4 == 0 &&
      (us == 0 || (decide (1000 ≤ us) && decide (us ≤ 4000000))) && rank.isSome) (fun t =>
    let p : PeerSet := { set := cmd0 s, rank := rank.getD 0, members := ids, trap := cmd2 s % 2 == 1,
                         timeout := if us = 0 then 500000 else us }
    modCtx (dropOps t (setOps t (opCtx s) (cmd0 s)) .host) (opCtx s) (fun c => { c with peers := (c.peers.filter (·.set != cmd0 s)) ++ [p] }))

/-- The grid that command 0x08 names: the latest from a queue and ring index. -/
def namedGrid (s : State) (q ring : Nat) : Option Grid :=
  (s.grids.filter (fun g => g.parent.isNone && g.queue == q && g.ring == ring)).getLast?

/-- KILL_GRID (21 R354, 25 R370). -/
def evKill (s : State) : Option State :=
  match namedGrid s (cmd0 s) (cmd1 s) with
  | some g => command s 0x08 true (fun s => killGrids s g.id)
  | none => command s 0x08 false id

/-- A measurement register extended by a component (25 R379). -/
def extendMeasure (m : List (List Byte)) (k : Nat) (component : List Byte) : List (List Byte) :=
  m.set k (shake256 (m.getD k [] ++ shake256 component))

/-- LOAD_ROUTING_PROGRAM (25 R379, R380). Its operand is the number of a physical die: the command is no context's, and the rule says
'die' alone (DESIGN CHOICE, log 71). -/
def evLoadProgram (s : State) : Option State :=
  let img := bytesList s.mem (cmd1 s) (cmd2 s)
  command s 0x09 (decide (cmd0 s < 4) && decide (cmd2 s ≤ 512 * 1024) && deviceBytes (cmd1 s) (cmd2 s)) (fun s =>
    { modDie s (cmd0 s) (fun d => { d with mem := bytesPut d.mem 0x80000 img, loaded := true }) with measures := extendMeasure s.measures 2 img })

/-- CONFIGURE_QUEUE (25 R369). -/
def evConfigure (s : State) : Option State :=
  let k := cmd2 s
  command s 0x0A (hasCtx s && decide (cmd0 s < 64) && decide (2 ≤ k) && decide (k ≤ 12) && cmd1 s % 64 == 0 &&
      deviceBytes (cmd1 s) (128 * 2 ^ (k % 16))) (fun s =>
    { s with queues := (s.queues.filter (·.q != cmd0 s)) ++ [{ q := cmd0 s, context := opCtx s, base := cmd1 s, k := k }] })

/-- EPOCH_LENGTH (25 R381). -/
def evEpochLength (s : State) : Option State :=
  command s 0x0B (decide (100 ≤ cmd0 s) && decide (cmd0 s ≤ 100000)) (fun s =>
    { s with epochLen := BitVec.ofNat 32 (cmd0 s) })

/-- RELEASE_SNAPSHOT (25 R376). -/
def evReleaseSnapshot (s : State) : Option State :=
  command s 0x0C true (fun s => { s with snapshot := { s.snapshot with held := false } })

/-- `ident` (25 R374). -/
def ident : Nat := 0x0940 * 2 ^ 48 + (if Config.isP then 2 ^ 32 else 0)

/-- The bytes that the identity key signs: the nonce, M0 to M3, `ident`, the identity key (25 R379). -/
def attestBytes (s : State) : List Byte :=
  bytesList s.mem (cmd0 s) 32 ++ s.measures.flatten ++ leBytes 8 ident ++ (List.range 64).map Config.identityKey

/-- A valid seal entry covers a physical byte of a context's scratchpad (08 R163). -/
def padSealed (s : State) (a : Nat) : Bool :=
  s.contexts.any (fun c => (c.scratch.zipIdx).any (fun b =>
    decide (b.1 ≤ a) && decide (a < b.1 + c.scratchSize) &&
    (let x := 0x80000000 + 0x20000000 * b.2 + (a - b.1)
     c.seals.any (fun e => decide (e.start ≤ x) && decide (x < e.start + e.size)))))

/-- A host write of one byte is dropped. -/
def writeDropped (s : State) (a : Nat) : Bool := !(decide (a < 2 ^ 52) && backedByte a) || padSealed s a

/-- The parts whose every byte is among those written have no error any more (21 R361). -/
def healWritten (l : List Nat) (bad : List Nat) : List Nat :=
  bad.filter (fun p => !(List.range (partSize p)).all (fun i => l.contains (p + i)))

/-- The table entries of contexts that a host write changes, with the values that translations may still use (04 R70). -/
def changedEntries (s t : State) (l : List Nat) : List (Nat × Nat × DWord) :=
  let words := (l.map (fun a => a / 8 * 8)).foldl (fun acc a => if acc.contains a then acc else acc ++ [a]) []
  s.contexts.flatMap (fun c => (words.filter (fun a =>
      bytesGet s.mem a 8 != bytesGet t.mem a 8 && entryUsed s c.num 0 (2 ^ 57) a 4 c.root.toNat 0)).map
    (fun a => (c.num, a, BitVec.ofNat 64 (bytesGet s.mem a 8))))

/-- Bytes written for the host, by physical address: those that are not backed, or sealed, are dropped, and the write is counted (25
R368, 08 R163). -/
def hostPut (s : State) (l : List (Nat × Byte)) : State :=
  let kept := l.filter (fun x => !writeDropped s x.1)
  let at_ := kept.map (·.1)
  let t := { s with mem := cellSetAll s.mem kept, bad := healWritten at_ s.bad }
  let t := settle { t with oldEntries := t.oldEntries ++ changedEntries s t at_ } at_.contains
  if kept.length < l.length then { t with telemetry := { s.telemetry with dropped := s.telemetry.dropped + 1 } } else t

/-- Bytes from a physical address on, each with its own. -/
def bytesAt (a : Nat) (l : List Byte) : List (Nat × Byte) := (l.zipIdx).map (fun x => (a + x.2, x.1))

/-- A list brought to `n` bytes. -/
def sized (n : Nat) (l : List Byte) : List Byte := (List.range n).map (fun i => l.getD i 0)

/-- ATTEST (25 R379). Sealed bytes are dropped from its output as from a host's write (08 R163; DEDUCED, log 29). -/
def evAttest (s : State) : Option State :=
  let l := attestBytes s
  let out := l ++ sized 29792 (Config.identitySign l) ++ (List.range 29792).map Config.vendorSignature
  command s 0x0D (deviceBytes (cmd0 s) 32 && deviceBytes (cmd1 s) out.length) (fun s => hostPut s (bytesAt (cmd1 s) out))

/-- SET_FULL_EMPTY (07 R139). -/
def evSetFe (s : State) : Option State :=
  let a := cmd0 s
  let n := cmd1 s
  let inside := match getCtx s (opCtx s) with
    | some c => c.scratch.any (fun b => decide (b ≤ a) && decide (a + n ≤ b + c.scratchSize))
    | none => false
  command s 0x0F (a % 16 == 0 && n % 16 == 0 && inside && decide (cmd2 s ≤ 1)) (fun s =>
    let fe := cellClear s.fe (a / 16) (n / 16)
    { s with
      fe := if cmd2 s = 1 then cellSetAll fe ((List.range (n / 16)).map (fun i => (a / 16 + i, 1))) else fe
      sync := s.sync.filter (fun y => !y.granuleIn a n) })

/-! ### Reset and boot (25 R370, R378, R379) -/

/-- DEVICE_RESET: the state at the end of PCI Express reset; the flash keeps its image. -/
def evReset (s : State) : Option State := some { State.reset with flash := s.flash }

/-- A controller image is accepted (25 R378): the digest of the key that it carries is the fused one, and its signature
verifies (DESIGN CHOICE, log 12). -/
def imageAccepted (img : List Byte) : Bool :=
  shake256 (Config.imageKey img) == Config.fusedDigest && Config.signatureOk (Config.imageKey img) (Config.imageSignature img) img

/-- IMAGE_VERIFIED: state 1 with M0 and M1 extended, or state 2. `ok` is what the check finds. -/
def evVerified (ok : Bool) (s : State) : Option State :=
  let img := s.flash.getD Config.controllerImage
  if s.device ≠ 0 ∨ ok ≠ imageAccepted img then none
  else if ok then
    some { s with device := 1, measures := extendMeasure (extendMeasure s.measures 0 img) 1 Config.admiralProgram }
  else some { s with device := 2 }

/-- RE_PROVISION (25 R378): a verified image is written to the flash and the device reboots. `ok` is what the check of the
image finds. -/
def evReProvision (ok : Bool) (s : State) : Option State :=
  let img := bytesList s.mem (cmd0 s) (cmd1 s)
  if !taken s 0x0E then none
  else if !deviceBytes (cmd0 s) (cmd1 s) then some (complete s 1 0)
  else if ok ≠ imageAccepted img then none
  else if ok then some { State.reset with flash := some img }
  else some (complete s 1 0)

/-! ### Doorbells, the aperture, snapshots -/

/-- DOORBELL (25 R369); a record carries what the host has acquired by then (DEDUCED, log 70). -/
def evDoorbell (q : Nat) (tail : BitVec 32) (s : State) : Option State :=
  if s.device = 0 then some s
  else
    match getQueue s q with
    | none => some s
    | some x =>
      let n := 2 ^ x.k
      let t := tail.toNat % n
      let grow := (t + n - x.tail % n) % n
      let out := (x.tail + n - x.head % n) % n
      some (if n ≤ out + grow then { s with telemetry := { s.telemetry with doorbells := s.telemetry.doorbells + 1 } }
        else
          -- the records rung are ordered after what the host has acquired (25 R369)
          (List.range grow).foldl (fun t k => replaceAt t (.rung q ((x.tail + k) % n)) (released s .host))
            (setQueue s { x with tail := t }))

/-- APERTURE_BASE_WRITE (25 R368): bits [63:52] and [15:0] are ignored. -/
def evAperture (value : DWord) (s : State) : Option State :=
  some (if s.device = 0 then s else { s with aperture := value &&& 0x000FFFFFFFFF0000 })

/-- SNAPSHOT_TRIGGER (25 R376). -/
def evTrigger (value : BitVec 32) (s : State) : Option State :=
  some (if s.device ≠ 0 ∧ value = 1 then pullTrigger s 2 0 none none else s)

/-! ### BAR0 (25 R366, R367, R370, R376, R377) -/

/-- The bytes of the snapshot block's header in use (25 R376). -/
def snapshotHeader (x : Snapshot) : List Byte :=
  pack [(0, 4), (if x.held then 1 else 0, 4), (x.source.toNat, 1), (x.event.toNat, 1), (x.context.toNat, 2), (x.core.toNat, 2),
    (x.group.toNat, 1), (0, 1), (x.team.toNat, 4), (x.missed.toNat, 4), (544, 4)]

/-- The bytes of the mailbox (25 R370). -/
def mailboxBytes (m : Mailbox) : List Byte :=
  pack [(m.code.toNat, 1), (0, 1), (m.context.toNat, 2), (0, 4), (m.op0.toNat, 8), (m.op1.toNat, 8), (m.op2.toNat, 8),
    (m.op3.toNat, 8), (m.status.toNat, 4), (0, 4), (m.result.toNat, 8), (0, 4), (if m.go then 1 else 0, 4)]

/-- The byte of BAR0 at an offset as a host read returns it; a read changes nothing. In state 0 only `ident` and the device
state show; what is reserved reads as zero. -/
def bar0Byte (s : State) (o : Nat) : Byte :=
  if o < 8 then (leBytes 8 ident).getD o 0
  else if o = 8 then s.device
  else if s.device = 0 then 0
  else if 0x10 ≤ o ∧ o < 0x18 then (leBytes 8 s.aperture.toNat).getD (o - 0x10) 0
  else if 0x1000 ≤ o ∧ o < 0x1040 then (mailboxBytes s.mailbox).getD (o - 0x1000) 0
  else if 0x20000 ≤ o ∧ o < 0x21000 then (snapshotHeader s.snapshot).getD (o - 0x20000) 0
  else if 0x21000 ≤ o ∧ o < 0x241000 then cellGet s.snapshot.bytes o
  else 0

/-- A host read of `n` bytes of BAR0. -/
def bar0Read (s : State) (o n : Nat) : List Byte := (List.range n).map (fun i => bar0Byte s (o + i))

/-- REGISTER_WRITE (25 R367): a host write of an 8-byte register of BAR0, or of the 4-byte one at its offset: the aperture's
base, the mailbox, a doorbell, the trigger; every other register ignores it (DESIGN CHOICE, log 13). -/
def evRegisterWrite (offset : Nat) (value : DWord) (s : State) : Option State :=
  if offset = 0x10 then evAperture value s
  else if 0x1000 ≤ offset ∧ offset < 0x1040 then some (mailboxWrite (offset - 0x1000) value s)
  else if 0x10000 ≤ offset ∧ offset < 0x10200 ∧ offset % 8 = 0 then evDoorbell ((offset - 0x10000) / 8) (value.setWidth 32) s
  else if offset = 0x20000 then evTrigger (value.setWidth 32) s
  else some s

/-! ### The aperture (25 R368) -/

/-- The byte that a host read at a physical address gives: all ones where none is backed (25 R368); of a part with an
uncorrectable error, a value that the spec does not state (DESIGN CHOICE, log 30). -/
def hostByte (s : State) (a : Nat) : Byte :=
  if s.device != 0 && decide (a < 2 ^ 52) && backedByte a then
    (if physBad s false a 1 then BitVec.ofNat 8 (Config.freeElement 15 s.tick a) else cellGet s.mem a)
  else 0xFF

/-- Count the lines of main memory that a host access touches (04 R73; DESIGN CHOICE, log 41). -/
def countHost (s : State) (l : List Nat) : State := l.foldl bumpAccess s

/-- The backed bytes of main memory among the `n` bytes from a physical address. -/
def hostLines (s : State) (a n : Nat) : List Nat :=
  if s.device = 0 then [] else ((List.range n).map (a + ·)).filter (fun p => decide (p < 0x80000000000) && backedByte p)

/-- What a host read of `n` bytes acquires: the releases of class H that it reads from, a completion word's among them (25 R369). -/
def hostAcquired (s : State) (a n : Nat) : List Nat :=
  ((releasesRead s (fun _ => true) (.phys a) n).filter (fun r => r.mask.getLsbD 5 && r.group == 0)).foldl
    (fun acc r => joinAges acc r.acquired) []

/-- HOST_BAR2_READ (25 R368), within the 64 GiB aperture. -/
def evHostRead (offset count : Nat) (s : State) : Option State :=
  let a := s.aperture.toNat + offset
  if offset + count ≤ 2 ^ 36 then
    let s := if s.past = [] then s else releaseAt s .host (hostAcquired s a count)
    some { countHost s (hostLines s a count) with hostData := (List.range count).map (fun i => hostByte s (a + i)) }
  else none

/-- HOST_BAR2_WRITE (25 R368, 08 R163), within the aperture. -/
def evHostWrite (offset : Nat) (bytes : List Byte) (s : State) : Option State :=
  if offset + bytes.length ≤ 2 ^ 36 then
    let a := s.aperture.toNat + offset
    some (if s.device = 0 then s else hostPut (countHost s (hostLines s a bytes.length)) (bytesAt a bytes))
  else none

/-- CREATE_CONTEXT (25 R370). -/
def execCreateContext (num : BitVec 16) (scratch spill : List Nat) (s : State) :
    Host.Outcome State Fault Refusal := happen s (evCreate num.toNat scratch spill s)

/-- DESTROY_CONTEXT (25 R370). -/
def execDestroyContext (s : State) :
    Host.Outcome State Fault Refusal := happen s (evDestroy s)

/-- INVALIDATE (04 R70). -/
def execInvalidate (s : State) :
    Host.Outcome State Fault Refusal := happen s (evInvalidate s)

/-- PAGE_ANSWER (04 R71). -/
def execPageAnswer (s : State) :
    Host.Outcome State Fault Refusal := happen s (evPageAnswer s)

/-- PRE_EMPT (21 R357). -/
def execPreEmpt (s : State) :
    Host.Outcome State Fault Refusal := happen s (evPreEmpt s)

/-- RETURN_CORES (25 R370). -/
def execReturnCores (s : State) :
    Host.Outcome State Fault Refusal := happen s (evReturn s)

/-- DEFINE_PEER_SET (13 R266). -/
def execDefinePeerSet (s : State) :
    Host.Outcome State Fault Refusal := happen s (evDefineSet s)

/-- KILL_GRID (25 R370). -/
def execKillGrid (s : State) :
    Host.Outcome State Fault Refusal := happen s (evKill s)

/-- LOAD_ROUTING_PROGRAM (25 R380). -/
def execLoadRoutingProgram (s : State) :
    Host.Outcome State Fault Refusal := happen s (evLoadProgram s)

/-- CONFIGURE_QUEUE (25 R369). -/
def execConfigureQueue (s : State) :
    Host.Outcome State Fault Refusal := happen s (evConfigure s)

/-- EPOCH_LENGTH (25 R381). -/
def execEpochLength (s : State) :
    Host.Outcome State Fault Refusal := happen s (evEpochLength s)

/-- RELEASE_SNAPSHOT (25 R376). -/
def execReleaseSnapshot (s : State) :
    Host.Outcome State Fault Refusal := happen s (evReleaseSnapshot s)

/-- ATTEST (25 R379). -/
def execAttest (s : State) :
    Host.Outcome State Fault Refusal := happen s (evAttest s)

/-- RE_PROVISION (25 R378). -/
def execReProvision (verified : Bool) (s : State) :
    Host.Outcome State Fault Refusal := happen s (evReProvision verified s)

/-- SET_FULL_EMPTY (07 R139). -/
def execSetFullEmpty (s : State) :
    Host.Outcome State Fault Refusal := happen s (evSetFe s)

/-- DOORBELL (25 R369). -/
def execDoorbell (queue : Nat) (tail : BitVec 32) (s : State) :
    Host.Outcome State Fault Refusal := happen s (evDoorbell queue tail s)

/-- APERTURE_BASE_WRITE (25 R368). -/
def execApertureBaseWrite (value : BitVec 64) (s : State) :
    Host.Outcome State Fault Refusal := happen s (evAperture value s)

/-- SNAPSHOT_TRIGGER (25 R376). -/
def execSnapshotTrigger (value : BitVec 32) (s : State) :
    Host.Outcome State Fault Refusal := happen s (evTrigger value s)

/-- REGISTER_WRITE (25 R367). -/
def execRegisterWrite (offset : Nat) (value : BitVec 64) (s : State) :
    Host.Outcome State Fault Refusal := happen s (evRegisterWrite offset value s)

/-- HOST_BAR2_READ (25 R368). -/
def execHostBar2Read (offset count : Nat) (s : State) :
    Host.Outcome State Fault Refusal := happen s (evHostRead offset count s)

/-- HOST_BAR2_WRITE (25 R368). -/
def execHostBar2Write (offset : Nat) (bytes : List (BitVec 8)) (s : State) :
    Host.Outcome State Fault Refusal := happen s (evHostWrite offset bytes s)

/-- DEVICE_RESET (25 R370). -/
def execDeviceReset (s : State) :
    Host.Outcome State Fault Refusal := happen s (evReset s)

/-- IMAGE_VERIFIED (25 R378). -/
def execImageVerified (verified : Bool) (s : State) :
    Host.Outcome State Fault Refusal := happen s (evVerified verified s)

end Sys2Proof.Machine
end

