-- ==== Sys2Proof/Machine/Beneath.lean ====
section
/-! DEFINITION. What runs beneath the work: access-counting epochs and migrations (04 R70, R73, R74, 25 R381), links (13
R264, R265), scrubbing, telemetry, soft errors (25 R381, R382), clock stretching and shutdown (25 R383). -/

namespace Sys2Proof.Machine

/-! ### Pages that a context maps -/

/-- A resident page: context, virtual base, size, entry and where the entry stands. -/
structure MappedPage where
  context : Nat
  va : Nat
  size : Nat
  entry : Nat
  entryAt : Nat
  deriving DecidableEq, Repr

/-- The pages below a table of a level (4 to 1), for virtual addresses from `va`. -/
def tablePages (m : Memory) (ctx : Nat) : Nat → Nat → Nat → List MappedPage
  | 0, _, _ => []
  | l + 1, tbl, va =>
    ((List.range 512).map (fun k =>
      let e := bytesGet m (tbl + 8 * k) 8
      let a := va + k * 2 ^ (21 + 9 * l)
      let next := e / 2 ^ 8 % 2 ^ 44 * 2 ^ 8
      let page (a size at_ e : Nat) : List MappedPage :=
        match pageEntry a size at_ e with
        | .page .. => [{ context := ctx, va := a, size := size, entry := e, entryAt := at_ }]
        | _ => []
      if e % 2 = 0 then []
      else if l = 0 then
        if e / 2 ^ 7 % 2 = 1 then
          if tableOk e true then
            ((List.range 32).map (fun j => page (a + 65536 * j) 65536 (next + 8 * j) (bytesGet m (next + 8 * j) 8))).flatten
          else []
        else page a (2 ^ 21) (tbl + 8 * k) e
      else if tableOk e false then tablePages m ctx l next a
      else [])).flatten

/-- Every resident page of every context, each entry once. -/
def mappedPages (s : State) : List MappedPage :=
  ((s.contexts.map (fun c => tablePages s.mem c.num 4 c.root.toNat 0)).flatten).foldl
    (fun l p => if l.any (fun q => q.entryAt == p.entryAt) then l else l ++ [p]) []

def MappedPage.phys (p : MappedPage) : Nat := p.entry / 2 ^ 8 % 2 ^ 44 * 2 ^ 8
def MappedPage.tier (p : MappedPage) : Nat := p.entry / 2 ^ 58 % 4
def MappedPage.pinned (p : MappedPage) : Bool := p.entry / 32 % 2 == 1

/-- A page's count (04 R73): the sum over its 64 KiB ranges. -/
def MappedPage.count (s : State) (p : MappedPage) : Nat :=
  (List.range (p.size / 65536)).foldl (fun k i => k + (cellGet s.access (p.phys / 65536 + i)).toNat) 0

/-- Sort by a key, the smallest first; equal keys keep their order. -/
def insertBy (f : MappedPage → Nat) (x : MappedPage) : List MappedPage → List MappedPage
  | [] => [x]
  | y :: ys => if f x < f y then x :: y :: ys else y :: insertBy f x ys

def sortBy (f : MappedPage → Nat) (l : List MappedPage) : List MappedPage := l.foldl (fun acc x => insertBy f x acc) []

/-! ### Epochs (04 R73, 25 R381) -/

/-- Start one move, and tell whether it started. -/
def tryMove (s : State) (p : MappedPage) (tier : Nat) : State × Bool :=
  let t := startMove s p.context p.va tier s.tick none
  (t, decide (s.migrations.length < t.migrations.length))

/-- EPOCH_END: pages at or above the promotion threshold move to HBM, in decreasing count; for each that finds no frame, the
HBM page of the lowest count at or below the demotion threshold moves away. Then every count is halved, and the
thresholds adapt (DESIGN CHOICE, log 56); the counts are compared before they are halved (DESIGN CHOICE, log 63). -/
def evEpochEnd (s : State) : Option State :=
  let pages := (mappedPages s).filter (fun p => !p.pinned)
  let up := (sortBy (MappedPage.count s) (pages.filter (fun p => p.tier == 1 && decide (s.promote ≤ p.count s)))).reverse
  let down := sortBy (MappedPage.count s) (pages.filter (fun p => p.tier == 0 && decide (p.count s ≤ s.demote)))
  -- the state, the pages promoted, the pages that may be demoted, and how many of the last promotions were
  let r := up.foldl (fun (acc : State × List Nat × List MappedPage × Nat) p =>
    let (s, won, down, back) := acc
    let t := tryMove s p 0
    if t.2 then (t.1, won ++ [p.entryAt], down, back)
    else
      match down with
      | [] => acc
      | d :: ds =>
        let u := tryMove s d 1
        (u.1, won, ds, if u.2 && s.lastPromoted.contains d.entryAt then back + 1 else back)) (s, [], down, 0)
  let worse := decide (s.promoted < 4 * r.2.2.2)
  let promote := if worse then s.promote + 1 else s.promote - 1
  some { r.1 with
    access := cellsHalf r.1.access
    promote := promote
    demote := promote / 2
    promoted := r.2.1.length
    lastPromoted := r.2.1 }
where
  /-- Every counter halved, rounding down. -/
  cellsHalf (m : Cells 16) : Cells 16 :=
    m.filterMap (fun e =>
      let h : BitVec 16 := e.2.ushiftRight 1
      if h = 0 then none else some (e.1, h))

/-! ### Migrations (04 R70, R74) -/

/-- Copy `n` bytes from one physical place to another. -/
def copyBytes (m : Memory) (a b n : Nat) : Memory := cellSetAll (cellClear m b n) (cellSlice m a n b)

/-- The entry with its Tier and Address fields replaced. -/
def movedEntry (e dest tier : Nat) : Nat :=
  e % 2 ^ 8 + dest / 2 ^ 8 % 2 ^ 44 * 2 ^ 8 + e / 2 ^ 52 % 2 ^ 6 * 2 ^ 52 + tier * 2 ^ 58 + e / 2 ^ 60 * 2 ^ 60

/-- The parts with an error once the page at `a` has moved to `b`: an error moves with its bytes (DESIGN CHOICE, log 30). -/
def movedBad (l : List Nat) (a b n : Nat) : List Nat :=
  (l.filter (fun p => !(decide (b ≤ p) && decide (p < b + n)))) ++
  (l.filter (fun p => decide (a ≤ p) && decide (p < a + n))).map (fun p => p - a + b)

/-- A noted write moves with its page (04 R74). -/
def movedWrite (a b n : Nat) (r : Write) : Write :=
  match r.loc with
  | .phys p => if a ≤ p ∧ p < a + n then { r with loc := .phys (p - a + b) } else r
  | _ => r

/-- A value that a page entry had, and that translations may still use, names the page where it has moved (04 R70, R74). -/
def movedOld (m : Migration) (src tier : Nat) (o : Nat × Nat × DWord) : Nat × Nat × DWord :=
  if o.1 = m.context ∧ o.2.1 = m.entryAt ∧ o.2.2.toNat / 2 ^ 8 % 2 ^ 44 * 2 ^ 8 = src then
    (o.1, o.2.1, BitVec.ofNat 64 (movedEntry o.2.2.toNat m.dest tier))
  else o

/-- MIGRATION_COMPLETE (04 R70): the entry is read again; if it has changed, the move is abandoned, else the bytes have been
copied and the entry switches at once. -/
def evMigration (page : Nat) (s : State) : Option State :=
  (s.migrations.find? (·.page == page)).map (fun m =>
    let s := { s with migrations := s.migrations.erase m }
    let e := bytesGet s.mem m.entryAt 8
    if e ≠ m.old.toNat then s
    else
      let src := e / 2 ^ 8 % 2 ^ 44 * 2 ^ 8
      let tier := (backedTier m.dest m.size).getD 0
      let n := m.size / 65536
      { s with
        mem := bytesSet (copyBytes s.mem src m.dest m.size) m.entryAt 8 (movedEntry e m.dest tier)
        bad := movedBad s.bad src m.dest m.size
        past := s.past.map (movedWrite src m.dest m.size)
        oldEntries := s.oldEntries.map (movedOld m src tier)
        access := cellSetAll (cellClear (cellClear s.access (src / 65536) n) (m.dest / 65536) n)
          (cellSlice s.access (src / 65536) n (m.dest / 65536)) })

/-! ### Links, scrubbing, telemetry -/

def modLink (s : State) (k : Nat) (f : Link → Link) : State := { s with links := putAt {} s.links k (f (s.links.getD k {})) }
def modTel (s : State) (f : Telemetry → Telemetry) : State := { s with telemetry := f s.telemetry }

/-- FLIT_RETRY (13 R264): the flit in flight is resent, and its failed resends are counted until one succeeds. -/
def evFlitRetry (k : Nat) (ok : Bool) (s : State) : Option State :=
  match s.links[k]? with
  | some l =>
    if l.down ∨ 16 ≤ l.failed then none
    else some (modTel (modLink s k (fun l => { l with failed := if ok then 0 else l.failed + 1 }))
      (fun t => { t with retries := t.retries + 1 }))
  | none => none

/-- LINK_OUT_OF_SERVICE (13 R264): after 16 failed resends. -/
def evLinkOut (k : Nat) (s : State) : Option State :=
  match s.links[k]? with
  | some l => if !l.down ∧ 16 ≤ l.failed then some (modLink s k (fun l => { l with down := true })) else none
  | none => none

/-- LINK_RECALIBRATION (25 R381). -/
def evRecalibrate (k : Nat) (s : State) : Option State :=
  if k < s.links.length then some (modLink s k (fun l => { l with recals := l.recals + 1 })) else none

/-- LINK_RETURN_TO_SERVICE (13 R264). -/
def evLinkBack (k : Nat) (s : State) : Option State :=
  match s.links[k]? with
  | some l =>
    if l.down then some (modLink s k (fun l => { l with failed := 0, down := false, recals := l.recals + 1 })) else none
  | none => none

/-- HOP_TIMEOUT (13 R265): the transaction is tried again over another route. -/
def evHopTimeout (_transaction : Nat) (s : State) : Option State := some (modTel s (fun t => { t with hops := t.hops + 1 }))

/-- PATROL_SCRUB (25 R381): corrected bytes keep their values. -/
def evScrub (s : State) : Option State := some (modTel s (fun t => { t with scrubs := t.scrubs + 1 }))

/-- TELEMETRY_TICK (25 R381). -/
def evTick (s : State) : Option State := some (modTel s (fun t => { t with ticks := t.ticks + 1 }))

/-! ### Errors, power, heat -/

/-- A group has an operation in a structure that contexts share (21 R361). -/
def inShared (g : Group) : Bool :=
  match g.wait with
  | some w => w.holds.isSome || (match w with
    | .items => true | .packets => true | .taskRoom => true | .sparse .. => true | .luna .. => true | _ => false)
  | none => false

/-- Every group that satisfies `p` raises 0x50. -/
def raiseBad (s : State) (p : Group → Bool) : State :=
  (s.groups.filter p).foldl (fun s g => failWait (dropBuffer s g) g (fault 0x50 na64)) s

/-- The descriptors of the packets that satisfy `p` fail with 0x50 (18 R337). -/
def failPackets (s : State) (p : Packet → Bool) : State :=
  ((s.dies.flatMap (·.packets)).filter p).foldl (fun s x => failRoute s x.context x.desc.toNat 0x50) s

/-- An engine operation that fails where it waits: it stops at the first element that waits, or that it has not begun (06 R117). -/
def failWaiting (s : State) (o : EngineOp) : State :=
  let k := BitVec.ofNat 64 (o.pending.headD o.next)
  let s := setOp s { o with parked := [], asks := none }
  (evEngineFault o.id 0x50 k s).getD (closeOp s o (some (k, 0x50)))

/-- Grids whose tasks or items meet an error where they wait: no group of theirs can take it, so it ends them as an escalated fault
does (21 R354; DESIGN CHOICE, log 48). -/
def failGrids (s : State) (l : List Nat) : State := l.foldl (fun s n => endGrids s n 1 0x50) s

/-- An error in the queue of a die's Luna: its answered operations raise 0x50 in their groups, and those of a timeline fail at the lane
under way, whose tree stays as it is (12 R244). -/
def lunaError (s : State) (die : Nat) : State :=
  let waiting := (lunaWaiting s die).map (·.id)
  (dieOps s die .luna).foldl (fun s o =>
    endLuna s o (some ((match (lunaLanesOf o)[o.next]? with | some l => l.lane | none => 0), .badRecord 0)))
    (raiseBad s (fun g => waiting.contains g.id))

/-- An error in the queue of a die's index unit: its operations raise 0x50 in their groups. -/
def indexError (s : State) (die : Nat) : State :=
  let waiting := (indexWaiting s die).map (·.id)
  raiseBad s (fun g => waiting.contains g.id)

/-- An error in the queue of a die's task scheduler, and in that of its Skipper: the groups that wait for room there raise 0x50, and the
tasks and items in it end their grids. -/
def tasksError (s : State) (die : Nat) : State :=
  let l := (s.tasks.filter (fun t => physDie s t.context t.die == die && t.inUse && t.released && !t.placed)).map (·.grid)
  failGrids (raiseBad s (fun g => g.wait == some .taskRoom && dieOf (whoOf s g).phys == die)) l
def itemsError (s : State) (die : Nat) : State :=
  let l := (getDie s die).queues.map (·.grid) ++ (getDie s die).formed.map (·.grid)
  failGrids (raiseBad s (fun g => g.wait == some .items && dieOf (whoOf s g).phys == die)) l

/-- An uncorrectable error in the fault buffer of a die: every access that holds an entry of it fails. -/
def bufferError (s : State) (die : Nat) : State :=
  let s := raiseBad s (fun g => (g.wait.bind Wait.holds).any (·.1 == die))
  let s := (s.ops.filter (fun o => !o.lines.isEmpty && opDie s o == die)).foldl failWaiting s
  if die = 0 then
    { s with grids := s.grids.map (fun g =>
        match g.parked with | some p => { g with parked := none, failedPages := p :: g.failedPages } | none => g) }
  else s

/-- Soft errors in logic: in the contexts that they reach, the groups with an operation waiting in a shared structure raise 0x50, and
the descriptors of waiting packets fail (25 R382; DESIGN CHOICE, log 48). -/
def logicError (s : State) (ctxs : List Nat) : State :=
  failPackets (raiseBad s (fun g => ctxs.contains (whoOf s g).ctx && inShared g)) (fun p => ctxs.contains p.context)

/-- A place once more in a list of places with an error. -/
def withBad {α : Type} [BEq α] (l : List α) (p : α) : List α := if l.contains p then l else p :: l

/-- LOGIC_SOFT_ERROR (25 R382, 21 R361): an uncorrectable error arises. In memory and registers it stays in its part until
something meets it (DESIGN CHOICE, log 30); in logic and in structures that contexts share it is reported to the host, and
reaches what waits there (DESIGN CHOICE, log 48). -/
def evSoftError (place : ErrorPlace) (s : State) : Option State :=
  match place with
  | .logic ctxs => some (logicError (signal s 2) ctxs)
  | .phys a => if backedByte a then some { s with bad := withBad s.bad (a / partSize a * partSize a) } else none
  | .team t off =>
    (getTeam s t).bind (fun x =>
      if off < x.memSize then some (setTeam s { x with bad := withBad x.bad (off / 8 * 8) }) else none)
  | .reg g code lane =>
    (getGroup s g).bind (fun x =>
      if (code < 192 ∧ lane < x.width) ∨ (192 ≤ code ∧ code < 248 ∧ lane = 0) then
        some (setGroup s { x with badRegs := withBad x.badRegs (code, lane) })
      else none)
  | .packets die =>
    if die < 4 then
      some ((getDie s die).packets.foldl (fun s x => failRoute s x.context x.desc.toNat 0x50) (signal s 2))
    else none
  | .buffer die => if die < 4 then some (bufferError (signal s 2) die) else none
  | .items die => if die < 4 then some (itemsError (signal s 2) die) else none
  | .tasks die => if die < 4 then some (tasksError (signal s 2) die) else none
  | .luna die => if die < 4 then some (lunaError (signal s 2) die) else none
  | .index die => if die < 4 then some (indexError (signal s 2) die) else none
  | .copies die => if die < 4 then some ((dieOps s die .copy).foldl failWaiting (signal s 2)) else none

/-- Lengthen one cycle of a core (25 R374, R383). -/
def stretchCore (core : Nat) (s : State) : Option State :=
  if core < 512 then some (modCore s core (fun c => { c with stretch := c.stretch + 1 })) else none

/-- THERMAL_SHUTDOWN (25 R383): every context's grids end with status 3, and the device enters state 1 again. -/
def evShutdown (s : State) : Option State :=
  some { s.grids.foldl (fun s g => endGrid s g.id 3 0) s with device := 1 }

/-- EPOCH_END (04 R73). -/
def execEpochEnd (s : State) :
    Host.Outcome State Fault Refusal := happen s (evEpochEnd s)

/-- MIGRATION_COMPLETE (04 R70). -/
def execMigrationComplete (page : Nat) (s : State) :
    Host.Outcome State Fault Refusal := happen s (evMigration page s)

/-- FLIT_RETRY (13 R264). -/
def execFlitRetry (r : FlitResend) (s : State) :
    Host.Outcome State Fault Refusal := happen s (evFlitRetry r.link r.ok s)

/-- LINK_OUT_OF_SERVICE (13 R264). -/
def execLinkOutOfService (link : Nat) (s : State) :
    Host.Outcome State Fault Refusal := happen s (evLinkOut link s)

/-- LINK_RECALIBRATION (25 R381). -/
def execLinkRecalibration (link : Nat) (s : State) :
    Host.Outcome State Fault Refusal := happen s (evRecalibrate link s)

/-- LINK_RETURN_TO_SERVICE (13 R264). -/
def execLinkReturnToService (link : Nat) (s : State) :
    Host.Outcome State Fault Refusal := happen s (evLinkBack link s)

/-- HOP_TIMEOUT (13 R265). -/
def execHopTimeout (transaction : Nat) (s : State) :
    Host.Outcome State Fault Refusal := happen s (evHopTimeout transaction s)

/-- PATROL_SCRUB (25 R381). -/
def execPatrolScrub (s : State) :
    Host.Outcome State Fault Refusal := happen s (evScrub s)

/-- TELEMETRY_TICK (25 R381). -/
def execTelemetryTick (s : State) :
    Host.Outcome State Fault Refusal := happen s (evTick s)

/-- LOGIC_SOFT_ERROR (25 R382). -/
def execLogicSoftError (place : ErrorPlace) (s : State) :
    Host.Outcome State Fault Refusal := happen s (evSoftError place s)

/-- VOLTAGE_DROOP (25 R381). -/
def execVoltageDroop (core : Nat) (s : State) :
    Host.Outcome State Fault Refusal := happen s (stretchCore core s)

/-- POWER_LIMIT (25 R383). -/
def execPowerLimit (core : Nat) (s : State) :
    Host.Outcome State Fault Refusal := happen s (stretchCore core s)

/-- THERMAL_STRETCH (25 R383). -/
def execThermalStretch (core : Nat) (s : State) :
    Host.Outcome State Fault Refusal := happen s (stretchCore core s)

/-- THERMAL_SHUTDOWN (25 R383). -/
def execThermalShutdown (s : State) :
    Host.Outcome State Fault Refusal := happen s (evShutdown s)

end Sys2Proof.Machine
end

