-- ==== Sys2Proof/Machine/Dispatch.lean ====
section
/-! DEFINITION. The meaning of every instruction: one arm per constructor. -/

namespace Sys2Proof.Machine

def exec (i : Instr) (s : State) : Host.Outcome State Fault Refusal :=
  match i with
  | .add e t d a b => Sys2Proof.Machine.execAdd e t d a b s
  | .sub e t d a b => Sys2Proof.Machine.execSub e t d a b s
  | .mul e t d a b => Sys2Proof.Machine.execMul e t d a b s
  | .fma e t d a b => Sys2Proof.Machine.execFma e t d a b s
  | .fms e t d a b => Sys2Proof.Machine.execFms e t d a b s
  | .min e t d a b => Sys2Proof.Machine.execMin e t d a b s
  | .max e t d a b => Sys2Proof.Machine.execMax e t d a b s
  | .div e t d a b => Sys2Proof.Machine.execDiv e t d a b s
  | .and e t d a b => Sys2Proof.Machine.execAnd e t d a b s
  | .or e t d a b => Sys2Proof.Machine.execOr e t d a b s
  | .xor e t d a b => Sys2Proof.Machine.execXor e t d a b s
  | .shl e t d a b => Sys2Proof.Machine.execShl e t d a b s
  | .shr e t d a b => Sys2Proof.Machine.execShr e t d a b s
  | .sar e t d a b => Sys2Proof.Machine.execSar e t d a b s
  | .coal e t d a b => Sys2Proof.Machine.execCoal e t d a b s
  | .cmp e r q a b => Sys2Proof.Machine.execCmp e r q a b s
  | .sel e t d a b => Sys2Proof.Machine.execSel e t d a b s
  | .mulhi e t d a b => Sys2Proof.Machine.execMulhi e t d a b s
  | .dot e d a b => Sys2Proof.Machine.execDot e d a b s
  | .lrd e t d a b => Sys2Proof.Machine.execLrd e t d a b s
  | .ld e t d a b => Sys2Proof.Machine.execLd e t d a b s
  | .st e d a b => Sys2Proof.Machine.execSt e d a b s
  | .ldfe d a c => Sys2Proof.Machine.execLdfe d a c s
  | .stfe e d a b => Sys2Proof.Machine.execStfe e d a b s
  | .ldo e t d a o m => Sys2Proof.Machine.execLdo e t d a o m s
  | .sto e d a o m => Sys2Proof.Machine.execSto e d a o m s
  | .li e t d imm => Sys2Proof.Machine.execLi e t d imm s
  | .lih e t d imm => Sys2Proof.Machine.execLih e t d imm s
  | .addi e t d imm => Sys2Proof.Machine.execAddi e t d imm s
  | .mode e p => Sys2Proof.Machine.execMode e p s
  | .cvt e t d a f => Sys2Proof.Machine.execCvt e t d a f s
  | .fence e o m => Sys2Proof.Machine.execFence e o m s
  | .bra e c q x => Sys2Proof.Machine.execBra e c q x s
  | .call e x => Sys2Proof.Machine.execCall e x s
  | .ift e q sf x => Sys2Proof.Machine.execIft e q sf x s
  | .els e x => Sys2Proof.Machine.execEls e x s
  | .uarm e x => Sys2Proof.Machine.execUarm e x s
  | .endif e => Sys2Proof.Machine.execEndif e s
  | .jmp e a => Sys2Proof.Machine.execJmp e a s
  | .exit e => Sys2Proof.Machine.execExit e s
  | .aadd e t d a o m => Sys2Proof.Machine.execAadd e t d a o m s
  | .amin e t d a o m => Sys2Proof.Machine.execAmin e t d a o m s
  | .amax e t d a o m => Sys2Proof.Machine.execAmax e t d a o m s
  | .aand e t d a o m => Sys2Proof.Machine.execAand e t d a o m s
  | .aor e t d a o m => Sys2Proof.Machine.execAor e t d a o m s
  | .axch e t d a o m => Sys2Proof.Machine.execAxch e t d a o m s
  | .acas e t d a o m => Sys2Proof.Machine.execAcas e t d a o m s
  | .axor e t d a o m => Sys2Proof.Machine.execAxor e t d a o m s
  | .copyIn e d sf l => Sys2Proof.Machine.execCopyIn e d sf l s
  | .copyOut e d sf l => Sys2Proof.Machine.execCopyOut e d sf l s
  | .copyOutz e d sf l => Sys2Proof.Machine.execCopyOutz e d sf l s
  | .copyNn e d sf l => Sys2Proof.Machine.execCopyNn e d sf l s
  | .copyRdAdd e d sf l => Sys2Proof.Machine.execCopyRdAdd e d sf l s
  | .copyRdMin e d sf l => Sys2Proof.Machine.execCopyRdMin e d sf l s
  | .copyRdMax e d sf l => Sys2Proof.Machine.execCopyRdMax e d sf l s
  | .copyGth e d sf l n => Sys2Proof.Machine.execCopyGth e d sf l n s
  | .copySct e d sf l n => Sys2Proof.Machine.execCopySct e d sf l n s
  | .copyBlk e d sf l n => Sys2Proof.Machine.execCopyBlk e d sf l n s
  | .copyDns e d sf l => Sys2Proof.Machine.execCopyDns e d sf l s
  | .copyMig e sf l n => Sys2Proof.Machine.execCopyMig e sf l n s
  | .fetch e d sf l n => Sys2Proof.Machine.execFetch e d sf l n s
  | .fetchLst e d sf l n => Sys2Proof.Machine.execFetchLst e d sf l n s
  | .tlbind d l n => Sys2Proof.Machine.execTlbind d l n s
  | .tlwait l n => Sys2Proof.Machine.execTlwait l n s
  | .tlread e d l => Sys2Proof.Machine.execTlread e d l s
  | .redAdd e d a => Sys2Proof.Machine.execRedAdd e d a s
  | .redMin e d a => Sys2Proof.Machine.execRedMin e d a s
  | .redMax e d a => Sys2Proof.Machine.execRedMax e d a s
  | .redAnd e d a => Sys2Proof.Machine.execRedAnd e d a s
  | .redOr e d a => Sys2Proof.Machine.execRedOr e d a s
  | .redCnt e d a => Sys2Proof.Machine.execRedCnt e d a s
  | .scanAdd e t d a => Sys2Proof.Machine.execScanAdd e t d a s
  | .scanAddx e t d a => Sys2Proof.Machine.execScanAddx e t d a s
  | .scanMax e t d a => Sys2Proof.Machine.execScanMax e t d a s
  | .matchLanes e d a => Sys2Proof.Machine.execMatchLanes e d a s
  | .voteT e t d q => Sys2Proof.Machine.execVoteT e t d q s
  | .voteF e t d q => Sys2Proof.Machine.execVoteF e t d q s
  | .voteU e t d q => Sys2Proof.Machine.execVoteU e t d q s
  | .lidx e t d => Sys2Proof.Machine.execLidx e t d s
  | .bcast e t d a L => Sys2Proof.Machine.execBcast e t d a L s
  | .mov e t d a => Sys2Proof.Machine.execMov e t d a s
  | .neg e t d a => Sys2Proof.Machine.execNeg e t d a s
  | .abs e t d a => Sys2Proof.Machine.execAbs e t d a s
  | .isna e d a => Sys2Proof.Machine.execIsna e d a s
  | .mkna e t d a => Sys2Proof.Machine.execMkna e t d a s
  | .sqrt e t d a => Sys2Proof.Machine.execSqrt e t d a s
  | .rsqrt e t d a => Sys2Proof.Machine.execRsqrt e t d a s
  | .recip e t d a => Sys2Proof.Machine.execRecip e t d a s
  | .exp2 e t d a => Sys2Proof.Machine.execExp2 e t d a s
  | .log2 e t d a => Sys2Proof.Machine.execLog2 e t d a s
  | .sin e t d a => Sys2Proof.Machine.execSin e t d a s
  | .cos e t d a => Sys2Proof.Machine.execCos e t d a s
  | .tanh e t d a => Sys2Proof.Machine.execTanh e t d a s
  | .sigm e t d a => Sys2Proof.Machine.execSigm e t d a s
  | .floor e t d a => Sys2Proof.Machine.execFloor e t d a s
  | .ceil e t d a => Sys2Proof.Machine.execCeil e t d a s
  | .trunc e t d a => Sys2Proof.Machine.execTrunc e t d a s
  | .rint e t d a => Sys2Proof.Machine.execRint e t d a s
  | .frac e t d a => Sys2Proof.Machine.execFrac e t d a s
  | .popc e t d a => Sys2Proof.Machine.execPopc e t d a s
  | .clz e t d a => Sys2Proof.Machine.execClz e t d a s
  | .not e t d a => Sys2Proof.Machine.execNot e t d a s
  | .slotc sf l f a => Sys2Proof.Machine.execSlotc sf l f a s
  | .slotr e sf => Sys2Proof.Machine.execSlotr e sf s
  | .slotw e sf a => Sys2Proof.Machine.execSlotw e sf a s
  | .slotl e sf h a => Sys2Proof.Machine.execSlotl e sf h a s
  | .slott e sf h a => Sys2Proof.Machine.execSlott e sf h a s
  | .prune e d sf p => Sys2Proof.Machine.execPrune e d sf p s
  | .accz e f k z => Sys2Proof.Machine.execAccz e f k z s
  | .mmaS e a b z => Sys2Proof.Machine.execMmaS e a b z s
  | .mmaX e a b z => Sys2Proof.Machine.execMmaX e a b z s
  | .mmaSp e a b x z => Sys2Proof.Machine.execMmaSp e a b x z s
  | .mmav e v w l c x z => Sys2Proof.Machine.execMmav e v w l c x z s
  | .accr e t d a z => Sys2Proof.Machine.execAccr e t d a z s
  | .accw e d a z => Sys2Proof.Machine.execAccw e d a z s
  | .topkR e imm sf l n => Sys2Proof.Machine.execTopkR e imm sf l n s
  | .topkC e imm sf l n => Sys2Proof.Machine.execTopkC e imm sf l n s
  | .rqpush e d a r => Sys2Proof.Machine.execRqpush e d a r s
  | .rqwait t d a r => Sys2Proof.Machine.execRqwait t d a r s
  | .spld e t d a h => Sys2Proof.Machine.execSpld e t d a h s
  | .spst e d a h => Sys2Proof.Machine.execSpst e d a h s
  | .spadd e d a h => Sys2Proof.Machine.execSpadd e d a h s
  | .spit e d a h => Sys2Proof.Machine.execSpit e d a h s
  | .spcnt e d h => Sys2Proof.Machine.execSpcnt e d h s
  | .spgrow e t d a h => Sys2Proof.Machine.execSpgrow e t d a h s
  | .tnew e t d r => Sys2Proof.Machine.execTnew e t d r s
  | .tdesc e t d r => Sys2Proof.Machine.execTdesc e t d r s
  | .texp e t d a r => Sys2Proof.Machine.execTexp e t d a r s
  | .tback e d l r => Sys2Proof.Machine.execTback e d l r s
  | .treuse e l a r => Sys2Proof.Machine.execTreuse e l a r s
  | .trd e d a r => Sys2Proof.Machine.execTrd e d a r s
  | .tgrow e t d a r => Sys2Proof.Machine.execTgrow e t d a r s
  | .bar a => Sys2Proof.Machine.execBar a s
  | .barArr e t d a => Sys2Proof.Machine.execBarArr e t d a s
  | .barWt a => Sys2Proof.Machine.execBarWt a s
  | .gbar d => Sys2Proof.Machine.execGbar d s
  | .wfeFull a => Sys2Proof.Machine.execWfeFull a s
  | .wfeEmpty a => Sys2Proof.Machine.execWfeEmpty a s
  | .collArAdd e d sf l n => Sys2Proof.Machine.execCollArAdd e d sf l n s
  | .collArMin e d sf l n => Sys2Proof.Machine.execCollArMin e d sf l n s
  | .collArMax e d sf l n => Sys2Proof.Machine.execCollArMax e d sf l n s
  | .collRsAdd e d sf l n => Sys2Proof.Machine.execCollRsAdd e d sf l n s
  | .collRsMin e d sf l n => Sys2Proof.Machine.execCollRsMin e d sf l n s
  | .collRsMax e d sf l n => Sys2Proof.Machine.execCollRsMax e d sf l n s
  | .collAg e d sf l n => Sys2Proof.Machine.execCollAg e d sf l n s
  | .collA2a e d sf l n => Sys2Proof.Machine.execCollA2a e d sf l n s
  | .psetReform e l n => Sys2Proof.Machine.execPsetReform e l n s
  | .psetStatus e t d a => Sys2Proof.Machine.execPsetStatus e t d a s
  | .xacq u => Sys2Proof.Machine.execXacq u s
  | .xrel e u => Sys2Proof.Machine.execXrel e u s
  | .rtag e d c => Sys2Proof.Machine.execRtag e d c s
  | .rdrop e d => Sys2Proof.Machine.execRdrop e d s
  | .rfree e d => Sys2Proof.Machine.execRfree e d s
  | .sealRange e t d a => Sys2Proof.Machine.execSealRange e t d a s
  | .unsealRange e a => Sys2Proof.Machine.execUnsealRange e a s
  | .launch e l a => Sys2Proof.Machine.execLaunch e l a s
  | .item e d a => Sys2Proof.Machine.execItem e d a s
  | .task e t d a => Sys2Proof.Machine.execTask e t d a s
  | .depDec e d a => Sys2Proof.Machine.execDepDec e d a s
  | .yield => Sys2Proof.Machine.execYield s
  | .gid e t d sf => Sys2Proof.Machine.execGid e t d sf s
  | .fuse => Sys2Proof.Machine.execFuse s
  | .split d => Sys2Proof.Machine.execSplit d s
  | .shld e h a => Sys2Proof.Machine.execShld e h a s
  | .shst e h a => Sys2Proof.Machine.execShst e h a s
  | .shset e k h a => Sys2Proof.Machine.execShset e k h a s
  | .qand e d b a => Sys2Proof.Machine.execQand e d b a s
  | .qor e d b a => Sys2Proof.Machine.execQor e d b a s
  | .qnot e d a => Sys2Proof.Machine.execQnot e d a s
  | .qisT e d a => Sys2Proof.Machine.execQisT e d a s
  | .qisU e d a => Sys2Proof.Machine.execQisU e d a s
  | .qisF e d a => Sys2Proof.Machine.execQisF e d a s
  | .qmov e d a => Sys2Proof.Machine.execQmov e d a s
  | .nop e => Sys2Proof.Machine.execNop e s
  | .trap e c => Sys2Proof.Machine.execTrap e c s
  | .rth => Sys2Proof.Machine.execRth s
  | .kill => Sys2Proof.Machine.execKill s
  | .csrr e t d a => Sys2Proof.Machine.execCsrr e t d a s
  | .csrw e d a => Sys2Proof.Machine.execCsrw e d a s
  | .snap e => Sys2Proof.Machine.execSnap e s
  | .createContext num scratch spill => Sys2Proof.Machine.execCreateContext num scratch spill s
  | .destroyContext => Sys2Proof.Machine.execDestroyContext s
  | .invalidate => Sys2Proof.Machine.execInvalidate s
  | .pageAnswer => Sys2Proof.Machine.execPageAnswer s
  | .preEmpt => Sys2Proof.Machine.execPreEmpt s
  | .returnCores => Sys2Proof.Machine.execReturnCores s
  | .definePeerSet => Sys2Proof.Machine.execDefinePeerSet s
  | .killGrid => Sys2Proof.Machine.execKillGrid s
  | .loadRoutingProgram => Sys2Proof.Machine.execLoadRoutingProgram s
  | .configureQueue => Sys2Proof.Machine.execConfigureQueue s
  | .epochLength => Sys2Proof.Machine.execEpochLength s
  | .releaseSnapshot => Sys2Proof.Machine.execReleaseSnapshot s
  | .attest => Sys2Proof.Machine.execAttest s
  | .reProvision verified => Sys2Proof.Machine.execReProvision verified s
  | .setFullEmpty => Sys2Proof.Machine.execSetFullEmpty s
  | .doorbell queue tail => Sys2Proof.Machine.execDoorbell queue tail s
  | .apertureBaseWrite value => Sys2Proof.Machine.execApertureBaseWrite value s
  | .snapshotTrigger value => Sys2Proof.Machine.execSnapshotTrigger value s
  | .registerWrite offset value => Sys2Proof.Machine.execRegisterWrite offset value s
  | .hostBar2Read offset count => Sys2Proof.Machine.execHostBar2Read offset count s
  | .hostBar2Write offset bytes => Sys2Proof.Machine.execHostBar2Write offset bytes s
  | .deviceReset => Sys2Proof.Machine.execDeviceReset s
  | .imageVerified verified => Sys2Proof.Machine.execImageVerified verified s
  | .launchRecordDispatch queue => Sys2Proof.Machine.execLaunchRecordDispatch queue s
  | .teamPlacement core => Sys2Proof.Machine.execTeamPlacement core s
  | .gangPlacement grid => Sys2Proof.Machine.execGangPlacement grid s
  | .gangLaunchCommit grid => Sys2Proof.Machine.execGangLaunchCommit grid s
  | .gangLaunchAbort grid => Sys2Proof.Machine.execGangLaunchAbort grid s
  | .taskPlacement core => Sys2Proof.Machine.execTaskPlacement core s
  | .itemGroupForm die queue => Sys2Proof.Machine.execItemGroupForm die queue s
  | .itemWaitExpiry die queue => Sys2Proof.Machine.execItemWaitExpiry die queue s
  | .itemGroupPlacement core => Sys2Proof.Machine.execItemGroupPlacement core s
  | .teamResume team core => Sys2Proof.Machine.execTeamResume team core s
  | .gridRetirement grid => Sys2Proof.Machine.execGridRetirement grid s
  | .teamFree team => Sys2Proof.Machine.execTeamFree team s
  | .issueArbitration core slot => Sys2Proof.Machine.execIssueArbitration core slot s
  | .issueAging group => Sys2Proof.Machine.execIssueAging group s
  | .faultBufferGrant die => Sys2Proof.Machine.execFaultBufferGrant die s
  | .timelineWaitEnd group => Sys2Proof.Machine.execTimelineWaitEnd group s
  | .timelineLimitExpiry group => Sys2Proof.Machine.execTimelineLimitExpiry group s
  | .waitLimitExpiry group => Sys2Proof.Machine.execWaitLimitExpiry group s
  | .fullEmptyWake group => Sys2Proof.Machine.execFullEmptyWake group s
  | .frameGrant core => Sys2Proof.Machine.execFrameGrant core s
  | .registerStarvation core => Sys2Proof.Machine.execRegisterStarvation core s
  | .slotClaimGrant core => Sys2Proof.Machine.execSlotClaimGrant core s
  | .taskTableRoom group => Sys2Proof.Machine.execTaskTableRoom group s
  | .itemQueueRoom group => Sys2Proof.Machine.execItemQueueRoom group s
  | .packetQueueRoom group => Sys2Proof.Machine.execPacketQueueRoom group s
  | .batchWaitEnd group => Sys2Proof.Machine.execBatchWaitEnd group s
  | .releaseWaitEnd group => Sys2Proof.Machine.execReleaseWaitEnd group s
  | .barrierPhaseComplete team barrier => Sys2Proof.Machine.execBarrierPhaseComplete team barrier s
  | .gbarComplete grid => Sys2Proof.Machine.execGbarComplete grid s
  | .fuseRendezvous group => Sys2Proof.Machine.execFuseRendezvous group s
  | .copyOperationComplete op => Sys2Proof.Machine.execCopyOperationComplete op s
  | .fetchOperationComplete op => Sys2Proof.Machine.execFetchOperationComplete op s
  | .selectOperationComplete op => Sys2Proof.Machine.execSelectOperationComplete op s
  | .mmavComplete op => Sys2Proof.Machine.execMmavComplete op s
  | .lunaOperationComplete op => Sys2Proof.Machine.execLunaOperationComplete op s
  | .engineOperationFault op cause element => Sys2Proof.Machine.execEngineOperationFault op cause element s
  | .collectiveComplete op peers => Sys2Proof.Machine.execCollectiveComplete op peers s
  | .psetReformComplete reform => Sys2Proof.Machine.execPsetReformComplete reform s
  | .peerMemberLoss context set rank => Sys2Proof.Machine.execPeerMemberLoss context set rank s
  | .admiralPacket die => Sys2Proof.Machine.execAdmiralPacket die s
  | .batchRouting batch => Sys2Proof.Machine.execBatchRouting batch s
  | .routingProgramTimeout die => Sys2Proof.Machine.execRoutingProgramTimeout die s
  | .trapEntry group => Sys2Proof.Machine.execTrapEntry group s
  | .faultEscalation group => Sys2Proof.Machine.execFaultEscalation group s
  | .chrysalisSave team => Sys2Proof.Machine.execChrysalisSave team s
  | .epochEnd => Sys2Proof.Machine.execEpochEnd s
  | .migrationComplete page => Sys2Proof.Machine.execMigrationComplete page s
  | .logicSoftError place => Sys2Proof.Machine.execLogicSoftError place s
  | .patrolScrub => Sys2Proof.Machine.execPatrolScrub s
  | .telemetryTick => Sys2Proof.Machine.execTelemetryTick s
  | .flitRetry retry => Sys2Proof.Machine.execFlitRetry retry s
  | .linkOutOfService link => Sys2Proof.Machine.execLinkOutOfService link s
  | .linkRecalibration link => Sys2Proof.Machine.execLinkRecalibration link s
  | .hopTimeout transaction => Sys2Proof.Machine.execHopTimeout transaction s
  | .transactionTimeout op => Sys2Proof.Machine.execTransactionTimeout op s
  | .voltageDroop core => Sys2Proof.Machine.execVoltageDroop core s
  | .powerLimit core => Sys2Proof.Machine.execPowerLimit core s
  | .thermalStretch core => Sys2Proof.Machine.execThermalStretch core s
  | .thermalShutdown => Sys2Proof.Machine.execThermalShutdown s
  | .issuedWordFinished group => Sys2Proof.Machine.execIssuedWordFinished group s
  | .matrixOperationComplete core => Sys2Proof.Machine.execMatrixOperationComplete core s
  | .sparseOperationAnswer group => Sys2Proof.Machine.execSparseOperationAnswer group s
  | .lunaAnswer group => Sys2Proof.Machine.execLunaAnswer group s
  | .linkReturnToService link => Sys2Proof.Machine.execLinkReturnToService link s

end Sys2Proof.Machine
end

