-- ==== Sys2Proof/Machine/Schedule.lean ====
section
/-! DEFINITION. What a step runs (DESIGN CHOICE, log 3): the agenda's head, else one of the steps that the device itself may
take, chosen by the tick; what takes time to run out comes when nothing else can happen, and now and then. And a machine in
which a group is about to fetch (DESIGN CHOICE, log 7). -/

namespace Sys2Proof.Machine

/-! ### The next word of a group -/

/-- Where a group's next word stands in physical memory. -/
def fetchPhys (s : State) (g : Group) : Option Nat :=
  match mainAcc s (whoOf s g).ctx g.pc.toNat .execute with
  | .ok p => some p
  | _ => none

/-- A fetch is a line access to its page (04 R73). -/
def countFetch (s : State) (g : Group) : State := match fetchPhys s g with | some p => bumpAccess s p | none => s

/-- A group may take its turn: it holds an issue slot, or finishes a word whose run is over (03 R53), or goes on with a queued
word whose answer or grant has come (04 R71). -/
def mayRun (s : State) (g : Group) : Bool :=
  runnable s g && (g.slot.isSome || (!g.rq.isEmpty && (g.detached || g.granted)))

/-- The step that lets a word finish which the scoreboard holds back (08 R152, 11 R209). -/
def finishEarlier (s : State) (g : Group) : Instr :=
  if g.unfinished.isEmpty then .matrixOperationComplete (whoOf s g).phys else .issuedWordFinished g.id

/-- Run the next word of a group: its queue's head, or the word at its program counter, fetched and decoded (14 R276). A word
that the scoreboard holds back lets an earlier one finish first (08 R152). -/
def runGroup (s : State) (g : Group) : Host.Outcome State Fault Refusal :=
  if !mayRun s g then .next s
  else match g.rq with
    | e :: _ =>
      (match instrOf e.word with
       | some i => exec i { s with cur := some g.id }
       | none => .next (illegalEntry s g))
    | [] =>
      match fetchWord s g with
      | .park p => .next (parkFetch s g p)
      | .flt c => .next (takeFault (signalBad s (BitVec.ofNat 8 c)) g (fault c g.pc.toNat) [] 0xFF g.pc g.pc)
      | .word w =>
        match instrOf w with
        | none => .next (illegalWord (countFetch s g) g w)
        | some i =>
          if scoreboardHolds s g i then exec (finishEarlier s g) s
          else
            match exec i { countFetch s g with cur := some g.id } with
            | .next t => .next (noteLate g i t)
            | o => o

/-- Run a turn. -/
def runTurn (t : Turn) (s : State) : Host.Outcome State Fault Refusal :=
  match t with
  | .event i => exec i { s with cur := none }
  | .run n =>
    match getGroup s n with
    | some g => runGroup s g
    | none => .next s

/-! ### The steps that the device may take -/

/-- A turn, if it is enabled. -/
def offer (i : Instr) (r : Option State) : List Turn := if r.isSome then [.event i] else []

def groupTurns (s : State) (g : Group) : List Turn :=
  let n := g.id
  (if mayRun s g then [.run n] else []) ++
  offer (.trapEntry n) (evTrapEntry n s) ++ offer (.faultEscalation n) (evFaultEscalation n s) ++
  offer (.timelineWaitEnd n) (evTimelineWaitEnd n s) ++ offer (.fullEmptyWake n) (evFullEmptyWake n s) ++
  offer (.taskTableRoom n) (evTaskTableRoom n s) ++ offer (.itemQueueRoom n) (evItemQueueRoom n s) ++
  offer (.packetQueueRoom n) (evPacketQueueRoom n s) ++ offer (.batchWaitEnd n) (evBatchWaitEnd n s) ++
  offer (.releaseWaitEnd n) (evReleaseWaitEnd n s) ++ offer (.fuseRendezvous n) (evFuseRendezvous n s) ++
  offer (.sparseOperationAnswer n) (evSparseAnswer n s) ++ offer (.lunaAnswer n) (evLunaAnswer n s) ++
  offer (.issuedWordFinished n) (evIssuedWordFinished n s)

def coreTurns (s : State) (c : Nat) : List Turn :=
  offer (.issueArbitration c 0) (evArbitration c 0 s) ++ offer (.issueArbitration c 1) (evArbitration c 1 s) ++
  offer (.frameGrant c) (evFrameGrant c s) ++ offer (.registerStarvation c) (evRegisterStarvation c s) ++
  offer (.slotClaimGrant c) (evSlotClaimGrant c s) ++ offer (.matrixOperationComplete c) (evMatrixComplete c s)

/-- Some work waits for a core. -/
def workWaits (s : State) : Bool :=
  s.grids.any (fun g => !g.ended && (!g.placed || g.tickets.any (fun t => decide (t.next < t.stop)))) ||
  s.tasks.any (fun t => t.inUse && t.released && !t.placed) || s.dies.any (fun d => !d.formed.isEmpty)

def placeTurns (s : State) (c : Nat) : List Turn :=
  offer (.teamPlacement c) (evTeamPlacement c s) ++ offer (.taskPlacement c) (evTaskPlacement c s) ++
  offer (.itemGroupPlacement c) (evItemPlacement c s)

def opTurns (s : State) (o : EngineOp) : List Turn :=
  let n := o.id
  match o.kind with
  | .copy => offer (.copyOperationComplete n) (evCopyComplete n s)
  | .fetch => offer (.fetchOperationComplete n) (evFetchComplete n s)
  | .select => offer (.selectOperationComplete n) (evSelectComplete n s)
  | .mmav => offer (.mmavComplete n) (evMmavComplete n s)
  | .luna => offer (.lunaOperationComplete n) (evLunaComplete n s)
  | .coll => offer (.collectiveComplete n [[]]) (evCollectiveComplete n [[]] s)
  | .reform => offer (.psetReformComplete ⟨n, [[]]⟩) (evReformComplete n [[]] s)
  | .launch => []

/-- The package is the only member of a gang's peer set: it waits for no acknowledgement but its own (16 R297). -/
def soleMember (s : State) (g : Grid) : Bool := (recPeer s g.context g.record).any (fun p => p.members.length == 1)

def gridTurns (s : State) (g : Grid) : List Turn :=
  let n := g.id
  (if g.placed then [] else offer (.gangPlacement n) (evGangPlacement n s)) ++
  (if soleMember s g then offer (.gangLaunchCommit n) (evGangCommit n s) else []) ++
  offer (.gbarComplete n) (evGbarComplete n s) ++ offer (.gridRetirement n) (evRetirement n s)

def teamTurns (s : State) (t : Team) : List Turn :=
  ((List.range 16).map (fun b => offer (.barrierPhaseComplete t.id b) (evBarrierPhaseComplete t.id b s))).flatten ++
  offer (.teamFree t.id) (evTeamFree t.id s) ++ offer (.chrysalisSave t.id) (evSave t.id s) ++
  (if t.saved then
    match (List.range 512).find? (fun c => (evResume t.id c s).isSome) with
    | some c => [.event (.teamResume t.id c)]
    | none => []
   else [])

def dieTurns (s : State) (k : Nat) : List Turn :=
  offer (.faultBufferGrant k) (evFaultBufferGrant k s) ++ offer (.admiralPacket k) (evAdmiralPacket k s) ++
  offer (.batchRouting ⟨k, 0⟩) (evBatchRouting k 0 s) ++
  ((List.range (getDie s k).queues.length).map (fun q => offer (.itemGroupForm k q) (evItemForm k q s))).flatten

/-- The places of a new context: on each die after what other contexts hold. -/
def freePlace (s : State) (k : Nat) : Nat :=
  let base := 0x80000000000 + k * 2 ^ 30
  ((padRanges s).filter (fun r => padDie r.1 r.2 == some k)).foldl (fun a r => max a ((r.1 + r.2 + 63) / 64 * 64)) base

/-- The command that the mailbox holds, with what the device chooses for it. -/
def commandTurns (s : State) : List Turn :=
  if !s.mailbox.go then []
  else match s.mailbox.code.toNat with
    | 0x01 =>
      let scratch := (List.range 4).map (freePlace s)
      let size := (cmd2 s % 2 ^ 32 + 63) / 64 * 64
      let num := (List.range 65536).find? (fun n => (getCtx s n).isNone)
      let i : Instr := .createContext (BitVec.ofNat 16 (num.getD 0)) scratch (scratch.map (· + size))
      (match offer i (evCreate (BitVec.ofNat 16 (num.getD 0)).toNat scratch (scratch.map (· + size)) s) with
       | [] => [.event (.createContext 0 [] [])]
       | l => l)
    | 0x02 => offer .destroyContext (evDestroy s)
    | 0x03 => offer .invalidate (evInvalidate s)
    | 0x04 => offer .pageAnswer (evPageAnswer s)
    | 0x05 => offer .preEmpt (evPreEmpt s)
    | 0x06 => offer .returnCores (evReturn s)
    | 0x07 => offer .definePeerSet (evDefineSet s)
    | 0x08 => offer .killGrid (evKill s)
    | 0x09 => offer .loadRoutingProgram (evLoadProgram s)
    | 0x0A => offer .configureQueue (evConfigure s)
    | 0x0B => offer .epochLength (evEpochLength s)
    | 0x0C => offer .releaseSnapshot (evReleaseSnapshot s)
    | 0x0D => offer .attest (evAttest s)
    | 0x0E => offer (.reProvision true) (evReProvision true s) ++ offer (.reProvision false) (evReProvision false s)
    | 0x0F => offer .setFullEmpty (evSetFe s)
    | _ => []

/-- The cores on which a team is resident. -/
def busyCores (s : State) : List Nat := sortNats ((s.teams.filter (fun t => !t.saved)).map (teamCore s))

/-- The check of the controller's image, while the device boots (25 R370, R378). -/
def bootTurns (s : State) : List Turn :=
  if s.device = 0 then offer (.imageVerified true) (evVerified true s) ++ offer (.imageVerified false) (evVerified false s) else []

/-- Every step that the device may take now. -/
def turns (s : State) : List Turn :=
  s.groups.flatMap (groupTurns s) ++ (busyCores s).flatMap (coreTurns s) ++ s.ops.flatMap (opTurns s) ++
  s.grids.flatMap (gridTurns s) ++ s.teams.flatMap (teamTurns s) ++ (List.range 4).flatMap (dieTurns s) ++
  (if workWaits s then (List.range 512).flatMap (placeTurns s) else []) ++
  (match nextQueue s with | some q => offer (.launchRecordDispatch q) (evDispatch q s) | none => []) ++
  s.migrations.map (fun m => Turn.event (.migrationComplete m.page)) ++ commandTurns s ++ bootTurns s

/-- What time brings about: limits and timeouts that run out, items that have waited, groups that count as class 0, gangs that
are not acknowledged (06 R129, 13 R265, 16 R297, R305, R312, R315). -/
def lateTurns (s : State) : List Turn :=
  s.groups.flatMap (fun g => offer (.timelineLimitExpiry g.id) (evTimelineLimitExpiry g.id s) ++
    offer (.waitLimitExpiry g.id) (evWaitLimitExpiry g.id s) ++ offer (.issueAging g.id) (evAging g.id s)) ++
  s.ops.flatMap (fun o => offer (.transactionTimeout o.id) (evTransactionTimeout o.id s)) ++
  s.grids.flatMap (fun g => offer (.transactionTimeout g.id) (evTransactionTimeout g.id s) ++
    offer (.gangLaunchAbort g.id) (evGangAbort g.id s)) ++
  (List.range 4).flatMap (fun k => (List.range (getDie s k).queues.length).flatMap (fun q =>
    offer (.itemWaitExpiry k q) (evItemExpiry k q s)))

/-- One of a list of turns, by a number. -/
def pick (n : Nat) (l : List Turn) : Option Turn := l[n % l.length]?

/-- How many steps pass between two that time brings about, while others can happen. -/
def lateEvery : Nat := 2 ^ 20

/-- The turn of a step without an agenda. -/
def chosenTurn (s : State) : Option Turn :=
  let late := pick (s.tick / lateEvery) (lateTurns s)
  match turns s with
  | [] => late
  | l => if s.tick % lateEvery = lateEvery - 1 then late.orElse (fun _ => pick s.tick l) else pick s.tick l

/-! ### A group about to fetch (DESIGN CHOICE, log 7) -/

/-- The group that the next step may run: the agenda's, the last one that ran, or any other that can fetch. -/
def fetchGroup (s : State) : Option (Group × Nat) :=
  let first := match s.agenda with | .run n :: _ => (getGroup s n).toList | _ => []
  let last := (s.cur.bind (getGroup s)).toList
  firstSome (fun g => (fetchPhys s g).map (fun p => (g, p))) (first ++ last ++ s.groups)

/-- Make a group run next: it waits for nothing, and nothing of it is queued. -/
def nextToRun (s : State) (g : Group) : State :=
  let s := dropBuffer s g
  { setGroup s { g with
      wait := none, pending := none, rq := [], stopped := false, unfinished := [], slot := some (g.slot.getD 0)
      detached := false, granted := false } with agenda := [.run g.id] }

/-- The launch record of the program that is placed where there is none: one team of one 8-lane group at the main address
2^32. -/
def bootRecord : List Byte :=
  padTo 128 (pack [(2 ^ 32, 8), (0, 8), (1, 4), (1, 4), (1, 4), (1, 1), (0, 1), (4, 1), (0, 1), (0x1000, 4), (0x1000, 4), (1, 4),
    (0xFFFF, 2), (0, 2), (0, 8), (0, 8), (2 ^ 32 + 0x100000, 8)])

/-- The table entries that map the 2 MiB page at 2^32 to physical 0x200000, with every permission. -/
def bootTables (m : Memory) : Memory :=
  bytesSet (bytesSet (bytesSet (bytesSet m 0x10000 8 0x11001) 0x11000 8 0x12001) 0x12020 8 0x13001) 0x13000 8 0x20007D

/-- A ready device with a context and a resident group: what the host's commands, a launch and a placement lead to. -/
def boot (s : State) : State :=
  let num := ((List.range 65536).find? (fun n => (getCtx s n).isNone)).getD 0
  let pad (o : Nat) : List Nat := (List.range 4).map (fun k => 0x80000000000 + k * 2 ^ 30 + o)
  let c : Context := { num := num, root := 0x10000, save := 0x20000, faultRec := 0x40000, scratch := pad 0, scratchSize := 0x100000,
                       pool := pad 0x100000, poolSize := 0x100000 }
  let s := { s with device := 1, contexts := s.contexts ++ [c], mem := bootTables s.mem }
  let (n, s) := startGrid s num bootRecord 0 0xFFFF 0 none 0
  match getGrid s n with
  | none => s
  | some g => startIndex (setGrid s { g with tickets := [] }) g 0 0

/-- The state in which the next step fetches the word `w`. -/
def placeWord (s : State) (w : Nat) : State :=
  let s := if (fetchGroup s).isSome then s else boot s
  match fetchGroup s with
  | some (g, p) => nextToRun { s with mem := bytesSet s.mem p 4 w, bad := s.bad.filter (· != p / partSize p * partSize p) } g
  | none => s

end Sys2Proof.Machine
end

