-- ==== Sys2Proof/Machine/Step.lean ====
section
/-! DEFINITION. One step of the device, and the placing of a word where the next step fetches. -/

namespace Sys2Proof.Machine

/-- One step: the agenda's head, else a turn that the device may take; with none, time passes. -/
def step (s : State) : Host.Outcome State Fault Refusal :=
  match s.agenda with
  | t :: rest => runTurn t { s with agenda := rest, tick := s.tick + 1 }
  | [] =>
    match chosenTurn s with
    | some t => runTurn t { s with tick := s.tick + 1 }
    | none => .next { s with tick := s.tick + 1 }

/-- `s` with the instruction of `nbits` bits `w` where the next step fetches its word. -/
def State.withFetchWord (s : State) (nbits w : Nat) : State := placeWord s (w % 2 ^ nbits)

end Sys2Proof.Machine
end

