-- ==== Sys2Proof/Safety.lean ====
section
/-! DEFINITION. What a safe run is, and the notions in which statements about the machine are made: a word that meets no
cause of a fault before its own work, how a word ends in sequence, what a vector and a scalar result leave, and what of the
device a step leaves alone. -/

namespace Sys2Proof.Machine

/-- A state from which the machine goes on. -/
def Runs (s : State) : Prop := ∃ t, step s = .next t

/-- A safe run of k steps: the machine goes on at each of them. -/
def SafeFor : Nat → State → Prop
  | 0, _ => True
  | k + 1, s => ∃ t, step s = .next t ∧ SafeFor k t

/-! ### A word that nothing stops before its own work -/

/-- A fresh word of the current group, before its operands are captured. -/
def freshIssue (i : Instr) (s : State) (g : Group) (w : Word) : Issue :=
  { s := s, g := g, i := i, fresh := true, e := { word := w, addr := g.pc, active := 0, mode := g.mode } }

/-- The word as it issues, with its operands captured, where the current group has nothing queued and the word meets none of
the causes of 03 R63, reads no dropped register (08 R165) and writes no frozen one (08 R160); else none. `plan` is what the
instruction asks for. -/
def readyIssue (i : Instr) (s : State) (plan : Issue → Plan) (places : List Place) : Option Issue :=
  match s.cur.bind (getGroup s), encode i with
  | some g, some w =>
    let x := freshIssue i s g w
    let p := plan x
    let l := p.placesOr places
    let reads := p.reads i l 7
    if g.rq.isEmpty && (checkPlan g i w p reads 7).isNone && !(reads.any (isDropped g)) && (frozenWrite g p).isNone then
      let lanes := if p.vec || p.byLane then p.active else emSet g
      let e := { x.e with active := lanes, whole := lanes, cond0 := p.cond0, cond1 := p.cond1, vec := p.vec }
      some { x with e := captureAll g i p l 7 e }
    else none
  | _, _ => none

/-- The same of a group none of whose registers holds an uncorrectable error (21 R361). -/
def cleanIssue (i : Instr) (s : State) (plan : Issue → Plan) (places : List Place) : Option Issue :=
  match readyIssue i s plan places with
  | some x => if x.g.badRegs = [] then some x else none
  | none => none

/-- The first of the causes of 03 R63, or a frozen register, that stops a fresh word which reads no dropped register. -/
def issueFault (i : Instr) (s : State) (g : Group) (w : Word) (plan : Issue → Plan) (places : List Place) : Option FaultInfo :=
  let p := plan (freshIssue i s g w)
  let l := p.placesOr places
  match checkPlan g i w p (p.reads i l 7) 7 with
  | some f => some f
  | none => frozenWrite g p

/-! ### How a word ends -/

/-- The run ends with this word (03 R53): its end bit, or the 24th word. -/
def runEnds (x : Issue) : Bool := x.e.word.getLsbD 25 || decide (24 ≤ x.g.runCount + 1)

/-- The group that a word leaves when it ends in sequence: `g` is the issuing group with the word's own changes. The next
word follows; a run that ends forgets its words, empties the latches and gives up its slot (03 R53, R54), unless the group waits
for an answer that the run holds its slot for: the word then stands for the run until the answer (05 R98, 12 R247). -/
def sequenced (x : Issue) (g : Group) : Group :=
  if runEnds x then
    if g.wait.any keepsSlot then
      { g with pc := x.g.pc + 4, runCount := 0, runWords := [x.e.word], latch := (.empty, .empty, .empty), detached := false }
    else
      { g with
        pc := x.g.pc + 4, runCount := 0, runWords := [], latch := (.empty, .empty, .empty), slot := none, detached := false }
  else { g with pc := x.g.pc + 4, runCount := x.g.runCount + 1, runWords := x.e.word :: x.g.runWords }

/-- The group that a taken transfer leaves (03 R53): its run has ended, and it goes on at the target. -/
def transferred (g : Group) (target : Nat) : Group :=
  { g with
    pc := BitVec.ofNat 64 target, runCount := 0, runWords := [], latch := (.empty, .empty, .empty), slot := none
    detached := false }

/-- What a lane of a destination register holds where a word does not write it: its value, or zero for a dropped register,
whose recipe the write ends (08 R157). -/
def keptLane (g : Group) (r i : Nat) : Nat := if isDropped g r then 0 else vGet g r i

/-- The vector registers after a vector result `f` in register r, or in the pair r, r + 1 (03 R55, R59): with t = 1 no
register changes. -/
def VecWritten (x : Issue) (v : Cells 32) (t : Bool) (r : Nat) (pair : Bool) (f : Nat → Nat) : Prop :=
  if t then v = x.g.v
  else
    (∀ i, i < 64 → i < x.g.width →
      let at_ (k : Nat) : Nat := (cellGet v (k * 64 + i)).toNat
      if x.e.active.getLsbD i then at_ r = f i % 2 ^ 32 ∧ (pair = true → at_ (r + 1) = f i / 2 ^ 32 % 2 ^ 32)
      else if zeroFlag x.g.mode then at_ r = 0 ∧ (pair = true → at_ (r + 1) = 0)
      else at_ r = keptLane x.g r i ∧ (pair = true → at_ (r + 1) = keptLane x.g (r + 1) i)) ∧
    (∀ k i, i < 64 → k ≠ r → ¬(pair = true ∧ k = r + 1) → (cellGet v (k * 64 + i)).toNat = vGet x.g k i)

/-- A register is reached by a word whether or not it writes it: no extended one, or one that is held, and dropped only where
the write ends its recipe (03 R55, 08 R157). -/
def keeps (g : Group) (t : Bool) (r : Nat) : Prop := isExt r = true → isHeld g r = true ∧ (isDropped g r = true → t = false)

/-- The latches after a vector result: in the first latch the value that each lane of the destination would hold, the excluded
lanes included, and the two latches before it (03 R54, R59). -/
def VecLatched (x : Issue) (l : Latch × Latch × Latch) (t : Bool) (r : Nat) (pair : Bool) (f : Nat → Nat) : Prop :=
  ∃ vals, l = (.full true vals, x.g.latch.1, x.g.latch.2.1) ∧
    ∀ i, i < x.g.width →
      if x.e.active.getLsbD i then (cellGet vals i).toNat = f i % 2 ^ 64
      else if zeroFlag x.g.mode then cellGet vals i = 0
      else keeps x.g t r → (pair = true → keeps x.g t (r + 1)) →
        (cellGet vals i).toNat = keptLane x.g r i + if pair then 2 ^ 32 * keptLane x.g (r + 1) i else 0

/-- The scalar registers after a scalar result in register r (03 R55). -/
def ScalarWritten (x : Issue) (m : Cells 64) (t : Bool) (r : Nat) (value : Nat) : Prop :=
  if t then m = x.g.s
  else (cellGet m r).toNat = value % 2 ^ 64 ∧ ∀ k, k ≠ r → cellGet m k = cellGet x.g.s k

/-- The latches after a scalar result (03 R54). -/
def ScalarLatched (x : Issue) (l : Latch × Latch × Latch) (value : Nat) : Prop :=
  ∃ vals, l = (.full false vals, x.g.latch.1, x.g.latch.2.1) ∧ (cellGet vals 0).toNat = value % 2 ^ 64

/-- A fresh word ends in sequence with a vector result `f` in register r (or the pair r, r + 1): the exact next state. `s0` is
the state with the word's other changes outside its group, and `g` the group with its other changes. -/
def VecResult (i : Instr) (s s0 : State) (x : Issue) (g : Group) (t : Bool) (r : Nat) (pair : Bool) (f : Nat → Nat) : Prop :=
  ∃ v l, exec i s = .next (setGroup (afterWriteState s0 g t r pair)
      (sequenced x { afterWrite g t r pair with v := v, latch := l })) ∧
    VecWritten x v t r pair f ∧ VecLatched x l t r pair f

/-- A fresh word ends in sequence with a scalar result in register r: the exact next state. -/
def ScalarResult (i : Instr) (s s0 : State) (x : Issue) (g : Group) (t : Bool) (r : Nat) (value : Nat) : Prop :=
  ∃ m l, exec i s = .next (setGroup s0 (sequenced x { g with s := m, latch := l })) ∧
    ScalarWritten x m t r value ∧ ScalarLatched x l value

/-- A fresh word ends in sequence with conditions `f` in condition register q, in the lanes of `lanes` below 64; every other
lane and register keeps its condition (09 R187). -/
def CondResult (i : Instr) (s : State) (x : Issue) (q : Nat) (lanes : Nat → Bool) (f : Nat → Cond) : Prop :=
  ∃ m, exec i s = .next (setGroup s (sequenced x { x.g with q := m })) ∧
    (∀ k, k ≠ q → cellGet m k = cellGet x.g.q k) ∧
    ∀ k, k < 64 → condAt (cellGet m q) k = if lanes k then f k else condAt (cellGet x.g.q q) k

/-- A fresh word ends in sequence and changes its group only to `g`: the exact next state. -/
def GroupResult (i : Instr) (s : State) (x : Issue) (g : Group) : Prop := exec i s = .next (setGroup s (sequenced x g))

/-- A fresh word ends in sequence with the changes of `s0`: the exact next state. -/
def StateResult (i : Instr) (s s0 : State) (x : Issue) : Prop :=
  exec i s = .next (setGroup s0 (sequenced x ((getGroup s0 x.g.id).getD x.g)))

/-- A fresh word waits: it is queued with its operands, the program counter has passed it, and its group runs it again once
the wait has ended. `s0` is the state with what the word has done. -/
def WaitResult (i : Instr) (s s0 : State) (x : Issue) (w : Wait) : Prop :=
  let g := (getGroup s0 x.g.id).getD x.g
  exec i s = .next (setGroup s0 { g with
    pc := x.g.pc + 4, runCount := g.runCount + 1, runWords := x.e.word :: g.runWords, rq := [x.e], wait := some w
    slot := (if keepsSlot w then g.slot else none), detached := !keepsSlot w && !suspends w, serial := s0.tick
    granted := false })

/-- A fresh word faults: it is the one entry of the queue, with its operands, and the fault is taken (21 R342, R346). `s0`
is the state with what the word has done. -/
def FaultResult (i : Instr) (s s0 : State) (x : Issue) (f : FaultInfo) : Prop :=
  exec i s = .next (takeFault s0 { (getGroup s0 x.g.id).getD x.g with
    pc := x.g.pc + 4, runCount := x.g.runCount + 1, runWords := x.e.word :: x.g.runWords } f
    [{ x.e with faulting := true }] 0 x.g.pc (x.g.pc + 4))

/-- A fresh word transfers to a target with its group changed to `g`: the exact next state. -/
def TransferResult (i : Instr) (s : State) (g : Group) (target : Nat) : Prop :=
  exec i s = .next (setGroup s (transferred g target))

/-- A group without an extended unit: its contents are lost, the tagged registers of the unit are dropped (08 R155). -/
def unitReleased (g : Group) (k : Nat) : Group :=
  { g with dropped := g.dropped ||| (g.tagged &&& unitMask k), held := g.held &&& ~~~((1 : BitVec 4) <<< k),
           v := cellClear g.v ((64 + 32 * k) * 64) (32 * 64) }

/-! ### Elements -/

/-- The element-wise instructions (09 R169 to R183): two operands, three, an immediate, a conversion, one operand. -/
def isElem (i : Instr) : Bool := (laneOp i (.raw 32) (roundMode 0) 0 0 0 0).isSome

/-- The result of an element-wise word in a lane, on its captured operands. -/
def elemRes (x : Issue) (k : Nat) : LRes :=
  let t := typeOf x.g.mode x.e.vec
  (laneOp x.i t (roundMode x.g.mode) (rngOf x.g k) (srcVal x.e x.i.form.a x.e.slotA (srcType x.i t) k)
    (srcVal x.e x.i.form.b x.e.slotB t k) (srcVal x.e x.i.form.d x.e.slotD t k)).getD { code := 0, s := rngOf x.g k }

/-- The events of an element-wise word: of its active lanes, or of its one scalar element. -/
def elemEvents (x : Issue) : Events :=
  if x.e.vec then sumEvents ((lanesOf x.e.active x.g.width).map (fun k => (k, elemRes x k))) else (elemRes x 0).events

/-- The word works at 64 bits a lane, in a register pair (02 R23). -/
def isWide (x : Issue) : Bool := (typeOf x.g.mode true).width == 64

/-! ### Rounding -/

/-- The value of a magnitude code of a binary format of precision p, in units of its smallest step: the subnormals step by one,
and each binade above by twice the step of the one below (02 R26, R29). Above the largest finite code the grid goes on so (02
R34). -/
def gridUnits (p mag : Nat) : Nat :=
  let h := 2 ^ (p - 1)
  if mag < h then (if p = 1 then 0 else mag) else (h + mag % h) * 2 ^ (mag / h - 1)

/-- How many of those units make one, as a power of two. -/
def Ty.unitBits (t : Ty) : Nat := ((t.prec - 1 : Nat) - t.emin : Int).toNat

/-- The magnitude x / d is brought to the place `mag` of a grid `u` under a rounding mode, and the stochastic state to s' (02
R33, R37): `lo` is the place at or below it. -/
def RoundsTo (u : Nat → Nat) (rm : Nat) (neg : Bool) (x d s mag s' : Nat) : Prop :=
  ∃ lo, u lo * d ≤ x ∧ x < u (lo + 1) * d ∧
    let exact_ : Prop := x = u lo * d
    let middle := (u lo + u (lo + 1)) * d
    let takes (up : Prop) : Prop := (up → mag = lo + 1) ∧ (¬up → mag = lo)
    s' = (if rm = 6 then rngStep s else s) ∧
    (rm = 0 → takes (middle < 2 * x ∨ 2 * x = middle ∧ lo % 2 = 1)) ∧
    (rm = 1 → takes False) ∧
    (rm = 2 → takes (¬exact_ ∧ neg = false)) ∧
    (rm = 3 → takes (¬exact_ ∧ neg = true)) ∧
    (rm = 4 → takes (middle ≤ 2 * x)) ∧
    (rm = 5 → takes (¬exact_ ∧ lo % 2 = 0)) ∧
    (rm = 6 → takes (s' < (x - u lo * d) * 2 ^ 32 / ((u (lo + 1) - u lo) * d)))

/-- The same to nearest-even and to odd at precision 1, where every significand of a normal number is 1 (02 R33): a tie between two
places goes up, but for one below the smallest number, and to odd gives the smallest number below it and the lower place elsewhere
(DEDUCED, log 11). -/
def RoundsAtOne (rm : Nat) (x d mag : Nat) : Prop :=
  ∃ lo, gridUnits 1 lo * d ≤ x ∧ x < gridUnits 1 (lo + 1) * d ∧
    let middle := (gridUnits 1 lo + gridUnits 1 (lo + 1)) * d
    (rm = 0 → mag = if middle < 2 * x ∨ (2 * x = middle ∧ lo ≠ 0) then lo + 1 else lo) ∧
    (rm = 5 → mag = if lo = 0 ∧ x ≠ 0 then 1 else lo)

/-- A signed magnitude as an integer. -/
def signedInt (neg : Bool) (n : Nat) : Int := if neg then -(n : Int) else n

/-! ### Memory -/

/-- A byte location lies among the `n` bytes from another. -/
def Loc.within (l l0 : Loc) (n : Nat) : Bool :=
  match l, l0 with
  | .team t o, .team t' o' => t == t' && decide (o' ≤ o) && decide (o < o' + n)
  | .phys a, .phys a' => decide (a' ≤ a) && decide (a < a' + n)
  | _, _ => false

/-- Two locations lie in one granule of 16 bytes (07 R138). -/
def Loc.sameGranule (l l0 : Loc) : Bool :=
  match l, l0 with
  | .team t o, .team t' o' => t == t' && o / 16 == o' / 16
  | .phys a, .phys a' => a / 16 == a' / 16
  | _, _ => false

/-- A group's accesses follow every write that is kept: its next store takes the latest place in the order of writes (13 R262, 24
R363). -/
def InOrder (s : State) (g : Group) : Prop := apart g.arms g.arms = false ∧ ∀ r ∈ s.past, (groupView s g).knows r = true

/-- A state after stores: nothing but bytes, their full/empty bits, their errors and the record of writes has changed. -/
def OnlyStored (s t : State) : Prop :=
  t = { s with mem := t.mem, fe := t.fe, bad := t.bad, teams := t.teams, past := t.past, age := t.age } ∧
  t.teams.map (fun y => { y with mem := [], memFe := [], bad := [] }) =
    s.teams.map (fun y => { y with mem := [], memFe := [], bad := [] })

/-- The invariant of memory: its canonical form. -/
def MemInv (s : State) : Prop := Memory.wf s.mem = true

end Sys2Proof.Machine
end

