-- ==== Sys2Proof/Certificates/Slice0/Obligations.lean ====
section
/-! DEFINITION. The statements about the machine, for the provers. A statement about a word speaks of a fresh word that meets
none of the causes of 03 R63 (`cleanIssue`), and gives the exact next state: what stands in no equation has not changed. -/

open Sys2Proof Sys2Proof.Machine

/-! ### Vector and scalar arithmetic (09) -/

/-- The element-wise words in every form that raises no cause of 03 R63: `add`, `sub`, `mul`, `div`, `fma`, `fms`, `min`, `max`,
`mulhi`, `and`, `or`, `xor`, `shl`, `shr`, `sar`, `coal`, `li`, `lih`, `addi`, `cvt`, `mov`, `neg`, `abs`, `sqrt`, `rsqrt`,
`recip`, `exp2`, `log2`, `sin`, `cos`, `tanh`, `sigm`, `floor`, `ceil`, `trunc`, `rint`, `frac`, `popc`, `clz` and `not`. A vector
word completes: each active lane holds its element's result, an inactive lane is kept or zeroed, the result enters the latches,
each active lane's stochastic state moves on, the events are charged, and nothing else of the device changes. A scalar word does
the same with one element, in a scalar register. A queued word whose operands are captured runs again under its entry's mode, on
its captured operands, in the lanes from its entry's first one on, and leaves the queue (09 R169, 03 R52 to R55, R59, 21 R349). -/
def Obligations.ElementwiseResults : Prop :=
  (∀ (i : Instr) (s : State) (x : Issue), isElem i = true → cleanIssue i s planElem [] = some x → x.e.vec = true →
     ∃ rng, (∀ k, (cellGet rng k).toNat =
         if k < x.g.width ∧ x.e.active.getLsbD k then (elemRes x k).s % 2 ^ 32 else rngOf x.g k) ∧
       VecResult i s (chargeGroup s x.g (elemEvents x)) x { x.g with rng := rng } i.form.t (destReg i.form.d) (isWide x)
         (fun k => (elemRes x k).code)) ∧
  (∀ (i : Instr) (s : State) (x : Issue), isElem i = true → cleanIssue i s planElem [] = some x → x.e.vec = false →
     ∃ rng, (cellGet rng 0).toNat = (elemRes x 0).s % 2 ^ 32 ∧ (∀ k, k ≠ 0 → cellGet rng k = cellGet x.g.rng k) ∧
       ScalarResult i s (chargeGroup s x.g (elemEvents x)) x { x.g with rng := rng } i.form.t (destReg i.form.d)
         (elemRes x 0).code) ∧
  (∀ (i : Instr) (s : State) (g : Group) (e : Entry) (es : List Entry), isElem i = true → s.cur.bind (getGroup s) = some g →
     g.rq = e :: es → encode i = some e.word → e.captured = 7 → e.tag = 0 → e.lanesDone = 0 → g.badRegs = [] → g.width ≤ 64 →
     let old : Issue := { s := s, g := { g with mode := e.mode }, i := i, e := e.resumed, fresh := false }
     let p := planElem old
     checkPlan g i e.word p (p.reads i (p.placesOr []) 0) 0 = none → frozenWrite g p = none →
     let x : Issue := { old with e := { old.e with vec := p.vec } }
     let r := destReg i.form.d
     ∃ u g', exec i s = .next u ∧ getGroup u g.id = some g' ∧ g'.rq = es ∧ g'.pc = g.pc ∧ g'.granted = false ∧ u.mem = s.mem ∧
       (i.form.t = false → p.vec = true → ∀ k, k < g.width →
         (e.active.getLsbD k = true → e.first ≤ k → vGet g' r k = (elemRes x k).code % 2 ^ 32) ∧
         (k < e.first → e.active.getLsbD k = true → vGet g' r k = keptLane g r k)) ∧
       (i.form.t = false → p.vec = false → sGet g' r = (elemRes x 0).code % 2 ^ 64))

/-- The result of integer arithmetic on present operands: `add`, `sub`, `mul` and `addi` give the exact value brought into the range
by clamping, with one saturation event where it clamps and no other event; `div` gives the quotient truncated toward zero, with no
event, and by zero the maximum of the dividend's sign with a saturation event, or 0 with none where the dividend is 0; an absent
operand makes an absent result, an absent event (09 R171, R176, 02 R24, R45). At a raw type the same words work modulo 2^w, and
`div` on unsigned values, all ones by zero. At a float or binary8 type, finite operands make the exact sum, difference, product or
quotient, a zero of the sign that 09 R171 names, which is brought to the type's grid by the mode's rounding: to the nearest place, a
tie to the even one or away, toward zero, up, down, to odd, or by the stochastic state; beyond the largest finite value it is that
value, an infinity or a NaN by the mode, and a subnormal result is zero under the flush bit. A value converted to an integer is
rounded on the integers and clamped (02 R26, R29, R33 to R35, R37, R38, 09 R171, R177). How nearest-even and to odd decide at
precision 1 is the model's choice (log 11). -/
def Obligations.IntegerArithmetic : Prop :=
  (∀ (e tt : Bool) (d a b : Opnd) (imm : BitVec 16) (signed : Bool) (w : Nat) (m : RMode) (st x y z : Nat),
    w = 8 ∨ w = 16 ∨ w = 32 ∨ w = 64 →
    let t := Ty.int signed w
    let hi : Int := if signed then 2 ^ (w - 1) - 1 else 2 ^ w - 2
    let lo : Int := if signed then -(2 ^ (w - 1) - 1) else 0
    let clamp (v : Int) : Int := max lo (min hi v)
    let gives (i : Instr) (v : Int) (sat : Nat) : Prop :=
      ∃ r, laneOp i t m st x y z = some r ∧ intOf t r.code = v ∧ r.events = { sat := sat }
    let clamps (i : Instr) (v : Int) : Prop := gives i (clamp v) (if clamp v = v then 0 else 1)
    x < 2 ^ w → y < 2 ^ w → z < 2 ^ w →
    (t.present x = true → t.present y = true →
      clamps (.add e tt d a b) (intOf t x + intOf t y) ∧
      clamps (.sub e tt d a b) (intOf t x - intOf t y) ∧
      clamps (.mul e tt d a b) (intOf t x * intOf t y) ∧
      (intOf t y ≠ 0 → gives (.div e tt d a b) (Int.tdiv (intOf t x) (intOf t y)) 0) ∧
      (intOf t y = 0 → gives (.div e tt d a b) (if intOf t x = 0 then 0 else if intOf t x < 0 then lo else hi)
        (if intOf t x = 0 then 0 else 1))) ∧
    (t.present z = true → clamps (.addi e tt d imm) (intOf t z + imm.toInt)) ∧
    (t.present x = false ∨ t.present y = false → ∀ i ∈ [Instr.add e tt d a b, .sub e tt d a b, .mul e tt d a b, .div e tt d a b],
      ∃ r, laneOp i t m st x y z = some r ∧ r.code = t.na ∧ r.events = { absent := 1 }) ∧
    (t.present z = false → ∃ r, laneOp (.addi e tt d imm) t m st x y z = some r ∧ r.code = t.na ∧ r.events = { absent := 1 }) ∧
    let raw (i : Instr) (v : Int) : Prop := ∃ r, laneOp i (.raw w) m st x y z = some r ∧ (r.code : Int) = v ∧ r.events = {}
    raw (.add e tt d a b) ((x + y) % 2 ^ w) ∧ raw (.sub e tt d a b) (((x : Int) - y) % 2 ^ w) ∧
    raw (.mul e tt d a b) (x * y % 2 ^ w) ∧ raw (.addi e tt d imm) ((z + imm.toInt) % 2 ^ w) ∧
    raw (.div e tt d a b) (if y = 0 then 2 ^ w - 1 else (x / y : Nat))) ∧
  (∀ (c : Nat) (t : Ty) (m : RMode) (st n d : Nat) (neg : Bool), Ty.ofCode c = some t → t.isF8 = true → 0 < n → 0 < d → m.rm < 7 →
    (neg = true → t.isUB8 = false) →
    let r := deliver t m st (.fin neg n d)
    let largest := t.signed neg (t.maxMag neg)
    let stays := m.sat = true ∨ m.rm = 1 ∨ m.rm = 5 ∨ (m.rm = 2 ∧ neg = true) ∨ (m.rm = 3 ∧ neg = false)
    let one := t.prec = 1 ∧ (m.rm = 0 ∨ m.rm = 5)
    ∃ mag, (¬one → RoundsTo (gridUnits t.prec) m.rm neg (n * 2 ^ t.unitBits) d st mag r.s) ∧
      (one → RoundsAtOne m.rm (n * 2 ^ t.unitBits) d mag ∧ r.s = st) ∧
      (t.maxMag neg < mag → (stays → r.code = largest) ∧
        (¬stays → r.code = if t.hasInf then t.infCode neg else t.nanCode) ∧ (r.sat = true ↔ m.sat = true)) ∧
      (mag ≤ t.maxMag neg → r.sat = false ∧
        (r.code = if m.flush = true ∧ t ≠ .flt 11 44 ∧ mag ≠ 0 ∧ mag < 2 ^ (t.prec - 1) then t.signed neg 0 else t.signed neg mag))) ∧
  (∀ (c : Nat) (t : Ty) (m : RMode) (st n d : Nat) (neg : Bool), Ty.ofCode c = some t → t.isInt = true → 0 < d → m.rm < 7 →
    let r := deliver t m st (.fin neg n d)
    ∃ mag, RoundsTo id m.rm neg n d st mag r.s ∧ intOf t r.code = max t.intMin (min t.intMax (signedInt neg mag)) ∧
      (r.sat = true ↔ intOf t r.code ≠ signedInt neg mag)) ∧
  (∀ (c : Nat) (t : Ty) (flush neg : Bool) (x n d : Nat), Ty.ofCode c = some t → t.isF8 = true → x < 2 ^ t.width →
    valOf t flush x = .fin neg n d → 0 < d ∧ neg = (splitCode t x).1 ∧
      (flush = false → n * 2 ^ t.unitBits = gridUnits t.prec (splitCode t x).2 * d)) ∧
  ∀ (c : Nat) (t f : Ty) (m : RMode) (st x y na da nb db : Nat) (sa sb : Bool), Ty.ofCode c = some t → t.isF8 = true →
    valOf t m.flush x = .fin sa na da → valOf t m.flush y = .fin sb nb db →
    let a := signedInt sa na
    let b := signedInt sb nb
    let gives (o : Op2) (num : Int) (den : Nat) (zero : Bool) : Prop :=
      ∃ s n d, 0 < d ∧ op2 o t m st x y = deliver t m st (.fin s n d) ∧ signedInt s n * den = num * d ∧ (n = 0 → s = zero)
    gives .add (a * db + b * da) (da * db) (if sa = sb then sa else decide (m.rm = 3)) ∧
      gives .sub (a * db - b * da) (da * db) (if sa ≠ sb then sa else decide (m.rm = 3)) ∧
      gives .mul (a * b) (da * db) (sa != sb) ∧
      (nb ≠ 0 → gives .div (a * db * (if sb then -1 else 1)) (da * nb) (sa != sb)) ∧
      (nb = 0 → na ≠ 0 → op2 .div t m st x y = deliver t m st (.inf (sa != sb))) ∧
      (f ≠ t → f.isRaw = false → convert t f m st x = deliver f m st (.fin sa na da))

/-- The logic and the shifts at raw types: bit k of the result of `and`, `or` and `xor`; a shift by n of bit k, with zeros, or for
`sar` copies of the top bit, coming in, whatever the amount; no event (09 R175). `popc`, `clz` and `not` by bits (09 R182), and
`coal`, which gives its first operand at a raw type (09 R183). -/
def Obligations.RawLogic : Prop :=
  ∀ (e tt : Bool) (d a b : Opnd) (w : Nat) (m : RMode) (st x y z : Nat), w = 8 ∨ w = 16 ∨ w = 32 ∨ w = 64 →
    x < 2 ^ w → y < 2 ^ w →
    let bits (i : Instr) (f : Nat → Bool) : Prop :=
      ∃ r, laneOp i (.raw w) m st x y z = some r ∧ r.events = {} ∧ r.code < 2 ^ w ∧ ∀ k, k < w → r.code.testBit k = f k
    bits (.and e tt d a b) (fun k => x.testBit k && y.testBit k) ∧
    bits (.or e tt d a b) (fun k => x.testBit k || y.testBit k) ∧
    bits (.xor e tt d a b) (fun k => x.testBit k != y.testBit k) ∧
    bits (.shl e tt d a b) (fun k => decide (y ≤ k) && x.testBit (k - y)) ∧
    bits (.shr e tt d a b) (fun k => x.testBit (k + y)) ∧
    bits (.sar e tt d a b) (fun k => if k + y < w then x.testBit (k + y) else x.testBit (w - 1)) ∧
    bits (.not e tt d a) (fun k => !x.testBit k) ∧
    bits (.coal e tt d a b) (fun k => x.testBit k) ∧
    (∃ r, laneOp (.popc e tt d a) (.raw w) m st x y z = some r ∧ r.events = {} ∧
      r.code = ((List.range w).filter (fun k => x.testBit k)).length) ∧
    (∃ r, laneOp (.clz e tt d a) (.raw w) m st x y z = some r ∧ r.events = {} ∧ r.code ≤ w ∧
      (∀ k, w - r.code ≤ k → x.testBit k = false) ∧ (r.code < w → x.testBit (w - 1 - r.code) = true))

/-- The results of `fma`, `fms`, `min`, `max`, `mulhi`, `neg` and `abs` lane by lane. `fma` is c + a × b and `fms` a × b − c with
one rounding at a float or binary8 type, clamped at an integer type and modulo 2^w at a raw one; 0 × ∞, and an infinite product
with an infinite addend against it, is the default NaN with a NaN event; a NaN among the sources makes it without one (where 0 × ∞
meets a NaN that is the model's reading, log 62). `min` and `max` give one of their operands as read, by value, −0 below +0, a NaN
only where both are (at e8m0 where one is), with no event. `mulhi` is the high half of the product. `neg` and `abs` are exact; the
negative of a non-zero unsigned value is 0 with a saturation event; at a float type only the sign changes; a signed binary8 value
whose negative is no finite value overflows, and the negative of a non-zero unsigned binary8 value is 0 or NaN by the saturate bit.
An absent operand makes an absent result and an absent event (09 R171 to R174, R179, 02 R24, R28, R34, R35, R38, R45). -/
def Obligations.ElementValues : Prop :=
  ∀ (e tt : Bool) (d a b : Opnd) (m : RMode) (st x y z : Nat),
    let gives (t : Ty) (i : Instr) (code : Nat) (ev : Events) : Prop :=
      ∃ r, laneOp i t m st x y z = some r ∧ r.code = code ∧ r.events = ev ∧ r.s = st
    let fma := Instr.fma e tt d a b
    let fms := Instr.fms e tt d a b
    let least := Instr.min e tt d a b
    let most := Instr.max e tt d a b
    let two := [least, most]
    (∀ t : Ty, t.isRaw = false →
      (x = t.na ∨ y = t.na → ∀ i ∈ [fma, fms, least, most, Instr.mulhi e tt d a b], gives t i t.na { absent := 1 }) ∧
      (z = t.na → ∀ i ∈ [fma, fms], gives t i t.na { absent := 1 }) ∧
      (x = t.na → ∀ i ∈ [Instr.neg e tt d a, .abs e tt d a], gives t i t.na { absent := 1 })) ∧
    (∀ (signed : Bool) (w : Nat), (w = 8 ∨ w = 16 ∨ w = 32 ∨ w = 64) → x < 2 ^ w → y < 2 ^ w → z < 2 ^ w →
      let t := Ty.int signed w
      let hi : Int := if signed then 2 ^ (w - 1) - 1 else 2 ^ w - 2
      let lo : Int := if signed then -(2 ^ (w - 1) - 1) else 0
      let clamps (i : Instr) (v : Int) : Prop := ∃ r, laneOp i t m st x y z = some r ∧ intOf t r.code = max lo (min hi v) ∧
        r.events = { sat := if lo ≤ v ∧ v ≤ hi then 0 else 1 }
      (t.present x = true → t.present y = true → t.present z = true →
        clamps fma (intOf t z + intOf t x * intOf t y) ∧ clamps fms (intOf t x * intOf t y - intOf t z)) ∧
      (t.present x = true → t.present y = true →
        gives t least (if intOf t y < intOf t x then y else x) {} ∧ gives t most (if intOf t x < intOf t y then y else x) {} ∧
        ∃ r, laneOp (.mulhi e tt d a b) t m st x y z = some r ∧ intOf t r.code = intOf t x * intOf t y / 2 ^ w ∧ r.events = {}) ∧
      (t.present x = true →
        clamps (.neg e tt d a) (-intOf t x) ∧ clamps (.abs e tt d a) (intOf t x).natAbs) ∧
      let raw (i : Instr) (v : Int) : Prop := ∃ r, laneOp i (.raw w) m st x y z = some r ∧ (r.code : Int) = v ∧ r.events = {}
      raw fma ((z + x * y) % 2 ^ w) ∧ raw fms (((x : Int) * y - z) % 2 ^ w) ∧ raw least (min x y) ∧ raw most (max x y) ∧
      raw (.mulhi e tt d a b) (x * y / 2 ^ w) ∧ raw (.neg e tt d a) (-(x : Int) % 2 ^ w)) ∧
    (x < 256 → y < 256 → x ≠ 0 → y ≠ 0 →
      if x = 0xFF ∨ y = 0xFF then ∀ i ∈ two, gives .e8m0 i 0xFF {}
      else gives .e8m0 least (min x y) {} ∧ gives .e8m0 most (max x y) {}) ∧
    ∀ (c : Nat) (t : Ty), Ty.ofCode c = some t → t.isF8 = true → x < 2 ^ t.width → y < 2 ^ t.width → z < 2 ^ t.width →
      let va := valOf t m.flush x
      let vb := valOf t m.flush y
      let vc := valOf t m.flush z
      let read (v : Val) (code : Nat) : Nat := match v with | .fin s 0 _ => t.signed s 0 | .nan => t.nanCode | _ => code
      let bad (i : Instr) : Prop := gives t i t.nanCode { nan := 1 }
      let delivers (i : Instr) (v : Val) : Prop := laneOp i t m st x y z = some (deliver t m st v)
      -- the sum
      (va ≠ .na → vb ≠ .na → vc ≠ .na → va = .nan ∨ vb = .nan ∨ vc = .nan → ∀ i ∈ [fma, fms], gives t i t.nanCode {}) ∧
      (∀ i s, (i, s) ∈ [(fma, false), (fms, true)] →
        (∀ sa na da sb nb db sc nc dc, va = .fin sa na da → vb = .fin sb nb db → vc = .fin sc nc dc →
          let product := signedInt sa na * signedInt sb nb * dc
          let addend := signedInt (sc != s) nc * (da * db)
          ∃ sr n den, 0 < den ∧ delivers i (.fin sr n den) ∧ signedInt sr n * (da * db * dc) = (product + addend) * den ∧
            (n = 0 → sr = if (sa != sb) = (sc != s) then sc != s else decide (m.rm = 3))) ∧
        (∀ sa na da sb nb db sc, va = .fin sa na da → vb = .fin sb nb db → vc = .inf sc → delivers i (.inf (sc != s))) ∧
        (∀ sa sb, (va = .inf sa ∧ (vb = .inf sb ∨ ∃ n den, n ≠ 0 ∧ vb = .fin sb n den)) ∨
            (vb = .inf sb ∧ ∃ n den, n ≠ 0 ∧ va = .fin sa n den) →
          ((∃ sc n den, vc = .fin sc n den) ∨ vc = .inf ((sa != sb) != s) → delivers i (.inf (sa != sb))) ∧
          (vc = .inf (!((sa != sb) != s)) → bad i)) ∧
        (∀ sa sb den, (va = .inf sa ∧ vb = .fin sb 0 den) ∨ (vb = .inf sb ∧ va = .fin sa 0 den) →
          vc ≠ .na → vc ≠ .nan → bad i)) ∧
      -- the choice
      (va = .nan → vb ≠ .na → ∀ i ∈ two, gives t i (read vb y) {}) ∧
      (vb = .nan → va ≠ .na → ∀ i ∈ two, gives t i (read va x) {}) ∧
      (∀ s, va = .inf s → vb ≠ .na → vb ≠ .nan →
        gives t least (if s then x else read vb y) {} ∧ gives t most (if s then read vb y else x) {}) ∧
      (∀ s, vb = .inf s → va ≠ .na → va ≠ .nan →
        gives t least (if s then y else read va x) {} ∧ gives t most (if s then read va x else y) {}) ∧
      (∀ sa na da sb nb db, va = .fin sa na da → vb = .fin sb nb db →
        let p := signedInt sa na * db
        let q := signedInt sb nb * da
        (p < q → gives t least (read va x) {} ∧ gives t most (read vb y) {}) ∧
        (q < p → gives t least (read vb y) {} ∧ gives t most (read va x) {}) ∧
        (p = q → na ≠ 0 → ∀ i ∈ two, gives t i x {}) ∧
        (p = q → na = 0 → gives t least (t.signed (sa || sb) 0) {} ∧ gives t most (t.signed (sa && sb) 0) {})) ∧
      -- the sign
      let v := valOf t false x
      let neg := Instr.neg e tt d a
      let abs := Instr.abs e tt d a
      let s := (splitCode t x).1
      let mag := (splitCode t x).2
      let beyond : Prop := ∃ r, laneOp neg t m st x y z = some r ∧ r.s = st ∧
        (m.sat = true ∨ m.rm = 1 ∨ m.rm = 2 ∨ m.rm = 5 → r.code = t.signed true (t.maxMag true) ∧
          r.events = { sat := if m.sat then 1 else 0 }) ∧
        (m.sat = false → m.rm ≠ 1 → m.rm ≠ 2 → m.rm ≠ 5 → r.code = (if t.hasInf then t.infCode true else t.nanCode) ∧
          r.events = { nan := if t.hasInf then 0 else 1 })
      (v = .nan → gives t neg t.nanCode {} ∧ (t.isUB8 = false → gives t abs t.nanCode {})) ∧
      (t.isUB8 = true → v ≠ .na → v ≠ .nan → gives t abs x {} ∧ (x = 0 → gives t neg 0 {}) ∧
        (x ≠ 0 → if m.sat then gives t neg 0 { sat := 1 } else bad neg)) ∧
      (t.isUB8 = false → ∀ u, v = .inf u → gives t neg (t.infCode (!u)) {} ∧ gives t abs (t.infCode false) {}) ∧
      (t.isUB8 = false → ∀ u n den, v = .fin u n den → gives t abs mag {} ∧
        (mag ≤ t.maxMag (!s) → gives t neg (t.signed (!s) mag) {}) ∧ (t.maxMag (!s) < mag → beyond))

/-- The results of the special functions, of `floor`, `ceil`, `trunc`, `frac` and `rint`, and of `cvt` into e8m0. The special
values are those of 09 R180's table. `recip` is the exact inverse, `sqrt` and `rsqrt` a value that no multiple of a power of two of
at least 2^−160 tells from the root, `exp2` of an integer and `log2` of a power of two exact, each rounded once. The other finite
values are the model's functions, of 64 significant bits and more (log 59). The integral values are exact and pass through no
rounding, `rint` rounds on the integers, a zero keeps its sign and an infinity stays, whose `frac` is the default NaN with a NaN
event; where a binary8 type can not hold the integral value, `rint` overflows and the others give a free value (the model's choice,
log 16). Into e8m0 a NaN, a zero and a negative value give 0xFF, and a positive one the power of two that the mode chooses, the
middle at 1.5 times the lower one, with the overflow of 02 R34 above 2^127 and 0x01 with a flush event below 2^−126; that only a
positive finite value steps the stochastic state is the model's reading (log 60) (09 R180, R181, 02 R33 to R35, R37 to R39, R45). -/
def Obligations.FunctionValues : Prop :=
  ∀ (e tt : Bool) (d a : Opnd) (m : RMode) (st x y z c : Nat) (t : Ty), Ty.ofCode c = some t → m.rm < 7 →
    let gives (t : Ty) (i : Instr) (code : Nat) (ev : Events) (s : Nat) : Prop :=
      ∃ r, laneOp i t m st x y z = some r ∧ r.code = code ∧ r.events = ev ∧ r.s = s
    let delivers (i : Instr) (v : Val) : Prop := laneOp i t m st x y z = some (deliver t m st v)
    let bad (i : Instr) : Prop := gives t i t.nanCode { nan := 1 } st
    let v := valOf t m.flush x
    let sqrt := Instr.sqrt e tt d a
    let rsqrt := Instr.rsqrt e tt d a
    let recip := Instr.recip e tt d a
    let exp2 := Instr.exp2 e tt d a
    let log2 := Instr.log2 e tt d a
    let sin := Instr.sin e tt d a
    let cos := Instr.cos e tt d a
    let tanh := Instr.tanh e tt d a
    let sigm := Instr.sigm e tt d a
    let floor := Instr.floor e tt d a
    let ceil := Instr.ceil e tt d a
    let trunc := Instr.trunc e tt d a
    let rint := Instr.rint e tt d a
    let frac := Instr.frac e tt d a
    (t.isFlt = true →
      (∀ i ∈ [sqrt, rsqrt, recip, exp2, log2, sin, cos, tanh, sigm],
        (v = .na → gives t i t.na { absent := 1 } st) ∧ (v = .nan → gives t i t.nanCode {} st)) ∧
      (v = .inf true → (∀ i ∈ [sqrt, rsqrt, log2, sin, cos], bad i) ∧ delivers recip (.fin true 0 1) ∧
        delivers exp2 (.fin false 0 1) ∧ delivers tanh (.fin true 1 1) ∧ delivers sigm (.fin false 0 1)) ∧
      (v = .inf false → (∀ i ∈ [sin, cos], bad i) ∧ (∀ i ∈ [sqrt, exp2, log2], delivers i (.inf false)) ∧
        (∀ i ∈ [rsqrt, recip], delivers i (.fin false 0 1)) ∧ ∀ i ∈ [tanh, sigm], delivers i (.fin false 1 1)) ∧
      (∀ s den, v = .fin s 0 den → (∀ i ∈ [sqrt, sin, tanh], delivers i (.fin s 0 1)) ∧
        (∀ i ∈ [rsqrt, recip], delivers i (.inf s)) ∧ (∀ i ∈ [exp2, cos], delivers i (.fin false 1 1)) ∧
        delivers log2 (.inf true) ∧ delivers sigm (.fin false 1 2)) ∧
      ∀ s n den, v = .fin s n den → n ≠ 0 →
        let root (i : Instr) (n den : Nat) : Prop := ∃ p q, 0 < q ∧ delivers i (.fin false p q) ∧
          ∀ k, (k * q < p * (den * 2 ^ 160) ↔ k * k < n * den * 4 ^ 160) ∧
            (k * q = p * (den * 2 ^ 160) ↔ k * k = n * den * 4 ^ 160)
        (s = true → ∀ i ∈ [sqrt, rsqrt, log2], bad i) ∧ (s = false → root sqrt n den ∧ root rsqrt den n) ∧
        delivers recip (.fin s den n) ∧
        (∀ k, k ≤ 300 → n = k * den → delivers exp2 (if s then .fin false 1 (2 ^ k) else .fin false (2 ^ k) 1)) ∧
        (s = false → ∀ k, (n = 2 ^ k * den → delivers log2 (.fin false k 1)) ∧
          (0 < k → n * 2 ^ k = den → delivers log2 (.fin true k 1)))) ∧
    (t.isF8 = true → x < 2 ^ t.width →
      (∀ i ∈ [floor, ceil, trunc, rint, frac],
        (v = .na → gives t i t.na { absent := 1 } st) ∧ (v = .nan → gives t i t.nanCode {} st)) ∧
      (∀ s, v = .inf s → (∀ i ∈ [floor, ceil, trunc, rint], gives t i x {} st) ∧ bad frac) ∧
      ∀ s n den, v = .fin s n den →
        let largest := gridUnits t.prec (t.maxMag s)
        let unit := 2 ^ t.unitBits
        let exactly (i : Instr) (k den s' : Nat) : Prop :=
          ∃ mag, gridUnits t.prec mag * den = k * unit ∧ gives t i (t.signed s mag) {} s'
        let integral (i : Instr) (is : Nat → Prop) : Prop := ∃ k, is k ∧ (k * unit ≤ largest → exactly i k 1 st)
        integral floor (fun k => signedInt s k * den ≤ signedInt s n ∧ signedInt s n < (signedInt s k + 1) * den) ∧
        integral ceil (fun k => signedInt s n ≤ signedInt s k * den ∧ (signedInt s k - 1) * den < signedInt s n) ∧
        integral trunc (fun k => k * den ≤ n ∧ n < (k + 1) * den) ∧
        exactly frac (n % den) den st ∧
        ∃ k s', RoundsTo id m.rm s n den st k s' ∧ (k * unit ≤ largest → exactly rint k 1 s') ∧
          (largest < k * unit →
            let clamped := m.sat = true ∨ m.rm = 1 ∨ m.rm = 5 ∨ (m.rm = 2 ∧ s = true) ∨ (m.rm = 3 ∧ s = false)
            (clamped → gives t rint (t.signed s (t.maxMag s)) { sat := if m.sat then 1 else 0 } s') ∧
            (¬clamped → gives t rint (if t.hasInf then t.infCode s else t.nanCode)
              { nan := if t.hasInf then 0 else 1 } s'))) ∧
    ∀ f : BitVec 8, f.toNat = c → t.isRaw = false → t ≠ .e8m0 →
      let cvt := Instr.cvt e tt d a f
      let infinite (ev : Events) : Prop :=
        if m.sat then gives .e8m0 cvt 0xFE { sat := 1 } st
        else if m.rm = 1 ∨ m.rm = 3 ∨ m.rm = 5 then gives .e8m0 cvt 0xFE {} st else gives .e8m0 cvt 0xFF ev st
      (v = .na → gives .e8m0 cvt 0 { absent := 1 } st) ∧ (v = .nan → gives .e8m0 cvt 0xFF {} st) ∧
      (v = .inf true → gives .e8m0 cvt 0xFF { nan := 1 } st) ∧ (v = .inf false → infinite { nan := 1 }) ∧
      ∀ s n den, v = .fin s n den →
        (s = true ∨ n = 0 → gives .e8m0 cvt 0xFF { nan := 1 } st) ∧
        (s = false → n ≠ 0 → ∃ p : Int,
          let N := n * 2 ^ (-p).toNat
          let D := den * 2 ^ p.toNat
          let s' := if m.rm = 6 then rngStep st else st
          let odd := (p + 127) % 2 = 1
          let up := (m.rm = 0 ∧ (3 * D < 2 * N ∨ (2 * N = 3 * D ∧ odd))) ∨ (m.rm = 2 ∧ N ≠ D) ∨ (m.rm = 4 ∧ 3 * D ≤ 2 * N) ∨
            (m.rm = 5 ∧ N ≠ D ∧ ¬odd) ∨ (m.rm = 6 ∧ s' < (N - D) * 2 ^ 32 / D)
          D ≤ N ∧ N < 2 * D ∧ ∃ code : Int, (up → code = p + 128) ∧ (¬up → code = p + 127) ∧
            (code < 1 → gives .e8m0 cvt 1 { flush := 1 } s') ∧
            (1 ≤ code → code ≤ 254 → gives .e8m0 cvt code.toNat {} s') ∧
            (254 < code → if m.sat then gives .e8m0 cvt 0xFE { sat := 1 } s'
              else if m.rm = 1 ∨ m.rm = 3 ∨ m.rm = 5 then gives .e8m0 cvt 0xFE {} s'
              else gives .e8m0 cvt 0xFF { nan := 1 } s'))

/-- Charging events changes only the counts of the grid that is charged: tensor identifier 0 is not counted, and the count of each
event of an identifier grows by the events of its kind (04 R83). -/
def Obligations.EventCounts : Prop :=
  ∀ (s : State) (n tensor : Nat) (e : Events) (g : Grid),
    let count (g : Grid) (k : Nat) : Nat := ((g.counts.find? (fun c => c.1 == k)).map (·.2)).getD 0
    getGrid s n = some g →
      ∃ g', getGrid (charge s n tensor e) n = some g' ∧ { g' with counts := g.counts } = g ∧
        (∀ k, k ≠ n → getGrid (charge s n tensor e) k = getGrid s k) ∧
        charge s n tensor e = { s with grids := (charge s n tensor e).grids } ∧
        (tensor = 0 → g' = g) ∧
        (tensor ≠ 0 → ∀ id ev, ev < 6 →
          count g' (id * 6 + ev) = count g (id * 6 + ev) + if id = tensor then e.toList.getD ev 0 else 0)

/-- `sel` and `mkna`, vector instructions only: lane by lane the selector's condition picks, and no event counts (09 R184, R186).
-/
def Obligations.SelectByCondition : Prop :=
  ∀ (e t : Bool) (d a b : Opnd) (s : State) (x : Issue),
    let c (k : Nat) : Cond := condRead (condAt (selector x.g) k)
    let ty := typeOf x.g.mode true
    (cleanIssue (.sel e t d a b) s planSel [] = some x →
      VecResult (.sel e t d a b) s s x x.g t (destReg x.i.form.d) (isWide x) (fun k =>
        if c k = condT then srcVal x.e x.i.form.a x.e.slotA ty k
        else if c k = condF then srcVal x.e x.i.form.b x.e.slotB ty k else ty.na)) ∧
    (cleanIssue (.mkna e t d a) s planSel [] = some x →
      VecResult (.mkna e t d a) s s x x.g t (destReg x.i.form.d) (isWide x) (fun k =>
        if c k = condF then srcVal x.e x.i.form.a x.e.slotA ty k else ty.na))

/-- `cmp` and `isna` write a condition register in the lanes of `active`, or from a scalar in every lane of the group, and nothing
else (09 R184, R185, R187). The relations: on values that are present and no NaN, equal, unequal, less, at most, greater, at least,
`same` as equal, `diff` as unequal, `unord` false, by their values with the two zeros equal, as unsigned numbers at a raw type and
as the powers of two at e8m0; with an absent operand, unknown, but for `same`, true where both are, and `diff`, its opposite; with
a NaN and none absent, true for unequal, `diff` and `unord` alone (02 R41). -/
def Obligations.ConditionWriters : Prop :=
  (∀ (t : Ty) (flush : Bool) (x y : Nat),
    let gives (f : Nat → Bool) : Prop := ∀ k, k < 9 → relation t flush k x y = condOf (f k)
    let ordered (less same : Bool) : Prop :=
      gives (fun k => match k with
        | 0 => same | 1 => !same | 2 => less | 3 => less || same | 4 => !(less || same) | 5 => !less | 6 => same | 7 => !same
        | _ => false)
    let v := valOf t flush x
    let u := valOf t flush y
    (t.isRaw = true → ordered (decide (x < y)) (decide (x = y))) ∧
    (t.isRaw = false → v = .na ∨ u = .na → ∀ k, k < 9 → relation t flush k x y =
      if k = 6 then condOf (decide (v = .na ∧ u = .na)) else if k = 7 then condOf (!decide (v = .na ∧ u = .na)) else condU) ∧
    (t.isRaw = false → v ≠ .na → u ≠ .na → v = .nan ∨ u = .nan → gives (fun k => k == 1 || k == 7 || k == 8)) ∧
    (t.isRaw = false → ∀ sx nx dx sy ny dy, v = .fin sx nx dx → u = .fin sy ny dy →
      ordered (decide (signedInt sx nx * dy < signedInt sy ny * dx)) (decide (signedInt sx nx * dy = signedInt sy ny * dx))) ∧
    (t.isRaw = false → ∀ sx, v = .inf sx →
      (∀ sy ny dy, u = .fin sy ny dy → ordered sx false) ∧ ∀ sy, u = .inf sy → ordered (sx && !sy) (sx == sy)) ∧
    (t.isRaw = false → ∀ sy, u = .inf sy → ∀ sx nx dx, v = .fin sx nx dx → ordered (!sy) false)) ∧
  ∀ (e : Bool) (r : BitVec 5) (q : BitVec 3) (a b : Opnd) (s : State) (x : Issue),
    let lanes (k : Nat) : Bool := decide (k < x.g.width) && (!x.e.vec || x.e.active.getLsbD k)
    let ty := typeOf x.g.mode x.e.vec
    let lane (k : Nat) : Nat := if x.e.vec then k else 0
    (cleanIssue (.cmp e r q a b) s planElem [] = some x →
      CondResult (.cmp e r q a b) s x q.toNat lanes (fun k =>
        relation ty (roundMode x.g.mode).flush r.toNat (srcVal x.e x.i.form.a x.e.slotA ty (lane k))
          (srcVal x.e x.i.form.b x.e.slotB ty (lane k)))) ∧
    (cleanIssue (.isna e q a) s planElem [] = some x →
      CondResult (.isna e q a) s x q.toNat lanes (fun k =>
        condOf (!ty.present (srcVal x.e x.i.form.a x.e.slotA ty (lane k)))))

/-- The condition logic over `active`: `qand`, `qor`, `qnot`, `qis.t`, `qis.u`, `qis.f` and `qmov`, by Kleene's tables, each
source read as it stands before the word and 0b11 read as unknown (09 R188, 02 R40). -/
def Obligations.ConditionLogic : Prop :=
  ∀ (e : Bool) (d qa qb : BitVec 3) (s : State) (x : Issue),
    let lanes (k : Nat) : Bool := decide (k < x.g.width) && (activeSet x.g).getLsbD k
    let p (k : Nat) : Cond := condRead (condAt (cellGet x.g.q qa.toNat) k)
    let r (k : Nat) : Cond := condRead (condAt (cellGet x.g.q qb.toNat) k)
    let is (c : Cond) (k : Nat) : Cond := if p k = c then condT else condF
    (cleanIssue (.qand e d qb qa) s (planCond qa.toNat qb.toNat) [] = some x →
      CondResult (.qand e d qb qa) s x d.toNat lanes (fun k =>
        if p k = condF ∨ r k = condF then condF else if p k = condT ∧ r k = condT then condT else condU)) ∧
    (cleanIssue (.qor e d qb qa) s (planCond qa.toNat qb.toNat) [] = some x →
      CondResult (.qor e d qb qa) s x d.toNat lanes (fun k =>
        if p k = condT ∨ r k = condT then condT else if p k = condF ∧ r k = condF then condF else condU)) ∧
    (cleanIssue (.qnot e d qa) s (planCond qa.toNat 0) [] = some x →
      CondResult (.qnot e d qa) s x d.toNat lanes (fun k =>
        if p k = condT then condF else if p k = condF then condT else condU)) ∧
    (cleanIssue (.qisT e d qa) s (planCond qa.toNat 0) [] = some x →
      CondResult (.qisT e d qa) s x d.toNat lanes (is condT)) ∧
    (cleanIssue (.qisU e d qa) s (planCond qa.toNat 0) [] = some x →
      CondResult (.qisU e d qa) s x d.toNat lanes (is condU)) ∧
    (cleanIssue (.qisF e d qa) s (planCond qa.toNat 0) [] = some x →
      CondResult (.qisF e d qa) s x d.toNat lanes (is condF)) ∧
    (cleanIssue (.qmov e d qa) s (planCond qa.toNat 0) [] = some x →
      CondResult (.qmov e d qa) s x d.toNat lanes p)

/-- `mode` replaces the whole mode register, and `nop` changes nothing; neither is a register result. `fence` as a release waits
while an earlier operation of a named class is outstanding, and is then kept for the group's later scoped writes; as an acquire it
acquires what the group's earlier scoped accesses have read from, but for those of another arm of a conditional that it stands in;
with neither it has no effect (03 R57, 21 R348, 13 R257, R259, R261, 14 R279). -/
def Obligations.ModeNopAndFence : Prop :=
  ∀ (e : Bool) (p : BitVec 25) (o : BitVec 2) (m : BitVec 6) (s : State) (x : Issue),
    (cleanIssue (.mode e p) s planNone [] = some x → GroupResult (.mode e p) s x { x.g with mode := p }) ∧
    (cleanIssue (.nop e) s planNo [] = some x → GroupResult (.nop e) s x x.g) ∧
    (cleanIssue (.fence e o m) s planNo [] = some x →
      let copies := ∃ y ∈ s.ops, y.group = x.g.id ∧ (y.kind = .copy ∨ y.kind = .fetch ∨ y.kind = .mmav)
      let others := (∃ y ∈ s.ops, y.group = x.g.id ∧ (y.kind = .select ∨ y.kind = .luna)) ∨
        ∃ y ∈ (getCore s (whoOf s x.g).phys).matrix, y.group = x.g.id ∧ y.access = true
      let waits := o.getLsbD 1 = true ∧ ((m.getLsbD 2 = true ∧ copies) ∨ (m.getLsbD 3 = true ∧ others))
      let s1 := if o.getLsbD 0 then acquireFrom s x.g.id m (readReleases x.g) else s
      let g1 := (getGroup s1 x.g.id).getD x.g
      (waits → WaitResult (.fence e o m) s s x .release) ∧
      (¬waits → o.getLsbD 1 = false → StateResult (.fence e o m) s s1 x) ∧
      (¬waits → o.getLsbD 1 = true → StateResult (.fence e o m) s
        (setGroup s1 { g1 with fences := releaseOf s1 g1 m :: g1.fences.filter (·.mask != m) }) x))

/-! ### Across the lanes (10) -/

/-- `bcast` writes one lane of its source to every active lane, or `na` when that lane does not exist; `lidx` writes the lane's
index (10 R194). -/
def Obligations.BroadcastAndIndex : Prop :=
  ∀ (e t : Bool) (d a : Opnd) (L : BitVec 6) (s : State) (x : Issue),
    let ty := typeOf x.g.mode true
    (cleanIssue (.bcast e t d a L) s planScan [] = some x →
      VecResult (.bcast e t d a L) s s x x.g t (destReg x.i.form.d) (isWide x) (fun _ =>
        if L.toNat < x.g.width then srcVal x.e x.i.form.a x.e.slotA ty L.toNat else ty.na)) ∧
    (cleanIssue (.lidx e t d) s planLidx [] = some x →
      VecResult (.lidx e t d) s s x x.g t (destReg x.i.form.d) false (fun k => k))

/-- `lrd` reads the stored contents of the lane that an i32 index names, whatever is active, or gives `na`: lane by lane, or once
into a scalar register. `match` gives each active lane the mask of the active lanes whose element has the same canonical key, in a
pair of registers whatever the type; an absent element has no key and matches nothing, not even itself (10 R193, R199). -/
def Obligations.LaneReadsAndMatches : Prop :=
  (∀ (e t : Bool) (d a b : Opnd) (s : State) (x : Issue), cleanIssue (.lrd e t d a b) s planLrd [] = some x →
    let ty := typeOf x.g.mode true
    let elem (k : Nat) : Nat :=
      match i32? (srcVal x.e x.i.form.b x.e.slotB (.raw 32) k) with
      | some j => if 0 ≤ j ∧ j < x.g.width then srcVal x.e x.i.form.a x.e.slotA ty j.toNat else ty.na
      | none => ty.na
    if isS x.i.form.d then ScalarResult (.lrd e t d a b) s s x x.g t (destReg x.i.form.d) (elem 0)
    else VecResult (.lrd e t d a b) s s x x.g t (destReg x.i.form.d) (isWide x) elem) ∧
  ∀ (e : Bool) (d a : Opnd) (s : State) (x : Issue), cleanIssue (.matchLanes e d a) s planMatch [] = some x →
    let ty := typeOf x.g.mode true
    let val (k : Nat) : Nat := srcVal x.e x.i.form.a x.e.slotA ty k
    let takes (k : Nat) : Bool := decide (k < x.g.width) && x.e.active.getLsbD k && ty.present (val k)
    let same (j k : Nat) : Bool := takes j && takes k && matchKey ty (val j) == matchKey ty (val k)
    ∃ f, VecResult (.matchLanes e d a) s s x x.g false (destReg x.i.form.d) true f ∧
      ∀ k, k < x.g.width → x.e.active.getLsbD k → f k < 2 ^ 64 ∧ ∀ j, j < 64 → (f k).testBit j = same k j

/-- `red.cnt` writes the number of active lanes whose element is present, and the number of active lanes; it computes no value
from the elements (10 R196). -/
def Obligations.CountReduction : Prop :=
  ∀ (e : Bool) (d a : Opnd) (s : State) (x : Issue), cleanIssue (.redCnt e d a) s planRed [] = some x →
    let ty := typeOf x.g.mode true
    let n := destReg x.i.form.d
    let active := (List.range x.g.width).filter (fun k => x.e.active.getLsbD k)
    let kept := active.filter (fun k => ty.present (srcVal x.e x.i.form.a x.e.slotA ty k))
    ∃ m l, GroupResult (.redCnt e d a) s x { x.g with s := m, latch := l } ∧ ScalarLatched x l kept.length ∧
      (cellGet m n).toNat = kept.length % 2 ^ 64 ∧ (cellGet m (n + 1)).toNat = active.length % 2 ^ 64 ∧
      ∀ k, k ≠ n → k ≠ n + 1 → cellGet m k = cellGet x.g.s k

/-- The reductions `red.add`, `red.min`, `red.max`, `red.and`, `red.or` and `dot`: the tree of 10 R195 over the present elements
of the active lanes (for `dot`, over the products of the lanes in which both are present), `na` where nothing is kept; the count
of kept lanes in the next register; events charged. An element is taken as it is read: a NaN as the default one, a subnormal as
zero under the flush bit (10 R195, R198, 02 R27, R35). -/
def Obligations.Reductions : Prop :=
  ∀ (e : Bool) (d a b : Opnd) (s : State) (x : Issue),
    let ty := typeOf x.g.mode true
    let mode := roundMode x.g.mode
    let n := destReg x.i.form.d
    let active (k : Nat) : Bool := x.e.active.getLsbD k
    let elem (k : Nat) : Option Nat :=
      let v := srcVal x.e x.i.form.a x.e.slotA ty k
      if active k && ty.present v then some (asRead ty mode v) else none
    let mulMode := if mode.rm = 6 then { mode with rm := 0 } else mode
    let product (k : Nat) : Option LRes :=
      let p := srcVal x.e x.i.form.a x.e.slotA ty k
      let q := srcVal x.e x.i.form.b x.e.slotB ty k
      if active k && ty.present p && ty.present q then some (op2 .mul ty mulMode 0 p q) else none
    let gives (i : Instr) (o : OpC) (xs : List (Option Nat)) (ev : Events) : Prop :=
      let r := tree o ty mode (levels x.g.width) xs
      let kept := (xs.filter (·.isSome)).length
      ∃ m l c, exec i s = .next (setGroup (chargeGroup s x.g c) (sequenced x { x.g with s := m, latch := l })) ∧
        c = { r.2.plus ev with absent := (r.2.plus ev).absent + if r.1.isNone && ty.isTyped then 1 else 0 } ∧
        ScalarLatched x l (r.1.getD ty.na) ∧
        (cellGet m n).toNat = (r.1.getD ty.na) % 2 ^ 64 ∧ (cellGet m (n + 1)).toNat = kept % 2 ^ 64 ∧
        ∀ k, k ≠ n → k ≠ n + 1 → cellGet m k = cellGet x.g.s k
    let lanes := List.range x.g.width
    (cleanIssue (.redAdd e d a) s planRed [] = some x → gives (.redAdd e d a) .add (lanes.map elem) {}) ∧
    (cleanIssue (.redMin e d a) s planRed [] = some x → gives (.redMin e d a) .min (lanes.map elem) {}) ∧
    (cleanIssue (.redMax e d a) s planRed [] = some x → gives (.redMax e d a) .max (lanes.map elem) {}) ∧
    (cleanIssue (.redAnd e d a) s planRed [] = some x → gives (.redAnd e d a) .and (lanes.map elem) {}) ∧
    (cleanIssue (.redOr e d a) s planRed [] = some x → gives (.redOr e d a) .or (lanes.map elem) {}) ∧
    (cleanIssue (.dot e d a b) s planDot [] = some x →
      gives (.dot e d a b) .add ((lanes.map product).map (fun r => r.map (·.code)))
        ((lanes.map product).foldl (fun (v : Events) r => match r with | some r => v.plus r.events | none => v) {})) ∧
    (∀ v, ty.isF8 = true → (valOf ty mode.flush v = .nan → asRead ty mode v = ty.nanCode) ∧
      (∀ neg d, valOf ty mode.flush v = .fin neg 0 d → asRead ty mode v = ty.signed neg 0))

/-- The scans `scan.add`, `scan.addx` and `scan.max`: each active lane holds the value of the levels of 10 R197 up to it, or
before it for the exclusive form, `na` where nothing is kept; events charged (10 R197, R198). -/
def Obligations.Scans : Prop :=
  ∀ (e t : Bool) (d a : Opnd) (s : State) (x : Issue),
    let ty := typeOf x.g.mode true
    let elem (k : Nat) : Option Nat :=
      let v := srcVal x.e x.i.form.a x.e.slotA ty k
      if x.e.active.getLsbD k && ty.present v then some (asRead ty (roundMode x.g.mode) v) else none
    let gives (i : Instr) (o : OpC) (exclusive : Bool) : Prop :=
      let r := scanLoop o ty (roundMode x.g.mode) ((List.range x.g.width).map elem)
        (if exclusive then x.g.width - 1 else x.g.width) 0 [] {}
      let value (k : Nat) : Option Nat :=
        if exclusive then (if k = 0 then none else r.1.getD (k - 1) none) else r.1.getD k none
      let none_ := ((lanesOf x.e.active x.g.width).filter (fun k => (value k).isNone && ty.isTyped)).length
      VecResult i s (chargeGroup s x.g { r.2 with absent := r.2.absent + none_ }) x x.g t (destReg x.i.form.d) (isWide x)
        (fun k => (value k).getD ty.na)
    (cleanIssue (.scanAdd e t d a) s planScan [] = some x → gives (.scanAdd e t d a) .add false) ∧
    (cleanIssue (.scanAddx e t d a) s planScan [] = some x → gives (.scanAddx e t d a) .add true) ∧
    (cleanIssue (.scanMax e t d a) s planScan [] = some x → gives (.scanMax e t d a) .max false)

/-- A vote writes the mask of the active lanes whose condition is true, false or unknown, with 0b11 counted as unknown and every
other bit zero (10 R200). -/
def Obligations.Votes : Prop :=
  ∀ (e t : Bool) (d : Opnd) (q : BitVec 3) (s : State) (x : Issue),
    let gives (i : Instr) (c : Cond) : Prop :=
      ∃ v, ScalarResult i s s x x.g t (destReg x.i.form.d) v ∧ v < 2 ^ 64 ∧ ∀ k, k < 64 → v.testBit k =
        (decide (k < x.g.width) && (activeSet x.g).getLsbD k && condRead (condAt (cellGet x.g.q q.toNat) k) == c)
    (cleanIssue (.voteT e t d q) s (planVote q.toNat) [] = some x → gives (.voteT e t d q) condT) ∧
    (cleanIssue (.voteF e t d q) s (planVote q.toNat) [] = some x → gives (.voteF e t d q) condF) ∧
    (cleanIssue (.voteU e t d q) s (planVote q.toNat) [] = some x → gives (.voteU e t d q) condU)

/-! ### Near memory and shape registers (07, 04) -/

/-- `ld` and `ldfe`: each lane of `active` that names an address holds the bytes there as its group sees them, little-endian, one
that names none holds `na`; `ldfe` goes on once every granule that it names is full, waits until then, and with its clear bit then
empties them. `wfe.full` and `wfe.empty` go on once every granule that they name is full, or empty; until then the group waits at
the word. What goes on after such a wait has acquired what the last change of each bit released, and a bit emptied releases what
its group carries. A byte seen is the latest one, where the group knows of every write kept for it, and otherwise the latest or
one that a write it does not know of has replaced; what its loads have observed a group observes from then on (13 R262). A scalar
load that meets an uncorrectable error is the fault 0x50 (07 R140 to R145, R147, R149, 21 R361, 24 R363). Which of the two is seen
is a free value (log 4); what a bit carries is the model's reading (log 70). -/
def Obligations.NearLoadsAndWaits : Prop :=
  (∀ (e t : Bool) (d a b : Opnd) (c : BitVec 1) (s : State) (x : Issue),
     let ty := typeOf x.g.mode x.e.vec
     let n := ty.width / 8
     let w := whoOf s x.g
     let value (s : State) (k : Nat) : Nat :=
       match laneAddr x k with | none => ty.na | some y => nearSeen s w (groupView s ((getGroup s x.g.id).getD x.g)) y.toNat n
     let gives (i : Instr) (t : Bool) (s0 : State) (g : Group) (value : Nat → Nat) : Prop :=
       if x.e.vec then VecResult i s s0 x g t (destReg x.i.form.d) (ty.width == 64) value
       else ScalarResult i s s0 x g t (destReg x.i.form.d) (value 0)
     let bad := ∃ y ∈ touched x, nearBad s w false y.2.toNat n = true
     let observed := (touched x).foldl (fun acc y => joinAges acc (nearReleased s w y.2.toNat)) []
     nearFaults s w false n n ((touched x).map (·.2)) = none →
     (cleanIssue (.ld e t d a b) s (planNear true) [] = some x →
       (¬bad → let s0 := loadNoted s x ty (touched x)
         gives (.ld e t d a b) t s0 ((getGroup s0 x.g.id).getD x.g) (value s)) ∧
       (bad → x.e.vec = false → x.g.stopped = false → ∃ y, touched x = [y] ∧
         FaultResult (.ld e t d a b) s (signal s 2) x (fault 0x50 (addrData y.2)))) ∧
     (cleanIssue (.ldfe d a c) s (planNear true) [] = some x →
       ((∃ y ∈ touched x, nearFe s w y.2.toNat = false) → WaitResult (.ldfe d a c) s s x .fullEmpty) ∧
       ((∀ y ∈ touched x, nearFe s w y.2.toNat = true) → ¬bad →
         let h := acquireAges s x.g.id observed
         let noted := loadNoted h x ty (touched x)
         let carried := groupCarries noted ((getGroup noted x.g.id).getD x.g)
         let s0 := if c = 1 then (touched x).foldl (fun s y => changeFe s w y.2.toNat false carried) noted else noted
         gives (.ldfe d a c) false s0 ((getGroup s0 x.g.id).getD x.g) (value h)))) ∧
  (∀ (a : Opnd) (full : Bool) (s : State) (x : Issue),
     let i : Instr := if full then .wfeFull a else .wfeEmpty a
     let n := (typeOf x.g.mode x.e.vec).width / 8
     let w := whoOf s x.g
     cleanIssue i s (planNear false) [] = some x → nearFaults s w false n n ((touched x).map (·.2)) = none →
     ((∀ y ∈ touched x, nearFe s w y.2.toNat = full) →
       let observed := (touched x).foldl (fun acc y => joinAges acc (nearReleased s w y.2.toNat)) []
       StateResult i s (acquireAges s x.g.id observed) x) ∧
     ((∃ y ∈ touched x, nearFe s w y.2.toNat ≠ full) → WaitResult i s s x .fullEmpty)) ∧
  (∀ (s : State) (x : Issue) (t : Ty) (l : List (Nat × Int)), ∃ ages, loadNoted s x t l = acquireAges s x.g.id ages ∧
     ∀ y ∈ l, ∀ l0, nearLoc s (whoOf s x.g) y.2.toNat (t.width / 8) = some l0 →
       ∀ a ∈ seenAges s (groupView s ((getGroup s x.g.id).getD x.g)) l0 (t.width / 8), a ∈ ages) ∧
  (∀ (s : State) (v : View) (l : Loc) (n : Nat), ∀ a ∈ seenAges s v l n,
     ∃ r ∈ s.past, r.age = a ∧ v.knows r = false ∧ ∃ i, i < n ∧ (r.before (l.plus i)).isSome = true) ∧
  (∀ (s : State) (w : Who) (v : View) (a n : Nat) (l : Loc), nearLoc s w a n = some l → v.blind = 0 →
     ((∀ r ∈ s.past, v.knows r = true ∨ ∀ i, i < n → r.before (l.plus i) = none) → nearSeen s w v a n = nearRead s w a n) ∧
     ∀ i, i < n → let seen := nearSeen s w v a n / 256 ^ i % 256
       seen = locGet s (l.plus i) 1 ∨ ∃ r ∈ s.past, v.knows r = false ∧ ∃ y, r.before (l.plus i) = some y ∧ seen = y.toNat)

/-- `st` and `stfe` store each lane's element at its address, lanes in ascending order: a lane whose bytes no later lane of the
word stores to holds its element afterwards, no other byte of near or main memory changes, and nothing else of the device; `stfe`
then sets the granules that it wrote full, and no other, and leaves at each what its group carries; `st` sets none. The stored
address of a lane is `laneAddr`, and where it lies is `nearLoc`. Where just those bytes were last written by a store that nothing
orders before it, a store may fall before that one: the bytes then stay (07 R140 to R143, R149, 13 R262, 14 R279, 24 R363); which
of the two happens is a free value (log 4); that a change of a bit replaces what it carried is the model's reading (log 70). -/
def Obligations.NearStores : Prop :=
  ∀ (e : Bool) (d a b : Opnd) (s : State) (x : Issue),
    let ty := typeOf x.g.mode x.e.vec
    let n := ty.width / 8
    let w := whoOf s x.g
    nearFaults s w true n n ((touched x).map (·.2)) = none →
    (∀ y ∈ touched x, nearBad s w true y.2.toNat n = false) →
    let apart_ (y z : Nat × Int) : Prop := ∀ l l0, nearLoc s w y.2.toNat n = some l → nearLoc s w z.2.toNat n = some l0 →
      ∀ i, i < n → (l.plus i).within l0 n = false
    let element (y : Nat × Int) : Nat := srcVal x.e x.i.form.d x.e.slotD ty y.1 % 256 ^ n
    let stores (s0 : State) : Prop :=
      OnlyStored s s0 ∧
      (∀ l : Loc, (∀ y ∈ touched x, ∀ l0, nearLoc s w y.2.toNat n = some l0 → l.within l0 n = false) →
        locGet s0 l 1 = locGet s l 1) ∧
      (∀ before y after, touched x = before ++ y :: after → (∀ z ∈ after, apart_ y z) →
        (InOrder s x.g → nearRead s0 w y.2.toNat n = element y) ∧
        ((∀ z ∈ before, apart_ y z) →
          nearRead s0 w y.2.toNat n = element y ∨ nearRead s0 w y.2.toNat n = nearRead s w y.2.toNat n))
    (cleanIssue (.st e d a b) s (planNear false) [] = some x →
      ∃ s0, StateResult (.st e d a b) s s0 x ∧ stores s0 ∧ ∀ l : Loc, feGet s0 l = feGet s l) ∧
    (cleanIssue (.stfe e d a b) s (planNear false) [] = some x →
      ∃ s0, StateResult (.stfe e d a b) s s0 x ∧ stores { s0 with sync := s.sync } ∧
        (∀ y ∈ touched x, nearFe s0 w y.2.toNat = true ∧
          nearReleased s0 w y.2.toNat = groupCarries s0 ((getGroup s0 x.g.id).getD x.g)) ∧
        ∀ l : Loc, (∀ y ∈ touched x, ∀ l0, nearLoc s w y.2.toNat 1 = some l0 → l.sameGranule l0 = false) → feGet s0 l = feGet s l)

/-- `shld` loads a shape register from 64 bytes of near memory, each 8-byte part as its group sees it, `shst` stores one, part by
part, and `shset` replaces one field, leaving every other bit (the rank stores its value less one); an absent address has no
effect, and one that meets an uncorrectable error is the fault 0x50 (04 R85 to R88, 21 R361). A part may fall before a store to just
its bytes that nothing orders before it, as in NearStores. -/
def Obligations.ShapeRegisters : Prop :=
  ∀ (e : Bool) (h k : BitVec 4) (a : Opnd) (s : State) (x : Issue),
    let n := h.toNat
    let w := whoOf s x.g
    let setH (y : BitVec 512) : Group := { x.g with h := cellSet x.g.h n y }
    (cleanIssue (.shld e h a) s planA [] = some x →
      match i64? (scalarA x) with
      | none => GroupResult (.shld e h a) s x x.g
      | some y => nearFaults s w false 64 64 [y] = none →
        (nearBad s w false y.toNat 64 = false →
          let s0 := nearNoted s w x.g 8 (partAddrs y.toNat 64)
          ∃ z : BitVec 512, GroupResult (.shld e h a) s x { (getGroup s0 x.g.id).getD x.g with h := cellSet x.g.h n z } ∧
            ∀ k, k < 8 → (z.extractLsb' (64 * k) 64).toNat = nearSeen s w (groupView s x.g) (y.toNat + 8 * k) 8) ∧
        (nearBad s w false y.toNat 64 = true → x.g.stopped = false →
          FaultResult (.shld e h a) s (signal s 2) x (fault 0x50 (addrData y)))) ∧
    (cleanIssue (.shst e h a) s planA [] = some x →
      match i64? (scalarA x) with
      | none => GroupResult (.shst e h a) s x x.g
      | some y => nearFaults s w true 64 64 [y] = none → nearBad s w true y.toNat 64 = false →
        ∃ s0, StateResult (.shst e h a) s s0 x ∧ OnlyStored s s0 ∧
          (InOrder s x.g → nearRead s0 w y.toNat 64 = (cellGet x.g.h n).toNat) ∧
          (∀ k, k < 8 → nearRead s0 w (y.toNat + 8 * k) 8 = ((cellGet x.g.h n).extractLsb' (64 * k) 64).toNat ∨
            nearRead s0 w (y.toNat + 8 * k) 8 = nearRead s w (y.toNat + 8 * k) 8) ∧
          ∀ l : Loc, (∀ l0, nearLoc s w y.toNat 64 = some l0 → l.within l0 64 = false) → locGet s0 l 1 = locGet s l 1) ∧
    (cleanIssue (.shset e k h a) s planA [] = some x →
      let f := shapeField k.toNat
      let value := if k = 10 then scalarA x + 3 else scalarA x
      ∃ y, GroupResult (.shset e k h a) s x (setH y) ∧ recField y f.1 f.2 = value % 2 ^ f.2 ∧
        ∀ b, b < f.1 ∨ f.1 + f.2 ≤ b → y.getLsbD b = (cellGet x.g.h n).getLsbD b)

/-! ### Extended registers, recipes, seals (08) -/

/-- `xacq` holds a unit, whose registers that are not dropped read as zero, when a pool frame is free and no earlier request
waits; it waits otherwise; it does nothing when the unit is held. `xrel` gives a held unit up: its contents are lost, its tagged
registers are dropped, its frame returns. `rtag` whose checks 1 to 7 all pass makes a recipe of the last n words of the run under
the lowest free number: it captures the words, the mode and `em`, tags its target, which is not dropped, and adds a reference to
each seal entry that its loads reach (08 R151, R155, R158, R159). -/
def Obligations.UnitsAndRecipes : Prop :=
  (∀ (e : Bool) (u : BitVec 2) (s : State) (x : Issue),
    let k := u.toNat
    let core := (whoOf s x.g).phys
    let held := x.g.held.getLsbD k
    (cleanIssue (.xacq u) s planNo [] = some x →
      (held = true → GroupResult (.xacq u) s x x.g) ∧
      (held = false → 0 < poolFree s core → frameQueued s core x.g.id = false →
        ∃ v, GroupResult (.xacq u) s x { x.g with
            held := x.g.held ||| ((1 : BitVec 4) <<< k), written := x.g.written &&& ~~~(unitMask k), v := v } ∧
          ∀ r i, i < 64 → (cellGet v (r * 64 + i)).toNat =
            if 64 + 32 * k ≤ r ∧ r < 96 + 32 * k ∧ x.g.dropped.getLsbD (r - 64) = false then 0 else vGet x.g r i) ∧
      (held = false → poolFree s core = 0 ∨ frameQueued s core x.g.id = true →
        WaitResult (.xacq u) s s x (.unit k))) ∧
    (cleanIssue (.xrel e u) s planNo [] = some x →
      (held = false → GroupResult (.xrel e u) s x x.g) ∧
      (held = true → ∃ g', g' = unitReleased x.g k ∧
        exec (.xrel e u) s = .next (setGroup (returnFrame s core) (sequenced x g')) ∧
        (∀ r i, i < 64 → vGet g' r i = if 64 + 32 * k ≤ r ∧ r < 96 + 32 * k then 0 else vGet x.g r i) ∧
        (∀ r, isTagged x.g r = true → unitOf r = k → isDropped g' r = true)))) ∧
  ∀ (e : Bool) (d : Opnd) (c : BitVec 3) (s : State) (x : Issue) (k : Nat) (lists : List (List Nat)),
    cleanIssue (.rtag e d c) s planNo [] = some x →
    let r := destReg x.i.form.d
    let n := c.toNat
    let ws := (x.g.runWords.take n).reverse
    let sources := (ws.map (fun w => wordSources w x.g.mode)).flatten
    n ≤ x.g.runWords.length →
    (∀ w ∈ ws, recipeOp w = true) →
    (∀ y ∈ ws.zipIdx, recipeForm r x.g.mode (y.2 + 1 == n) y.1 = true ∧ recipeLatches y.2 y.1 = true) →
    (∀ y ∈ sources, recipeSource x.g r y = true) →
    modeField x.g.mode 11 3 ≠ 6 → x.g.mode.getLsbD 8 = false →
    ws.map (recipeSeals s x.g) = lists.map some →
    k < 256 → (∀ y ∈ x.g.recipes, y.index ≠ k) → (∀ j, j < k → ∃ y ∈ x.g.recipes, y.index = j) →
    (coreGroups s (whoOf s x.g).phys).foldl (fun m y => m + y.recipes.length) 0 < 256 →
    ∃ seals, (∀ j, j ∈ seals ↔ j ∈ lists.flatten) ∧
      exec (.rtag e d c) s = .next (setGroup
        (modCtx s (whoOf s x.g).ctx (fun y => { y with seals := y.seals.map (fun (z : Seal) =>
          if z.index ∈ seals then { z with refs := z.refs + 1 } else z) }))
        (sequenced x { x.g with
          recipes := { index := k, words := ws, mode := x.g.mode, em := emSet x.g, target := r, depth := sources.any isExt,
                       seals := seals } :: x.g.recipes
          tagged := x.g.tagged ||| extBit r, dropped := x.g.dropped &&& ~~~(extBit r) }))

/-- `rdrop` drops a tagged register, and gives its unit up when no register of it that was written is left undropped; otherwise it
is the fault 0x08. `rfree` ends the recipe of a tagged register, unless the register is frozen (0x07), and does nothing else. A
word that reads a dropped register of a held unit, whose recipe's sources are not dropped, does what it does where the register
had been rebuilt before: in the recipe's lanes it holds what the recipe's words give, zero in the others, and every other register
is as before; a fault in the recipe's words is the fault 0x09 at the reading word, with the inner cause and the recipe's number,
and the register stays dropped. A recipe's vector word gives each lane of the recipe's `em` its element-wise result on its operands
there, each a register's element, a scalar, `na`, or what an earlier word of the recipe gave, or the bytes that its `ld` names,
under the recipe's mode (08 R156, R157, R160, R165). -/
def Obligations.RecipesDropAndFree : Prop :=
  (∀ (e : Bool) (d : Opnd) (s : State) (x : Issue), x.g.stopped = false →
    let c := destReg x.i.form.d
    let k := unitOf c
    let core := (whoOf s x.g).phys
    (cleanIssue (.rdrop e d) s planNo [] = some x →
      let g := { x.g with dropped := x.g.dropped ||| extBit c, v := cellClear x.g.v (c * 64) 64 }
      (isTagged x.g c = false → FaultResult (.rdrop e d) s s x (fault 0x08 8)) ∧
      (isTagged x.g c = true →
        let last : Prop := g.held.getLsbD k = true ∧ (g.written &&& ~~~g.dropped) &&& unitMask k = 0#128
        (last → exec (.rdrop e d) s = .next (setGroup (returnFrame s core) (sequenced x (unitReleased g k)))) ∧
        (¬last → GroupResult (.rdrop e d) s x g))) ∧
    (cleanIssue (.rfree e d) s planNo [] = some x →
      (isTagged x.g c = false → GroupResult (.rfree e d) s x x.g) ∧
      (isTagged x.g c = true → frozenBy x.g c = true → FaultResult (.rfree e d) s s x (fault 0x07 c)) ∧
      (isTagged x.g c = true → frozenBy x.g c = false →
        exec (.rfree e d) s = .next (setGroup (endRefs s x.g c) (sequenced x (endedRecipe x.g c)))))) ∧
  (∀ (i : Instr) (s : State) (g : Group) (w : Word) (c : Nat) (r : Recipe), isElem i = true → s.cur.bind (getGroup s) = some g →
    encode i = some w → g.rq = [] → g.badRegs = [] → g.stopped = false →
    let p := planElem (freshIssue i s g w)
    let reads := p.reads i (p.placesOr []) 7
    checkPlan g i w p reads 7 = none → frozenWrite g p = none →
    c ∈ reads → isDropped g c = true → (∀ k ∈ reads, isDropped g k = true → k = c) → isHeld g c = true →
    g.recipes.find? (·.target == c) = some r → (∀ k ∈ recipeSources r, isDropped g k = false) →
    (∀ l, recipeResult s g r.mode r.em [] r.words = .inr l → ∃ g', exec i s = exec i (setGroup s g') ∧
      g' = { g with v := g'.v, dropped := g.dropped &&& ~~~(extBit c), written := g.written ||| extBit c } ∧
      ∀ k j, j < 64 → vGet g' k j =
        if k = c ∧ j < g.width then (if r.em.getLsbD j then (cellGet l.vals j).toNat % 2 ^ 32 else 0) else vGet g k j) ∧
    (∀ f, recipeResult s g r.mode r.em [] r.words = .inl f → ∃ e : Entry, e.word = w ∧ e.addr = g.pc ∧ e.faulting = true ∧
      exec i s = .next (takeFault (setGroup (signalBad s f.cause) g) { g with
          pc := g.pc + 4, runCount := g.runCount + 1, runWords := w :: g.runWords }
        { cause := 0x09, data := f.data, inner := f.cause, recipe := BitVec.ofNat 16 r.index } [e] 0 g.pc (g.pc + 4)))) ∧
  ∀ (s : State) (g : Group) (mode : BitVec 25) (em : BitVec 64) (w : Word) (lat : List Latch) (t : Ty) (k : Nat) (i : Instr),
    decode w = .ok i → (∃ f ∈ [i.form.d, i.form.a, i.form.b], ∃ role n, f = some (role, Opnd.v n)) →
    modeType mode true = some t → k < g.width → g.width ≤ 64 → em.getLsbD k = true →
    let element (o : Opnd) (na : Nat) (pair : Bool) : Nat :=
      match o with
      | .v n => if pair then vGet g n k + 2 ^ 32 * vGet g (n + 1) k else vGet g n k
      | .s n => sGet g n
      | .na => na
      | .b n => (match lat.getD n.val .empty with
        | .full true m => (cellGet m k).toNat
        | .full false m => (cellGet m 0).toNat
        | _ => 0)
      | .rsv _ => 0
    let source (f : Option (Role × Opnd)) (ft : Ty) : Nat :=
      match f with | some (_, o) => element o ft.na (ft.width == 64) % 2 ^ ft.width | none => 0
    (isElem i = true → g.badRegs = [] → ∃ l, recipeWord s g mode em lat w = .inr l ∧
      ∃ y, laneOp i t (roundMode mode) 0 (source i.form.a (srcType i t)) (source i.form.b t) (source i.form.d t) = some y ∧
        (cellGet l.vals k).toNat = y.code % 2 ^ 64) ∧
    (∀ e tt d a b, i = .ld e tt d a b → ∀ l, recipeWord s g mode em lat w = .inr l →
      (cellGet l.vals k).toNat = match nearAddr (element a na64 true) (element b (2 ^ 31) false) with
        | none => t.na
        | some y => nearRead s (whoOf s g) y.toNat (t.width / 8))

/-- `seal` of a backed range of whole 64-byte lines takes the lowest free entry of the context's table and gives its number;
`unseal` of an entry that no recipe refers to removes it; absent operands seal nothing and unseal nothing. A start that is
negative lies in no window, and one from 2^32 up is out of range. The group acquires the earlier writes to the range, and every
reader observes them from then on (08 R161, R162, R164, R165; the last is the model's choice, log 4). -/
def Obligations.SealTable : Prop :=
  ∀ (e t : Bool) (d a : Opnd) (s : State) (x : Issue) (c : Context) (k : Nat),
    let w := whoOf s x.g
    let start := scalarA x
    let size := (cellGet x.e.slotA 1).toNat
    getCtx s w.ctx = some c →
    (cleanIssue (.sealRange e t d a) s planSeal [.upper 0] = some x →
      (start = na64 ∨ size = na64 → ScalarResult (.sealRange e t d a) s s x x.g t (destReg x.i.form.d) na64) ∧
      (start < 2 ^ 32 → size ≠ na64 → sealable s w start size = true → start % 64 = 0 → size % 64 = 0 → 0 < size →
        k < 64 → (∀ y ∈ c.seals, y.index ≠ k) → (∀ j, j < k → ∃ y ∈ c.seals, y.index = j) →
        let entry : Seal := { index := k, start := nearCanon w.core start, size := size, team := w.team, refs := 0 }
        let held := acquireAges (modCtx s w.ctx (fun y => { y with seals := y.seals ++ [entry] })) x.g.id (writesTo s w start size)
        let s0 := match nearLoc s w start size with | some l => settleRange held l size | none => held
        ScalarResult (.sealRange e t d a) s s0 x ((getGroup s0 x.g.id).getD x.g) t (destReg x.i.form.d) k) ∧
      (x.g.stopped = false → start ≠ na64 → size ≠ na64 →
        (2 ^ 63 ≤ start → FaultResult (.sealRange e t d a) s s x (fault 0x10 start)) ∧
        (2 ^ 32 ≤ start → start < 2 ^ 63 → FaultResult (.sealRange e t d a) s s x (fault 0x11 start)))) ∧
    (cleanIssue (.unsealRange e a) s planA [] = some x →
      (scalarA x = na64 → GroupResult (.unsealRange e a) s x x.g) ∧
      (∀ z, c.seals.find? (fun y => y.index == scalarA x) = some z → z.refs = 0 → z.start ≥ 0x80000000 ∨ z.team = w.team →
        scalarA x ≠ na64 →
        StateResult (.unsealRange e a) s
          (modCtx s w.ctx (fun y => { y with seals := (y.seals.filter (fun z => z.index != scalarA x)) })) x))

/-! ### Scoped accesses (13) -/

/-- The scoped accesses `ldo` and `sto` and the atomics `aadd`, `amin`, `amax`, `aand`, `aor`, `axor`, `axch` and `acas`, where no
lane faults, meets an error or waits for a page and no release waits: the lanes make their accesses in ascending order, each on
what the ones before it left; a load or an atomic gives each lane what its bytes held before, and `na` without an address; the
events are charged; an acquire acquires from the releases that the lanes read from, and every access keeps them for the group's
acquire fences; a store or atomic carries the group's release with its mask, and its release fences, but for one of another arm of
a conditional that it stands in. A release that must wait suspends the word (13 R252 to R259, R261, 14 R279). -/
def Obligations.ScopedAccesses : Prop :=
  ∀ (e t : Bool) (d a : Opnd) (o : BitVec 2) (m : BitVec 6) (s : State) (x : Issue),
    ∀ p ∈ [(Instr.ldo e t d a o m, ScopedOp.ldo), (.sto e d a o m, .sto), (.aadd e t d a o m, .aadd),
        (.amin e t d a o m, .amin), (.amax e t d a o m, .amax), (.aand e t d a o m, .aand), (.aor e t d a o m, .aor),
        (.axor e t d a o m, .axor), (.axch e t d a o m, .axch), (.acas e t d a o m, .acas)],
      let ty := typeOf x.g.mode x.e.vec
      let n := ty.width / 8
      let w := whoOf s x.g
      let scope : Scope :=
        { view := groupView s x.g
          writer := { group := x.g.id, arms := x.g.arms, atomic := p.2 != .sto, update := p.2 != .sto
                      releases := (if o.getLsbD 1 then [releaseOf s x.g m] else []) ++
                        x.g.fences.filter (fun r => !apart r.arms x.g.arms) } }
      let run (l : List (Nat × Nat)) : State × (Nat → Nat) × Events × List Release :=
        l.foldl (fun acc y =>
          let q := scopedLane p.2 x ty w scope acc.1 y.1 y.2
          (q.1, fun k => if k = y.1 then q.2.1 else acc.2.1 k, acc.2.2.1.plus q.2.2.1, acc.2.2.2 ++ q.2.2.2))
          (s, fun _ => ty.na, {}, [])
      cleanIssue p.1 s (planScoped p.2) [] = some x →
      scopedFaults s w p.2.perm (p.2 != .ldo) n (scopedLanes x) = none →
      (o.getLsbD 1 = true → releaseWaits s x.g m = true → WaitResult p.1 s s x .release) ∧
      ((o.getLsbD 1 = true → releaseWaits s x.g m = false) →
        (∀ before y after, scopedLanes x = before ++ y :: after →
          scopedPark (run before).1 w p.2.perm y.2 = none ∧ scopedBad (run before).1 w p.2.perm y.2 n = false) →
        let r := run (scopedLanes x)
        let s0 := chargeGroup r.1 x.g r.2.2.1
        let s1 := keepReleases (if o.getLsbD 0 then acquireFrom s0 x.g.id m r.2.2.2 else s0) x.g.id r.2.2.2
        let g1 := (getGroup s1 x.g.id).getD x.g
        if p.2 = .sto then StateResult p.1 s s1 x
        else if x.e.vec then VecResult p.1 s s1 x g1 t (destReg x.i.form.d) (ty.width == 64) r.2.1
        else ScalarResult p.1 s s1 x g1 t (destReg x.i.form.d) (r.2.1 0))

/-- One lane of a scoped access whose bytes lie at `l`: a load changes no byte and gives the bytes as its reader sees them, `sto`
stores its element, an atomic gives the latest value and leaves its combination; every other byte keeps its value, and no
full/empty bit changes. `aadd` adds with clamping at the integer types, `amin` and `amax` choose, and an absent operand gives way;
`aand`, `aor` and `axor` act bit by bit; `axch` stores its operand, and `acas` its new value where the old one equals its operand.
What a group acquires from a release, it observes from then on: by the classes that both masks name, the earlier writes of the
releasing group (of its copies for C, of its other engines for X), and what that group itself had acquired; what it acquires
through a link without a mask, by every class; and what it acquires in one arm of a conditional, not in another (13 R253, R254,
R257, R258, R260, 14 R279, 24 R364). That a store which nothing orders before it may come after it is the model's free choice (log
4). -/
def Obligations.ScopedLaneEffect : Prop :=
  (∀ (op : ScopedOp) (x : Issue) (ty : Ty) (w : Who) (c : Scope) (s : State) (i a : Nat) (l : Loc),
    let n := ty.width / 8
    let q := scopedLane op x ty w c s i a
    let operand := srcVal x.e x.i.form.d x.e.slotD ty i
    let new := extraVal x.e.vec x.e (newPlace (x.e.vec && ty.width == 64)) i % 2 ^ ty.width
    scopedLoc s w op.perm a n = some l →
    (∀ g, getGroup s c.writer.group = some g → ∀ r ∈ s.past, (groupView s g).knows r = true) →
    (op = .ldo → q.2.1 = locSeen s c.view l n) ∧
    (op ≠ .ldo → op ≠ .sto → q.2.1 = locGet s l n) ∧
    locGet q.1 l n = (match op with
      | .ldo => locGet s l n
      | .sto => operand % 256 ^ n
      | _ => (op.newValue ty (engMode x.e.mode) (locGet s l n) operand new).1 % 256 ^ n) ∧
    (∀ k : Loc, k.within l n = false → locGet q.1 k 1 = locGet s k 1) ∧ q.1.fe = s.fe) ∧
  (∀ (signed : Bool) (w : Nat) (m : RMode) (old x n : Nat), w = 8 ∨ w = 16 ∨ w = 32 ∨ w = 64 → old < 2 ^ w → x < 2 ^ w →
    let t := Ty.int signed w
    let hi : Int := if signed then 2 ^ (w - 1) - 1 else 2 ^ w - 2
    let lo : Int := if signed then -(2 ^ (w - 1) - 1) else 0
    let value (op : ScopedOp) : Nat := (op.newValue t m old x n).1
    (t.present old = true → t.present x = true →
      intOf t (value .aadd) = max lo (min hi (intOf t old + intOf t x)) ∧
      intOf t (value .amin) = min (intOf t old) (intOf t x) ∧ intOf t (value .amax) = max (intOf t old) (intOf t x)) ∧
    (t.present x = false → ∀ op ∈ [ScopedOp.aadd, .amin, .amax], value op = old) ∧
    (t.present x = true → t.present old = false → ∀ op ∈ [ScopedOp.aadd, .amin, .amax], value op = x)) ∧
  (∀ (t : Ty) (m : RMode) (old x n k : Nat),
    let value (op : ScopedOp) : Nat := (op.newValue t m old x n).1
    (value .aand).testBit k = (old.testBit k && x.testBit k) ∧ (value .aor).testBit k = (old.testBit k || x.testBit k) ∧
    (value .axor).testBit k = (old.testBit k != x.testBit k) ∧ value .axch = x ∧
    value .acas = (if old = x then n else old)) ∧
  (∀ (g : Group) (bit k : Nat), k ∈ gained g bit ↔
    ∃ y ∈ g.acquired, y.age = k ∧ y.classes.getLsbD bit = true ∧ apart y.arms g.arms = false) ∧
  ∀ (s : State) (g : Group) (m : BitVec 6) (r : Release) (p : Write), getGroup s g.id = some g → p ∈ s.past →
    apart g.arms g.arms = false → p.age < r.age → p.group = r.group → apart p.arms r.arms = false →
    let named (k : Nat) : Prop := r.mask.getLsbD k = true ∧ m.getLsbD k = true
    let group := (r.team = g.team ∧ named 0) ∨ named 1
    ∀ g', getGroup (acquireFrom s g.id m [r]) g.id = some g' →
      (group → p.cls = .group ∨ (p.cls = .copy ∧ named 2) ∨ ((p.cls = .engine ∨ p.cls = .luna) ∧ named 3) →
        (groupView (acquireFrom s g.id m [r]) g').knows p = true) ∧
      (p.cls = .copy → named 2 → ∃ y ∈ g'.acquired, y.age = p.age ∧ y.classes.getLsbD 2 = true) ∧
      (∀ ages, p.age ∈ ages → ∀ g', getGroup (acquireAges s g.id ages) g.id = some g' →
        (groupView (acquireAges s g.id ages) g').knows p = true ∧ ∃ y ∈ g'.acquired, y.age = p.age ∧ y.classes = everyClass) ∧
      ((groupView s g).knows p = true → p.age ∈ groupCarries s g)

/-! ### Control (14) -/

/-- `bra` is taken when its relation holds of the conditions of the lanes of `em`; a transfer goes to the word's address plus four
times the offset; `call` writes the next word's address in `lk`; `jmp` takes an address that the lanes of `em` share, is no
operation where it is absent, and faults where they differ, or where it is no address of code (14 R280, R281, R284). -/
def Obligations.BranchesAndCalls : Prop :=
  ∀ (e : Bool) (c : BitVec 4) (q : BitVec 3) (near : BitVec 17) (far : BitVec 24) (a : Opnd) (s : State) (x : Issue),
    let em := (List.range x.g.width).filter (fun k => (emSet x.g).getLsbD k)
    let has (v : Cond) : Prop := ∃ k ∈ em, condRead (condAt (cellGet x.g.q q.toNat) k) = v
    let goal (off : Int) : Nat := ((x.g.pc.toNat : Int) + 4 * off).toNat % 2 ^ 64
    (cleanIssue (.bra e c q near) s (planQ q.toNat) [] = some x →
      let taken := match c.toNat with
        | 0 => has condT
        | 1 => ∀ k ∈ em, condRead (condAt (cellGet x.g.q q.toNat) k) = condT
        | 2 => ¬has condT
        | 3 => has condU
        | 4 => ¬has condU
        | 5 => has condF
        | _ => True
      (taken → TransferResult (.bra e c q near) s x.g (goal near.toInt)) ∧ (¬taken → GroupResult (.bra e c q near) s x x.g)) ∧
    (cleanIssue (.call e far) s (fun _ => { writes := [0xC0 + 55] }) [] = some x →
      TransferResult (.call e far) s { x.g with s := cellSet x.g.s 55 (x.g.pc + 4) } (goal far.toInt)) ∧
    (cleanIssue (.jmp e a) s planUniA [] = some x → x.g.stopped = false →
      let lanes := if x.e.vec then em else [0]
      let value (k : Nat) : Nat := srcVal x.e x.i.form.a x.e.slotA (.raw 64) k
      (∀ y, lanes ≠ [] → (∀ k ∈ lanes, value k = y) → y ≠ na64 →
        if isMain y = false then FaultResult (.jmp e a) s s x (fault 0x15 y)
        else if y % 4 ≠ 0 then FaultResult (.jmp e a) s s x (fault 0x12 y)
        else TransferResult (.jmp e a) s x.g y) ∧
      ((∀ k ∈ lanes, value k = na64) → GroupResult (.jmp e a) s x x.g) ∧
      ((∃ k ∈ lanes, ∃ j ∈ lanes, value k ≠ value j) → FaultResult (.jmp e a) s s x (fault 0x03)))

/-- The three-armed conditional. `ift` pushes `em` and the lanes of the other arms and takes the lanes of the condition, the
unknown ones by its disposition; `els` and `uarm` take their arm's lanes; an arm without lanes transfers to its target; `endif`
restores `em` and pops; no bit at or above the width enters `em`. A 17th level is the fault 0x05, an arm or `endif` without an
entry 0x06 (14 R274, R277, R278). The record of the arms that a group stands in is the model's own (14 R279, log 4). -/
def Obligations.ThreeArms : Prop :=
  ∀ (e : Bool) (q : BitVec 3) (disp : BitVec 2) (off : BitVec 19) (s : State) (x : Issue), x.g.stopped = false →
    let goal : Nat := ((x.g.pc.toNat : Int) + 4 * off.toInt).toNat % 2 ^ 64
    let isSet (em m : BitVec 64) : Prop := ∀ k, k < 64 → em.getLsbD k = (decide (k < x.g.width) && m.getLsbD k)
    let arm (i : Instr) (g : Group) : Prop := if g.em = 0 then TransferResult i s g goal else GroupResult i s x g
    (cleanIssue (.ift e q disp off) s (planQ q.toNat) [] = some x →
      (16 ≤ x.g.stack.length → FaultResult (.ift e q disp off) s s x (fault 0x05)) ∧
      (x.g.stack.length < 16 → ∃ (p : BitVec 256) (em : BitVec 64),
        arm (.ift e q disp off) { x.g with
          stack := p :: x.g.stack, em := em, arms := (x.g.ifts, 0) :: x.g.arms, ifts := x.g.ifts + 1 } ∧
        entryEm p = x.g.em ∧
        (∀ k, k < 64 →
          let on := decide (k < x.g.width) && (emSet x.g).getLsbD k
          let c := condRead (condAt (cellGet x.g.q q.toNat) k)
          em.getLsbD k = (on && (c == condT || (disp == 1 && c == condU))) ∧
          (entryElse p).getLsbD k = (on && (c == condF || (disp == 2 && c == condU))) ∧
          (entryUnk p).getLsbD k = (on && disp == 0 && c == condU)) ∧
        p.extractLsb' 2 2 = 0 ∧ p.extractLsb' 0 2 = disp)) ∧
    (∀ y ∈ [(Instr.els e off, (1 : BitVec 2)), (.uarm e off, 2)], cleanIssue y.1 s planNo [] = some x →
      (x.g.stack = [] → FaultResult y.1 s s x (fault 0x06)) ∧
      (∀ p ps, x.g.stack = p :: ps → ∃ p' em, p'.extractLsb' 2 2 = y.2 ∧ p'.extractLsb' 0 2 = p.extractLsb' 0 2 ∧
        entryEm p' = entryEm p ∧ entryElse p' = entryElse p ∧ entryUnk p' = entryUnk p ∧
        isSet em (if y.2 = 1 then entryElse p else entryUnk p) ∧
        arm y.1 { x.g with stack := p' :: ps, em := em, arms := enterArm x.g y.2.toNat })) ∧
    (cleanIssue (.endif e) s planNo [] = some x →
      (x.g.stack = [] → FaultResult (.endif e) s s x (fault 0x06)) ∧
      (∀ p ps, x.g.stack = p :: ps → ∃ em, isSet em (entryEm p) ∧
        GroupResult (.endif e) s x { x.g with stack := ps, em := em, arms := leaveArm x.g }))

/-- `exit` retires its group: no group with its identifier is left, groups of other teams are as before, its team counts it no
more, and what it carries is left for its grid's end (16 R299). `kill` ends every group of its team, those of its image too, and
drops its launch numbers; its other operations go on, and its slots, tiles and memory stay until they are over. Neither changes a
byte of physical memory (14 R282, 21 R353, R355). -/
def Obligations.GroupsEnd : Prop :=
  ∀ (e : Bool) (s : State) (x : Issue),
    (cleanIssue (.exit e) s planCollective [] = some x → ∃ t, exec (.exit e) s = .next t ∧ getGroup t x.g.id = none ∧
      (∀ k y, getGroup s k = some y → k ≠ x.g.id → y.team ≠ x.g.team → getGroup t k = some y) ∧
      (∀ tm, getTeam t x.g.team = some tm → x.g.id ∉ tm.live ∧ ∀ y ∈ groupCarries s x.g, y ∈ released t (.finish tm.grid)) ∧
      t.mem = s.mem ∧ t.fe = s.fe ∧ t.ops = s.ops) ∧
    (cleanIssue .kill s planNo [] = some x → ∃ t, exec .kill s = .next t ∧ (∀ y ∈ t.groups, y.team ≠ x.g.team) ∧
      (∀ y ∈ s.groups, y.team ≠ x.g.team → ∃ y' ∈ t.groups, y'.id = y.id) ∧
      (∀ tm, getTeam s x.g.team = some tm → getTeam t x.g.team = some { tm with
        killed := true, live := [], saved := false, draining := false, savedGroups := []
        barriers := List.replicate 16 {} }) ∧
      t.ops = s.ops.filter (fun o => !(o.team == x.g.team && o.kind == .launch)) ∧ t.mem = s.mem ∧ t.fe = s.fe)

/-- `fuse`, where the sibling waits for it, makes one group of twice the width: the lower half's lanes, then the upper half's, in
every vector register, `em`, the stochastic states and the conditions; it holds the units that either half held, has the lower
half's scalars, shape registers, index and sibling record less its top entry, and the operations that the upper half has
outstanding; it waits otherwise. `split`, where an index, a slot, spill room and frames are free, makes two groups of half the
width from the lower and the upper lanes, each holding the group's units, with the other's index on top of its sibling record; the
new one, numbered 1 in the destination, has its own spill window, which is zero. What a group carried before, the group or groups
after it have acquired (14 R285 to R289). -/
def Obligations.WidthChanges : Prop :=
  ∀ (d : Opnd) (s : State) (x : Issue),
    (cleanIssue .fuse s planFuse [] = some x → x.g.recipes = [] → ∀ o, fusePartner s x.g = some o → o.id ≠ x.g.id →
      getGroup s o.id = some o → (s.groups.map (·.id)).Nodup →
      (o.wait = some .fuse → topSibling o = some x.g.index →
        let l := if isUpper x.g then { o with rq := o.rq.drop 1 } else { x.g with pc := x.g.pc + 4 }
        let u := if isUpper x.g then x.g else o
        ∃ t g', exec .fuse s = .next t ∧ getGroup t l.id = some g' ∧ getGroup t u.id = none ∧ t.mem = s.mem ∧ t.fe = s.fe ∧
          g' = { l with
            width := 2 * l.width, v := g'.v, q := g'.q, em := g'.em, rng := g'.rng, badRegs := g'.badRegs, held := l.held ||| u.held
            written := l.written ||| u.written, stack := [], sibling := l.sibling >>> 8, sibRetired := l.sibRetired >>> 1
            wait := none, unfinished := [], runCount := 0, runWords := [], latch := (.empty, .empty, .empty), slot := none
            detached := false, acquired := acquiredToo (atEnd (l.acquired ++ u.acquired)) [] (groupCarries s u), arms := [] } ∧
          (l.width ≤ 32 → ∀ k, k < 2 * l.width →
            g'.em.getLsbD k = (if k < l.width then l.em.getLsbD k else u.em.getLsbD (k - l.width)) ∧
            rngOf g' k = (if k < l.width then rngOf l k else rngOf u (k - l.width)) ∧
            (∀ r, vGet g' r k = if k < l.width then vGet l r k else vGet u r (k - l.width)) ∧
            ∀ r, r < 8 → condAt (cellGet g'.q r) k =
              if k < l.width then condAt (cellGet l.q r) k else condAt (cellGet u.q r) (k - l.width)) ∧
          (∀ y ∈ t.ops, y.group ≠ u.id) ∧ t.ops.map (·.id) = s.ops.map (·.id) ∧
          (∀ tm, getTeam t x.g.team = some tm → u.id ∉ tm.live)) ∧
      (o.wait ≠ some .fuse → WaitResult .fuse s s x .fuse)) ∧
    (cleanIssue (.split d) s planSplit [] = some x → x.g.recipes = [] → ∀ idx slot a,
      let w := whoOf s x.g
      freeIndex s x.g.team = some idx → freeSlot s w.phys = some slot →
      placeSpills s w.ctx (dieOf w.core) x.g.quota 1 = some [a] →
      (1 + bits4 x.g.held ≤ poolFree s w.phys → x.g.granted = true ∨ frameQueued s w.phys x.g.id = false →
        let n := x.g.width / 2
        let r := destReg x.i.form.d
        let halfOf (g : Group) (other : Nat) (upper : Bool) : Prop :=
          g = { x.g with
            id := g.id, index := g.index, residency := g.residency, spillAt := g.spillAt, barToken := g.barToken
            lastCause := g.lastCause, width := n, v := g.v, s := g.s, q := g.q, em := g.em, rng := g.rng, badRegs := g.badRegs
            pc := x.g.pc + 4, runCount := 0, runWords := [], latch := (.empty, .empty, .empty), slot := none, detached := false
            sibling := (x.g.sibling <<< 8) ||| BitVec.ofNat 32 (0x80 + (if upper then 0x40 else 0) + other)
            sibRetired := x.g.sibRetired <<< 1, acquired := acquiredToo (atEnd x.g.acquired) [] (groupCarries s x.g), arms := [] } ∧
          (x.g.width ≤ 64 → ∀ k, k < n →
            let from_ := if upper then n + k else k
            g.em.getLsbD k = x.g.em.getLsbD from_ ∧ rngOf g k = rngOf x.g from_ ∧ (∀ q, vGet g q k = vGet x.g q from_) ∧
              ∀ q, q < 8 → condAt (cellGet g.q q) k = condAt (cellGet x.g.q q) from_)
        ∃ t l u, exec (.split d) s = .next t ∧ getGroup t x.g.id = some l ∧ u ∈ t.groups ∧ u.id = s.nextId ∧
          halfOf l idx false ∧ halfOf u x.g.index true ∧
          l.index = x.g.index ∧ l.residency = x.g.residency ∧ l.spillAt = x.g.spillAt ∧ u.index = idx ∧ u.residency = slot ∧
          u.spillAt = a ∧ u.barToken = none ∧
          (∀ k, sGet l k = if k = r then 0 else sGet x.g k) ∧
          (∀ k, sGet u k = if k = r then 1 else if k = 54 then (0x4000000 + x.g.quota) % 2 ^ 64 else sGet x.g k) ∧
          (∀ k, cellGet t.mem k = if a ≤ k ∧ k < a + x.g.quota then 0 else cellGet s.mem k)) ∧
      (poolFree s w.phys < 1 + bits4 x.g.held ∨ (x.g.granted = false ∧ frameQueued s w.phys x.g.id = true) →
        WaitResult (.split d) s s x .split))
/-! ### Faults (03 R63, 21) -/

/-- A fault that the group's handler takes: the group runs at the handler's entry in handler mode, with every lane of `em`, the
mode and the predicate stack as at launch, `s0` the frame's address, `s1` the cause and `s2` the word's address; the frame at the
bottom of its spill window, in its die's pool, holds the cause, the number of queue entries, the address, the resume address, the
data, `em`, the mode, the run's count, the kept token, the scalars, the conditions and the predicate stack of before; no other
byte of memory, no vector register and no shape register changes, and the scalars written are whole. While words of the group stand
in the matrix engine the fault is kept, with the words that are to be queued, and nothing else happens. A fault that no handler takes
(none is given, the group is in handler mode, or the window is too small for a frame) ends its grid with status 1 and the fault's
cause: no group of the grid's teams is left; the context's fault record is valid, and holds the cause and the grid if it was free
(21 R342 to R344, R354, 25 R371). -/
def Obligations.TakingAFault : Prop :=
  (∀ (s : State) (g : Group) (f : FaultInfo) (es : List Entry) (fi : Nat) (addr resume : DWord),
     (getGroup s g.id).isSome = true → canHandle s g = true → es.length < 256 → matrixLeft s g = [] →
     let t := takeFault s g f es fi addr resume
     ∃ g', getGroup t g.id = some g' ∧
       g'.handler = true ∧ g'.pc = BitVec.ofNat 64 (handlerOf s g) ∧ g'.em = BitVec.ofNat 64 (2 ^ g.width - 1) ∧
       g'.mode = 0x204000 ∧ g'.stack = [] ∧ g'.rq = [] ∧ g'.latch = (.empty, .empty, .empty) ∧ g'.runCount = 0 ∧
       g'.slot = none ∧ g'.wait = none ∧
       sGet g' 0 = 0x4000000 ∧ sGet g' 1 = f.cause.toNat ∧ sGet g' 2 = addr.toNat ∧ (∀ k, 2 < k → sGet g' k = sGet g k) ∧
       g'.v = g.v ∧ g'.q = g.q ∧ g'.h = g.h ∧ g'.rng = g.rng ∧ g'.held = g.held ∧
       (∀ b, b ∈ g'.badRegs ↔ b ∈ g.badRegs ∧ ¬(0xC0 ≤ b.1 ∧ b.1 ≤ 0xC2)) ∧
       (let at_ (o n : Nat) : Nat := bytesGet t.mem (g.spillAt + o) n
        at_ 0 1 = f.cause.toNat ∧ at_ 2 1 = es.length ∧ at_ 5 1 = g.runCount % 256 ∧ at_ 0xC 1 = g.stack.length % 256 ∧
        at_ 0x10 8 = addr.toNat ∧ at_ 0x18 8 = resume.toNat ∧
        at_ 0x20 8 = f.data.toNat ∧ at_ 0x28 8 = g.em.toNat ∧ at_ 0x30 4 = g.mode.toNat ∧
        at_ 0x90 8 = (match g.barToken with | some k => k.toNat | none => na64) ∧ at_ 0x98 8 = f.elem.toNat ∧
        (∀ k, k < 8 → at_ (0x40 + 8 * k) 8 = sGet g k ∧ at_ (0xA0 + 16 * k) 16 = (cellGet g.q k).toNat) ∧
        at_ 0x80 8 = sGet g 54 ∧ at_ 0x88 8 = sGet g 55 ∧
        (∀ k p, k < 16 → g.stack.reverse[k]? = some p → at_ (0x200 + 32 * k) 32 = p.toNat)) ∧
       (∀ k, k < g.spillAt ∨ g.spillAt + 0xA000 ≤ k → cellGet t.mem k = cellGet s.mem k) ∧ t.fe = s.fe) ∧
  (∀ (s : State) (g : Group) (f : FaultInfo) (es : List Entry) (fi : Nat) (addr resume : DWord) (tm : Team) (gr : Grid)
     (c : Context), canHandle s g = false → matrixLeft s g = [] → getTeam s g.team = some tm → getGrid s tm.grid = some gr → gr.ended = false →
     (s.teams.map (·.id)).Nodup → getCtx s gr.context = some c →
     let t := takeFault s g f es fi addr resume
     (∃ gr', getGrid t tm.grid = some gr' ∧ gr'.ended = true ∧ gr'.status = 1 ∧ gr'.cause = f.cause) ∧
     (∀ y ∈ t.groups, ∀ tm' ∈ s.teams, tm'.grid = tm.grid → y.team ≠ tm'.id) ∧
     bytesGet t.mem c.faultRec 1 = 1 ∧
     (bytesGet s.mem c.faultRec 1 ≠ 1 →
       bytesGet t.mem (c.faultRec + 1) 1 = f.cause.toNat ∧ bytesGet t.mem (c.faultRec + 8) 8 = tm.grid % 2 ^ 64)) ∧
  (∀ (s : State) (g : Group) (f : FaultInfo) (es : List Entry) (fi : Nat) (addr resume : DWord),
     (∃ m ∈ (getCore s (whoOf s g).phys).matrix, m.group = g.id ∧ m.todo.isSome = true) →
     takeFault s g f es fi addr resume =
       setGroup s { g with rq := es, pending := some f, wait := none, slot := none, detached := false })

/-- A fresh element-wise word that meets a cause of 03 R63 takes the first of them, with no effect of its own: it is the last
entry of the queue, marked as the faulting one; an encoding that is not well-formed is cause 0x01 before any other. One that reads
a register element with an uncorrectable error is the fault 0x50 at the lowest such active lane; one that meets none completes,
and the elements that it writes are whole (03 R63, 21 R342, R346, R361). -/
def Obligations.ElementwiseFaults : Prop :=
  (∀ (i : Instr) (s : State) (g : Group) (w : Word) (f : FaultInfo), isElem i = true → s.cur.bind (getGroup s) = some g →
     encode i = some w → g.rq = [] → g.stopped = false →
     (let p := planElem (freshIssue i s g w)
      ∀ c ∈ p.reads i (p.placesOr []) 7, isDropped g c = false) →
     issueFault i s g w planElem [] = some f →
     (i.wf = false → f = fault 0x01 w.toNat) ∧
     ∃ e : Entry, exec i s = .next (takeFault s { g with
         pc := g.pc + 4, runCount := g.runCount + 1, runWords := w :: g.runWords } f [e] 0 g.pc (g.pc + 4)) ∧
       e.word = w ∧ e.addr = g.pc ∧ e.mode = g.mode ∧ e.valid = true ∧ e.faulting = true) ∧
  (∀ (i : Instr) (s : State) (x : Issue), isElem i = true → readyIssue i s planElem [] = some x →
     let p := planElem (freshIssue i s x.g x.e.word)
     let hit (k : Nat) : Prop := ∃ c ∈ p.reads i (p.placesOr []) 7, (c, if c < 192 then k else 0) ∈ x.g.badRegs
     let active (k : Nat) : Prop := k < x.g.width ∧ x.e.active.getLsbD k = true
     (x.e.vec = true → x.g.stopped = false → ∀ k, active k → hit k → (∀ j, j < k → active j → ¬hit j) →
       FaultResult i s (signal s 2) x { fault 0x50 na64 with lane := BitVec.ofNat 32 k }) ∧
     (x.e.vec = false → x.g.stopped = false → hit 0 → FaultResult i s (signal s 2) x (fault 0x50 na64)) ∧
     ((if x.e.vec then ∀ k, active k → ¬hit k else ¬hit 0) → ∃ t g', exec i s = .next t ∧ getGroup t x.g.id = some g' ∧
       ∀ b, b ∈ g'.badRegs ↔ b ∈ x.g.badRegs ∧
         ¬(b.1 ∈ p.writes ∧ (x.e.vec = false ∨ x.e.active.getLsbD b.2 = true ∨ zeroFlag x.g.mode = true))))

/-- `trap` takes the software trap 0x60 with its code as data, itself not queued. `rth` in handler mode restores what the frame at
the bottom of the spill window holds, and leaves handler mode, at the frame's resume address: `em`, the mode, the predicate stack,
the scalars, the conditions, the kept token, the valid queue entries in their order with their operands, and, unless nothing of
the run is left, its count and the latches, each full, empty or pending on its entry. A frame that fails a check is the fault
0x15, one with an uncorrectable error in it 0x50; outside handler mode the word is the illegal instruction 0x01 (21 R342, R344,
R345, R347 to R350). An entry keeps its index as the tag by which its latch waits for it, where one does, or where it is the entry
of the trap. The data of those faults, and the run that ends when nothing of it is left, are the model's choice (log 42); a latch
that was empty at the trap, with its slot and the latch byte untouched, may stay so (log 39); how the run goes on is its reading
(log 43). -/
def Obligations.TrapAndReturn : Prop :=
  ∀ (e : Bool) (c : BitVec 8) (s : State),
    (∀ x, cleanIssue (.trap e c) s planNo [] = some x →
      let g := { x.g with pc := x.g.pc + 4, runCount := x.g.runCount + 1, runWords := x.e.word :: x.g.runWords }
      exec (.trap e c) s = .next (takeFault (setGroup s g) g (fault 0x60 c.toNat) [] 0xFF x.g.pc (x.g.pc + 4))) ∧
    (∀ x, cleanIssue .rth s planRth [] = some x →
      let m := spillOf s x.g
      let at_ (o n : Nat) : Nat := bytesGet m o n
      let entry (j : Nat) : Nat := 0xA00 + 0x640 * j
      let valid (j : Nat) : Prop := at_ (entry j + 4) 1 % 2 = 1
      let code (a : Nat) : Prop := isMain a = true ∧ a % 4 = 0
      let bad := physBad s false x.g.spillAt (0xA00 + 0x640 * min 24 (at_ 2 1))
      x.g.handler = true ∧ (∀ o, o < x.g.quota → cellGet m o = cellGet s.mem (x.g.spillAt + o)) ∧
      (frameOk m = true ↔ at_ 2 1 ≤ 24 ∧ at_ 0xC 1 ≤ 16 ∧ at_ 5 1 ≤ 24 ∧ code (at_ 0x18 8) ∧
        (∀ k, k < 3 → at_ (0xD + k) 1 = 0xFF ∨ at_ (0xD + k) 1 < at_ 2 1) ∧
        ∀ j, j < at_ 2 1 → valid j → code (at_ (entry j + 8) 8)) ∧
      (bad = true → x.g.stopped = false → FaultResult .rth s (signal s 2) x (fault 0x50 0x4000000)) ∧
      (bad = false → frameOk m = false → x.g.stopped = false → FaultResult .rth s s x (fault 0x15 0x4000000)) ∧
      (bad = false → frameOk m = true → ∃ g', exec .rth s = .next (setGroup s g') ∧ g'.id = x.g.id ∧
        g'.handler = false ∧ g'.pc.toNat = at_ 0x18 8 ∧ g'.em.toNat = at_ 0x28 8 % 2 ^ x.g.width % 2 ^ 64 ∧
        g'.mode = BitVec.ofNat 25 (at_ 0x30 4) ∧ g'.slot = none ∧ g'.wait = none ∧
        g'.stack.length = at_ 0xC 1 ∧
        (∀ k, k < at_ 0xC 1 → g'.stack.reverse[k]? = some (BitVec.ofNat 256 (at_ (0x200 + 32 * k) 32))) ∧
        (∀ k, k < 8 → sGet g' k = at_ (0x40 + 8 * k) 8 ∧ (cellGet g'.q k).toNat = at_ (0xA0 + 16 * k) 16) ∧
        sGet g' 54 = at_ 0x80 8 ∧ sGet g' 55 = at_ 0x88 8 ∧ (∀ k, 8 ≤ k → k ≠ 54 → k ≠ 55 → sGet g' k = sGet x.g k) ∧
        g'.barToken = (if at_ 0x90 8 = na64 then none else some (BitVec.ofNat 64 (at_ 0x90 8))) ∧
        g'.v = x.g.v ∧ g'.h = x.g.h ∧ g'.rng = x.g.rng ∧ g'.spillAt = x.g.spillAt ∧ g'.quota = x.g.quota ∧
        (let js : List Nat := (List.range (at_ 2 1)).filter (fun j => at_ (entry j + 4) 1 % 2 == 1)
         g'.rq.length = js.length ∧ ∀ k j : Nat, js[k]? = some j → ∃ y : Entry, g'.rq[k]? = some y ∧ y.valid = true ∧
           (y.tag = j + 1 ∨ y.tag = 0) ∧ (latchWaits g'.latch (j + 1) = true → y.tag = j + 1) ∧
           let o := entry j
           let lane (b k : Nat) : Nat := if y.bcast.getLsbD b then 0 else k
           y.word = BitVec.ofNat 32 (at_ o 4) ∧ y.captured = BitVec.ofNat 3 (at_ (o + 5) 1) ∧ y.addr.toNat = at_ (o + 8) 8 ∧
           y.active.toNat = at_ (o + 0x10) 8 ∧ y.mode = BitVec.ofNat 25 (at_ (o + 0x18) 4) ∧ y.first = at_ (o + 0x1C) 4 ∧
           y.cond0.toNat = at_ (o + 0x20) 16 ∧ y.cond1.toNat = at_ (o + 0x30) 16 ∧
           (∀ k, k < 64 → (cellGet y.slotA k).toNat = at_ (o + 0x40 + 8 * lane 0 k) 8 ∧
             (cellGet y.slotB k).toNat = at_ (o + 0x240 + 8 * lane 1 k) 8 ∧
             (cellGet y.slotD k).toNat = at_ (o + 0x440 + 8 * lane 2 k) 8)) ∧
        (let ended := g'.rq = [] ∧ (24 ≤ at_ 5 1 ∨ (x.g.trapWords.headD 0).getLsbD 25 = true)
         (ended → g'.runCount = 0 ∧ g'.latch = (.empty, .empty, .empty)) ∧
         (¬ended → g'.runCount = at_ 5 1 ∧ g'.runWords = x.g.trapWords ∧
           ∀ y ∈ [(0, g'.latch.1), (1, g'.latch.2.1), (2, g'.latch.2.2)],
             let k := y.1
             let kind := at_ 4 1 / 2 ^ (2 + k) % 2 == 1
             let pends := at_ (0xD + k) 1
             let slot (j : Nat) : Nat := at_ (0x400 + 0x200 * k + 8 * j) 8
             let full := ∃ vals, y.2 = .full kind vals ∧ ∀ j, j < (if kind then 64 else 1) → (cellGet vals j).toNat = slot j
             (at_ 4 1 % 4 ≤ k → y.2 = .empty) ∧
             (k < at_ 4 1 % 4 → pends = 0xFF → full ∨
               (y.2 = .empty ∧ x.g.trapEmpty.getLsbD k = true ∧ at_ 4 1 = x.g.trapUsed.toNat ∧ slot 0 = 0)) ∧
             (k < at_ 4 1 % 4 → pends ≠ 0xFF → (valid pends → y.2 = .pending kind (pends + 1)) ∧
               (¬valid pends → y.2 = .empty)))))) ∧
    (∀ g w, s.cur.bind (getGroup s) = some g → encode .rth = some w → g.rq = [] → g.stopped = false → g.handler = false →
      ∃ y : Entry, y.word = w ∧ y.faulting = true ∧ exec .rth s = .next (takeFault s { g with
        pc := g.pc + 4, runCount := g.runCount + 1, runWords := w :: g.runWords } (fault 0x01 w.toNat) [y] 0 g.pc (g.pc + 4)))

/-! ### Barriers, work, identity (16) -/

/-- Arriving at barrier b of the team with a uniform word: `bar.arr` gives the token, `bar` goes on if its arrival is the last and
waits with the token kept otherwise; the last arrival begins the next phase; an arrival releases what its group carries, and a
group that goes on acquires the releases of its phase; an illegal word, or a count other than the phase's, is the fault 0x41 (16
R310, R311, R313). -/
def Obligations.BarrierArrivals : Prop :=
  ∀ (e t : Bool) (d a : Opnd) (s : State) (x : Issue) (tm : Team) (word : Nat),
    let lanes := if x.e.vec then (List.range x.g.width).filter (fun k => (activeSet x.g).getLsbD k) else [0]
    let b := word % 16
    let count := word / 16 % 32
    let bar := getBar s x.g.team b
    let open_ := bar.arrivals ≠ 0
    let n := if open_ then bar.expected else if count = 0 then tm.live.length else count
    let fromLive := if open_ then bar.fromLive else count == 0
    let last := bar.arrivals + 1 = n
    let next : Barrier :=
      if last then { phase := bar.phase + 1, arrivals := 0, expected := n, fromLive := fromLive, arrived := [] }
      else { phase := bar.phase, arrivals := bar.arrivals + 1, expected := n, fromLive := fromLive, arrived := x.g.id :: bar.arrived }
    let legal := word / 512 = 0 ∧ count ≤ 16 ∧ (open_ → count ≠ 0 → count = bar.expected)
    let token := bar.phase.toNat * 16 + b
    let s1 := releaseAt (setBar s x.g.team b next) (.phase x.g.team b bar.phase) (groupCarries s x.g)
    getTeam s x.g.team = some tm → lanes ≠ [] → word ≠ na64 →
    (∀ k ∈ lanes, srcVal x.e x.i.form.a x.e.slotA (.raw 64) k = word) → x.g.stopped = false →
    (cleanIssue (.barArr e t d a) s planBar [] = some x →
      (legal → ScalarResult (.barArr e t d a) s s1 x x.g t (destReg x.i.form.d) token) ∧
      (¬legal → FaultResult (.barArr e t d a) s s x (fault 0x41 word))) ∧
    (cleanIssue (.bar a) s planBar [] = some x →
      (legal → last → StateResult (.bar a) s (acquireAges (setGroup s1 { x.g with barToken := none }) x.g.id
        (released s1 (.phase x.g.team b bar.phase))) x) ∧
      (legal → ¬last → WaitResult (.bar a) s (setGroup s1 { x.g with barToken := some (BitVec.ofNat 64 token) }) x
        (.bar b bar.phase)) ∧
      (¬legal → FaultResult (.bar a) s s x (fault 0x41 word)))

/-- `bar.wt` goes on once the phase of its token has passed, or with no token; `gbar` of a gang goes on with its status word when
every live group of the gang has arrived on this package, or when the gang barrier is broken, and waits otherwise, a group that
has arrived already without arriving again; outside a gang it is the fault 0x41. An arrival releases what its group carries, and
what goes on after a wait has acquired the releases of its phase (16 R311 to R313). The phase at which a waiting `gbar` has
arrived stands in its queue entry (log 66). -/
def Obligations.BarrierWaits : Prop :=
  ∀ (a d : Opnd) (s : State) (x : Issue) (tm : Team) (gr : Grid),
    (cleanIssue (.barWt a) s planBarWt [] = some x →
      let token := scalarA x
      let pending := (getBar s x.g.team (token % 16)).phase = BitVec.ofNat 32 (token / 16)
      (token = na64 → GroupResult (.barWt a) s x x.g) ∧
      (token ≠ na64 → ¬pending → StateResult (.barWt a) s
        (acquireAges s x.g.id (released s (.phase x.g.team (token % 16) (BitVec.ofNat 32 (token / 16))))) x) ∧
      (token ≠ na64 → pending → WaitResult (.barWt a) s s x (.bar (token % 16) (BitVec.ofNat 32 (token / 16))))) ∧
    (cleanIssue (.gbar d) s planGbar [] = some x → getTeam s x.g.team = some tm → getGrid s tm.grid = some gr →
      let arrived := x.g.id ∈ gr.gbArrived
      let gr' := { gr with gbArrived := x.g.id :: gr.gbArrived }
      let point : Point := .gang gr.id gr.gbPhase
      let s1 := releaseAt (setGrid s gr') point (groupCarries s x.g)
      let all_ := recPeers gr.record = 0xFFFF ∧ ∀ y ∈ s.teams, y.grid = gr.id → ∀ k ∈ y.live, k ∈ gr'.gbArrived
      let gives (s0 : State) (w : Nat) : Prop :=
        ScalarResult (.gbar d) s s0 x ((getGroup s0 x.g.id).getD x.g) false (destReg x.i.form.d) w
      let waits (s0 : State) : Prop := WaitResult (.gbar d) s s0
        { x with e := { x.e with partials := [(0, BitVec.ofNat 64 (gr.gbPhase.toNat + 2 ^ 32))] } } (.gbar gr.gbPhase)
      (recGang gr.record = false → x.g.stopped = false → FaultResult (.gbar d) s s x (fault 0x41)) ∧
      (recGang gr.record = true → ∀ w, gr.gbBroken = some w → gives s w.toNat) ∧
      (recGang gr.record = true → gr.gbBroken = none → arrived → waits s) ∧
      (recGang gr.record = true → gr.gbBroken = none → ¬arrived → all_ →
        gives (acquireAges (setGrid s1 { gr' with gbPhase := gr.gbPhase + 1, gbArrived := [] }) x.g.id (released s1 point))
          (gr.gbPhase.toNat * 2 ^ 32 + 0xFFFF0000)) ∧
      (recGang gr.record = true → gr.gbBroken = none → ¬arrived → ¬all_ → waits s1))

/-- `gid` gives a field of the group's identity by its selector, and `na` for the index of a team that a task or items made;
`yield` puts its group last in its class's order in both slots of its core. `csrr` gives a system register, `csrw` sets `snapsel`,
whose undefined bits stay zero, and does nothing with an absent source; `snap` pulls the trigger (16 R316, R317, 25 R372 to R375).
The cycle count is a free value of the model (log 6). -/
def Obligations.SystemWords : Prop :=
  ∀ (e t : Bool) (d a : Opnd) (sf : BitVec 4) (n : BitVec 8) (s : State) (x : Issue) (tm : Team) (gr : Grid),
    getTeam s x.g.team = some tm → getGrid s tm.grid = some gr →
    (cleanIssue (.gid e t d sf) s planDst [] = some x →
      let r := gr.record
      let n := tm.linear.toNat
      let own (v : Nat) : Nat := if tm.origin = 0 then v else na64
      let rank := match recPeer s gr.context r with | some p => p.rank | none => 0
      let values := [own (n % recX r), own (n / recX r % recY r), own (n / (recX r * recY r)), own n, x.g.index, tm.groups,
        x.g.width, gr.depth, recX r, recY r, recZ r, tm.core, dieOf tm.core, rank, tm.origin]
      sf.toNat < 15 → ScalarResult (.gid e t d sf) s s x x.g t (destReg x.i.form.d) (values.getD sf.toNat 0)) ∧
    (cleanIssue .yield s planNo [] = some x →
      let cls := if x.g.aged then 0 else tm.prio
      let core := (whoOf s x.g).phys
      ∃ k, exec .yield s = .next (setGroup (setCore s core k) (sequenced x { x.g with aged := false })) ∧
        (∀ slot, slot < 2 → k.lastWon.find? (fun w => w.1 == slot && w.2.1 == cls) = some (slot, cls, x.g.residency)) ∧
        { k with lastWon := [] } = { getCore s core with lastWon := [] }) ∧
    (cleanIssue (.csrr e t d n) s planDst [] = some x → ∀ c, getCtx s gr.context = some c →
      let gives (v : Nat) : Prop := ScalarResult (.csrr e t d n) s s x x.g t (destReg x.i.form.d) v
      (n = 0x00 → gives (0x0940 * 2 ^ 48 + if Config.isP then 2 ^ 32 else 0)) ∧ (n = 0x01 → gives (4 * 256 + 128)) ∧
      (n = 0x02 → gives gr.context) ∧ (n = 0x03 → gives (Config.cycleCount (whoOf s x.g).phys s.tick).toNat) ∧
      (n = 0x04 → gives (getCore s (whoOf s x.g).phys).stretch.toNat) ∧ (n = 0x10 → gives c.snapsel.toNat) ∧
      (n = 0x11 → gives (c.triggered.toNat * 2 ^ 32 + c.missed.toNat))) ∧
    (cleanIssue (.csrw e n a) s (planCsrw n.toNat) [] = some x →
      n = 0x10 ∧ (scalarA x = na64 → GroupResult (.csrw e n a) s x x.g) ∧
      (scalarA x ≠ na64 → StateResult (.csrw e n a) s
        (modCtx s gr.context (fun c => { c with snapsel := BitVec.ofNat 64 (scalarA x) &&& 0xFF03 })) x)) ∧
    (cleanIssue (.snap e) s planNo [] = some x →
      StateResult (.snap e) s (pullTrigger s 1 0 (some gr.context) (some x.g)) x ∧
      (s.snapshot.held = false → (pullTrigger s 1 0 (some gr.context) (some x.g)).snapshot.held = true))

/-- `launch` of a legal record starts a child grid one level deeper and issues its number on a timeline; `task` of a legal record
takes the lowest free entry of the die's table, with the record's counter and the next generation of that entry, leaves every
other entry, and gives the handle; with no free entry it waits. A record is read in 8-byte parts, each as its group sees it, which
it observes from then on (04 R88, 13 R262). What the group carries is released toward the child, and toward the task (R303, R308). Each does nothing for an absent address, and is the fault 0x50 where the record has an uncorrectable error
(16 R302, R307, 21 R361). -/
def Obligations.LaunchAndTask : Prop :=
  ∀ (e t : Bool) (l : BitVec 3) (d a : Opnd) (s : State) (x : Issue) (gr : Grid) (y : Int),
    let w := whoOf s x.g
    let record (n : Nat) : List Byte := leBytes n (recordSeen s w (groupView s x.g) y.toNat n)
    let noted (n : Nat) : State := nearNoted s w x.g 8 (partAddrs y.toNat n)
    let now (s : State) : Group := (getGroup s x.g.id).getD x.g
    let given (n : Nat) : Prop := i64? (scalarA x) = some y ∧ nearFaults s w false n 64 [y] = none
    let bad (n : Nat) : Bool := nearBad s w false y.toNat n
    gridOf s x.g = some gr →
    (cleanIssue (.launch e l a) s planA [] = some x →
      (scalarA x = na64 → GroupResult (.launch e l a) s x x.g) ∧
      (given 128 → bad 128 = true → x.g.stopped = false →
        FaultResult (.launch e l a) s (signal s 2) x (fault 0x50 (addrData y))) ∧
      (given 128 → bad 128 = false →
        let r := record 128
        let n := (getTl s x.g.team l.toNat).issued + 1
        recordOk s gr.context r true = true → gr.depth < 10 → (getTl s x.g.team l.toNat).issued ≠ 0xFFFFFFFFFFFFFFFF →
        let p := startGrid (noted 128) gr.context r (gr.depth + 1) 0xFFFF 0 (some (x.g.team, l.toNat, n)) gr.id
        StateResult (.launch e l a) s
          (issueOp (replaceAt p.2 (.start p.1) (groupCarries p.2 (now p.2))) (now p.2) { blankOp .launch l.toNat x.e.word x.g.mode [] [] with child := p.1 }) x ∧
        ∃ c ∈ p.2.grids, c.id = p.1 ∧ c.record = r ∧ c.depth = gr.depth + 1 ∧ c.parentGrid = gr.id ∧
          c.parent = some (x.g.team, l.toNat, n) ∧ c.context = gr.context ∧ c.ended = false)) ∧
    (cleanIssue (.task e t d a) s planAD [] = some x →
      (scalarA x = na64 → ScalarResult (.task e t d a) s s x x.g t (destReg x.i.form.d) 0xFFFFFFFF) ∧
      (given 64 → bad 64 = true → x.g.stopped = false →
        FaultResult (.task e t d a) s (signal s 2) x (fault 0x50 (addrData y))) ∧
      (given 64 → bad 64 = false →
        let r := record 64
        let at_ (k : Nat) (z : TaskEntry) : Prop := z.context = w.ctx ∧ z.die = dieOf w.core ∧ z.index = k
        let used (k : Nat) : Prop := ∃ z ∈ s.tasks, at_ k z ∧ z.inUse = true
        taskOk r = true →
        (∀ k, k < 4096 → ¬used k → (∀ j, j < k → used j) → ∃ s1 z,
          ScalarResult (.task e t d a) s s1 x (now s1) t (destReg x.i.form.d) (z.gen * 2 ^ 14 + z.die * 2 ^ 12 + z.index) ∧
          s1 = { noted 64 with tasks := s1.tasks, nextId := s.nextId + 1, sync := s1.sync } ∧
          released s1 (.task w.ctx (dieOf w.core) k) = groupCarries (noted 64) (now (noted 64)) ∧ at_ k z ∧ z.inUse = true ∧ z.grid = gr.id ∧
          z.record = r ∧ z.counter = leAt r 0x10 4 ∧ z.placed = false ∧ (z.released = true ↔ z.counter = 0) ∧
          (∀ q, q ∈ s1.tasks ↔ q = z ∨ (q ∈ s.tasks ∧ ¬at_ k q)) ∧
          ((∀ q ∈ s.tasks, ¬at_ k q) → z.gen = 1) ∧
          ∀ q, s.tasks.find? (fun q => q.context == w.ctx && q.die == dieOf w.core && q.index == k) = some q →
            z.gen = q.gen % 0x3FFFF + 1) ∧
        ((∀ k, k < 4096 → used k) → WaitResult (.task e t d a) s s x .taskRoom)))

/-- `item` of legal targets queues its items at the end of the queues of its grid and their targets on its die, lanes in ascending
order, each with its lane's payload, a fresh seed from its lane's stochastic state, which steps once, and what its group carries;
it waits while the die's queues have no room for all; a target outside main memory is the fault 0x15, one that is no multiple of 4
0x12; that every target is tried for the first before any is for the second is the model's reading (log 54). `dep.dec` decrements each named task's counter, a release toward it, releases the task at zero, and does nothing for an
absent handle, an absent or zero amount, or a released task; a handle that names no task is the fault 0x15 at its lane, the lanes
below it applied (16 R304, R305, R308, 05 R108). -/
def Obligations.ItemsAndDecrements : Prop :=
  ∀ (e : Bool) (d a : Opnd) (s : State) (x : Issue) (tm : Team),
    (cleanIssue (.item e d a) s planItem [] = some x → getTeam s x.g.team = some tm →
      let lanes := itemLanes x
      let die := dieOf (whoOf s x.g).phys
      let legal := ∀ y ∈ lanes, isMain y.2.1 = true ∧ y.2.1 % 4 = 0
      let room := itemsQueued (getDie s die) + lanes.length ≤ 65536
      let queue (d : Die) (grid : Nat) (target : DWord) : List Item :=
        ((d.queues.find? (fun q => q.grid == grid && q.target == target)).map (·.items)).getD []
      let seed (k : Nat) : Nat :=
        let n := Nat.xor (rngStep (rngOf x.g k)) 0x5BD1E995
        if n = 0 then 1 else n
      let items (target : DWord) : List Item := (lanes.filter (fun y => BitVec.ofNat 64 y.2.1 == target)).map (fun y =>
        { payload := BitVec.ofNat 64 y.2.2, seed := BitVec.ofNat 32 (seed y.1), carried := groupCarries s x.g })
      (∀ y, lanes.find? (fun y => !isMain y.2.1) = some y → x.g.stopped = false →
        FaultResult (.item e d a) s s x (fault 0x15 y.2.1)) ∧
      (∀ y, (∀ z ∈ lanes, isMain z.2.1 = true) → lanes.find? (fun y => y.2.1 % 4 != 0) = some y → x.g.stopped = false →
        FaultResult (.item e d a) s s x (fault 0x12 y.2.1)) ∧
      (legal → ¬room → WaitResult (.item e d a) s s x .items) ∧
      (legal → room → ∃ dies rng,
        exec (.item e d a) s = .next (setGroup { s with dies := dies } (sequenced x { x.g with rng := rng })) ∧
        (∀ k, cellGet rng k = if ∃ y ∈ lanes, y.1 = k then BitVec.ofNat 32 (rngStep (rngOf x.g k)) else cellGet x.g.rng k) ∧
        (∀ k, k ≠ die → dies.getD k {} = getDie s k) ∧
        { dies.getD die {} with queues := [] } = { getDie s die with queues := [] } ∧
        ∀ grid target, queue (dies.getD die {}) grid target =
          queue (getDie s die) grid target ++ if grid = tm.grid then items target else [])) ∧
    (∀ (ctx h n : Nat),
      (h = 0xFFFFFFFF ∨ n = 0xFFFFFFFF ∨ n = 0 → decTask s ctx h n = .skip) ∧
      (h ≠ 0xFFFFFFFF → n ≠ 0xFFFFFFFF → n ≠ 0 →
        let here (y : TaskEntry) : Bool := y.context == ctx && y.die == h / 2 ^ 12 % 4 && y.index == h % 2 ^ 12
        (s.tasks.find? here = none → decTask s ctx h n = .bad) ∧
        ∀ z, s.tasks.find? here = some z →
          (z.gen ≠ h / 2 ^ 14 → decTask s ctx h n = .bad) ∧
          (z.gen = h / 2 ^ 14 → z.released = true → decTask s ctx h n = .skip) ∧
          (z.gen = h / 2 ^ 14 → z.released = false → ∃ s1, decTask s ctx h n = .done s1 ∧
            s1 = { s with tasks := s1.tasks, nextId := s1.nextId } ∧
            ∃ z' ∈ s1.tasks, z'.gen = z.gen ∧ z'.die = z.die ∧ z'.index = z.index ∧ z'.counter = z.counter - n ∧
              (z'.released = true ↔ z.counter ≤ n)))) ∧
    (cleanIssue (.depDec e d a) s planDep [] = some x →
      let ctx := (whoOf s x.g).ctx
      let handle (k : Nat) : Nat := srcVal x.e x.i.form.d x.e.slotD (.raw 32) k
      let dec (s : State) (k : Nat) : Dec := decTask s ctx (handle k) (srcVal x.e x.i.form.a x.e.slotA (.raw 32) k)
      let applied (l : List Nat) : Option State := l.foldl (fun (acc : Option State) k => acc.bind (fun s1 =>
        match dec s1 k with
        | .skip => some s1
        | .bad => none
        | .done s2 => some (releaseAt s2 (taskPoint ctx (handle k)) (groupCarries s x.g)))) (some s)
      (∀ s1, applied (actingLanes x) = some s1 → StateResult (.depDec e d a) s s1 x) ∧
      (∀ before k after s1, actingLanes x = before ++ k :: after → applied before = some s1 → dec s1 k = .bad →
        x.g.stopped = false →
        (x.e.vec = true → FaultResult (.depDec e d a) s s1 { x with e := { x.e with first := k } }
          { fault 0x15 (handle k) with lane := BitVec.ofNat 32 k }) ∧
        (x.e.vec = false → FaultResult (.depDec e d a) s s1 x (fault 0x15 (handle k)))))

/-! ### Timelines and engines (06) -/

/-- `tlwait` goes on once its number is complete, raising a failure recorded up to that number; `tlread` gives the completed and
the issued number; `tlbind` of an idle timeline sets its limit and its base. The two wait otherwise; what goes on after a `tlwait`
has acquired what the operations up to its number have left (06 R126, R129 to R131, 24 R365; the model's reading, log 70). -/
def Obligations.TimelineWords : Prop :=
  ∀ (e : Bool) (d : Opnd) (l : BitVec 3) (n : BitVec 5) (s : State) (x : Issue),
    let tl := getTl s x.g.team l.toNat
    (cleanIssue (.tlread e d l) s planTlread [] = some x →
      let r := destReg x.i.form.d
      ∃ m la, GroupResult (.tlread e d l) s x { x.g with s := m, latch := la } ∧ ScalarLatched x la tl.completed.toNat ∧
        cellGet m r = tl.completed ∧ cellGet m (r + 1) = tl.issued ∧ ∀ k, k ≠ r → k ≠ r + 1 → cellGet m k = cellGet x.g.s k) ∧
    (cleanIssue (.tlwait l n) s (planOne n.toNat) scalarPlaces = some x →
      let number := sGet x.g n.toNat
      (number = na64 → GroupResult (.tlwait l n) s x x.g) ∧
      (number ≠ na64 → tl.completed.toNat < number → WaitResult (.tlwait l n) s s x (.timeline l.toNat)) ∧
      (number ≠ na64 → number ≤ tl.completed.toNat → (∀ f, tl.failure = some f → number < f.number.toNat) →
        StateResult (.tlwait l n) s (acquireAges s x.g.id (releasedUpTo s x.g.team l.toNat number)) x) ∧
      (number ≠ na64 → number ≤ tl.completed.toNat → x.g.stopped = false → ∀ f, tl.failure = some f → f.number.toNat ≤ number →
        FaultResult (.tlwait l n) s (modTl s x.g.team l.toNat (fun t => { t with failure := none })) x
          { cause := f.cause, data := f.number, elem := f.elem })) ∧
    (cleanIssue (.tlbind d l n) s (planTlbind n.toNat) scalarPlaces = some x →
      (tl.issued ≠ tl.completed → WaitResult (.tlbind d l n) s s x (.timeline l.toNat)) ∧
      (tl.issued = tl.completed → tl.failure = none →
        let base := sGet x.g n.toNat
        StateResult (.tlbind d l n) s (modTl s x.g.team l.toNat (fun t => { t with
          issued := if base = na64 then t.issued else BitVec.ofNat 64 base
          completed := if base = na64 then t.completed else BitVec.ofNat 64 base
          done := if base = na64 then t.done else []
          limit := if scalarD x = na64 then t.limit else BitVec.ofNat 32 (scalarD x) })) x))

/-- Issuing an engine operation gives it the timeline's next number and appends it to the operations, and changes nothing else. A
copy, fetch or select instruction whose records, list and timeline pass the checks issues one operation, which holds the word, the
mode, its shape records and its scalars as they are now (06 R111, R113, R116, R127, 18 R323). -/
def Obligations.EngineIssue : Prop :=
  (∀ (s : State) (g : Group) (op : EngineOp) (tm : Team), getTeam s g.team = some tm →
    let t := issueOp s g op
    let w := whoOf s g
    t.ops = s.ops ++ [{ op with
      id := s.nextId, context := w.ctx, team := g.team, group := g.id, core := w.core, number := (getTl s g.team op.tl).issued + 1
      serial := s.tick, index := g.index, issueAge := s.age, acquired := gained g op.kind.maskBit, arms := g.arms }] ∧
    getTl t g.team op.tl = { getTl s g.team op.tl with issued := (getTl s g.team op.tl).issued + 1 } ∧
    (∀ k, k ≠ op.tl → getTl t g.team k = getTl s g.team k) ∧ (∀ k, k ≠ g.team → getTeam t k = getTeam s k) ∧
    t = { s with ops := t.ops, teams := t.teams, nextId := s.nextId + 1 }) ∧
  ∀ (e : Bool) (d r : BitVec 4) (l : BitVec 3) (n : BitVec 5) (s : State) (x : Issue),
    (getTl s x.g.team l.toNat).issued ≠ 0xFFFFFFFFFFFFFFFF →
    (∀ y ∈ [(Instr.copyIn e d r l, OpKind.copy, d.toNat, 0), (.copyOut e d r l, .copy, d.toNat, 0),
        (.copyOutz e d r l, .copy, d.toNat, 0), (.copyNn e d r l, .copy, d.toNat, 0), (.copyRdAdd e d r l, .copy, d.toNat, 0),
        (.copyRdMin e d r l, .copy, d.toNat, 0), (.copyRdMax e d r l, .copy, d.toNat, 0), (.copyDns e d r l, .copy, d.toNat, 0),
        (.copyGth e d r l n, .copy, d.toNat, n.toNat), (.copySct e d r l n, .copy, d.toNat, n.toNat),
        (.copyBlk e d r l n, .copy, d.toNat, n.toNat), (.copyMig e r l n, .copy, r.toNat, n.toNat),
        (.fetch e d r l n, .fetch, d.toNat, n.toNat), (.fetchLst e d r l n, .fetch, d.toNat, n.toNat)],
      cleanIssue y.1 s (planCopy y.2.2.1 r.toNat y.2.2.2) scalarPlaces = some x →
      let dst := hGet x.g y.2.2.1
      let src := hGet x.g r.toNat
      copyRecords (copySpec y.1) (Shape.of src) (Shape.of dst) = none →
      ((copySpec y.1).list = true → listFault s x.g (scalarK x 0) = none) →
      let args := (List.range (copyScalars y.1 y.2.2.2 (Shape.of dst).rank).length).map (fun k => BitVec.ofNat 64 (scalarK x k))
      StateResult y.1 s (issueOp s x.g (blankOp y.2.1 l.toNat x.e.word x.g.mode [dst, src] args)) x) ∧
    (∀ y ∈ [(Instr.topkR e d r l n, true), (.topkC e d r l n, false)],
      cleanIssue y.1 s (planTopk d.toNat r.toNat n.toNat) scalarPlaces = some x →
      let k := sGet x.g n.toNat % 2 ^ 32
      let hs := Shape.of (hGet x.g r.toNat)
      let hi := Shape.of (hGet x.g d.toNat)
      let hv := Shape.of (hGet x.g (d.toNat + 1))
      let dims := selectDims y.2 hs
      (k = 0xFFFFFFFF → GroupResult y.1 s x x.g) ∧
      (1 ≤ k → k ≤ 64 → dims.1 ≤ 4096 → dims.2 ≤ 65536 →
        (∀ h ∈ [hs, hi, hv], h.valid = true ∧ h.cls = 0 ∧ h.rank = 2 ∧ (h.near = true ∨ h.absent = true)) →
        hs.ty.isRaw = false → hi.ty.isInt = true → convertRefused hs.ty hv.ty = false →
        StateResult y.1 s (issueOp s x.g (blankOp .select l.toNat x.e.word x.g.mode
          [hGet x.g r.toNat, hGet x.g d.toNat, hGet x.g (d.toNat + 1)] [BitVec.ofNat 64 k])) x))

/-! ### Collectives (13) -/

/-- A collective on a live peer set whose operands pass the checks issues one operation with the set's epoch and the next sequence
number, the set's count after its issue, so that the first is 1 (the model's reading, log 49); `pset.reform` issues one and marks the set as reforming; `pset.status` gives the set's word, zero for an undefined set and
`na` for an absent number (13 R267, R268, R271 to R273). -/
def Obligations.CollectiveIssue : Prop :=
  ∀ (e t : Bool) (d r : BitVec 4) (l : BitVec 3) (n : BitVec 5) (dd a : Opnd) (s : State) (x : Issue),
    let ctx := (whoOf s x.g).ctx
    (∀ i ∈ [Instr.collArAdd e d r l n, .collArMin e d r l n, .collArMax e d r l n, .collRsAdd e d r l n, .collRsMin e d r l n,
        .collRsMax e d r l n, .collAg e d r l n, .collA2a e d r l n],
      cleanIssue i s (planColl d.toNat r.toNat n.toNat) scalarPlaces = some x →
      let k := sGet x.g n.toNat
      collChecks x l.toNat (Shape.of (hGet x.g r.toNat)) (Shape.of (hGet x.g d.toNat)) = none →
      ∀ p, definedSet s ctx k = some p → p.state ≠ 2 →
        StateResult i s (modSet (issueOp s x.g { blankOp .coll l.toNat x.e.word x.g.mode [hGet x.g d.toNat, hGet x.g r.toNat]
          [BitVec.ofNat 64 k, BitVec.ofNat 64 (sGet x.g (n.toNat + 1))] with epoch := p.epoch, seq := p.seq + 1 })
          ctx k (fun q => { q with seq := q.seq + 1 })) x) ∧
    (cleanIssue (.psetReform e l n) s (planReform n.toNat) scalarPlaces = some x →
      let arg (j : Nat) : Nat := sGet x.g (n.toNat + j)
      ∀ p, definedSet s ctx (arg 0) = some p → nearOperand s x.g (arg 1) = none → nearOperand s x.g (arg 2) = none →
        tlFull s x.g.team l.toNat = none →
        StateResult (.psetReform e l n) s (modSet (issueOp s x.g { blankOp .reform l.toNat x.e.word x.g.mode []
          [BitVec.ofNat 64 (arg 0), BitVec.ofNat 64 (arg 1), BitVec.ofNat 64 (arg 2)] with epoch := p.epoch })
          ctx (arg 0) (fun q => { q with state := 3 })) x) ∧
    (cleanIssue (.psetStatus e t dd a) s planAD [] = some x →
      let k := scalarA x
      k = na64 ∨ k ≤ 63 → ScalarResult (.psetStatus e t dd a) s s x x.g t (destReg x.i.form.d)
        (if k = na64 then na64 else match getSet s ctx k with | some p => setWord p | none => 0))

/-! ### The matrix engine (11) -/

/-- `slotc` claims a name with empty storage when a slot is free and no request is ahead of its own, and waits otherwise; `slotr`
gives it up; `slotw` loads its sidecar; `slotl` and `slott` load its elements from the record, the row and the column swapped for
`slott`, filling what lies outside, and from a record of class 2 the scale of each block, 0x7F outside, into the sidecar; `prune`
keeps N of each M elements of a dense slot, present before absent, the larger magnitude first, NaN after every number and the
lower index among equals, with their indices. The bytes of near memory are those that the operation observes toward class X. Each
occupies its slots until it completes. Behind an earlier operation on one of its slots or tiles that has not had its effect, a
word of the engine that passes its checks enters the engine with its operands, and changes nothing yet; an error in memory is met
when it reads (11 R209, R212 to R215, R220, R227). That an operation otherwise has its effect as it issues is the model's choice
(log 5), and what a racing read observes rests on log 4. -/
def Obligations.MatrixSlots : Prop :=
  ∀ (e : Bool) (k l2 : BitVec 4) (lay : BitVec 2) (form : BitVec 1) (code : BitVec 8) (h : BitVec 4) (pat : BitVec 3) (a : Opnd)
    (s : State) (x : Issue) (tm : Team),
    let w := whoOf s x.g
    let claimed (n : SlotName) : Prop := getName s x.g.team k.toNat = some n
    let goes (i : Instr) (s0 : State) : Prop := StateResult i s (occupy s0 x.g (matrixEntry i none none s.age)) x
    let read (y bytes : Nat) : Nat := nearSeen s w { classView s x.g maskX with own := s.age } y bytes
    getTeam s x.g.team = some tm →
    (cleanIssue (.slotc k lay form code) s planMatrix [] = some x →
      (∀ m ∈ (getCore s w.phys).matrix, m.todo = none) →
      ((∃ y ∈ tm.slots, y.name = k.toNat) → x.g.stopped = false →
        FaultResult (.slotc k lay form code) s s x (fault 0x17 k.toNat)) ∧
      ((∀ y ∈ tm.slots, y.name ≠ k.toNat) → (∃ ty, Ty.ofCode code.toNat = some ty ∧ slotType lay.toNat ty = true) →
        (0 < slotsFree s w.phys → x.g.granted = true ∨ slotQueued s w.phys = false →
          StateResult (.slotc k lay form code) s (modTeam s x.g.team (fun t => { t with slots := t.slots ++
            [{ name := k.toNat, type := code, layout := lay, form := form == 1, store := [], sidecar := [] }] })) x) ∧
        (slotsFree s w.phys = 0 ∨ (x.g.granted = false ∧ slotQueued s w.phys = true) →
          WaitResult (.slotc k lay form code) s s x .slotClaim))) ∧
    (cleanIssue (.slotr e k) s planMatrix [] = some x → matrixBlocked s x.g (.slotr e k) = false → ∀ n, claimed n →
      goes (.slotr e k) (modTeam s x.g.team (fun t => { t with slots := (t.slots.filter (fun y => y.name != k.toNat)) }))) ∧
    (cleanIssue (.slotw e k a) s planMatrix [] = some x → matrixBlocked s x.g (.slotw e k a) = false → ∀ n, claimed n →
      n.layout ≠ 0 →
      (scalarA x = na64 → goes (.slotw e k a) s) ∧
      (∀ y, i64? (scalarA x) = some y → nearFaults s w false 64 64 [y] = none →
        (nearBad s w false y.toNat 64 = true → x.g.stopped = false →
          FaultResult (.slotw e k a) s (signal s 2) x (fault 0x50 (addrData y))) ∧
        (nearBad s w false y.toNat 64 = false → ∃ side, goes (.slotw e k a) (setName s x.g.team { n with sidecar := side }) ∧
          ∀ j, j < 64 → (cellGet side j).toNat = read (y.toNat + j) 1 % 256))) ∧
    (∀ y ∈ [(Instr.slotl e k h a, false), (.slott e k h a, true)], cleanIssue y.1 s planMatrix [] = some x →
      matrixBlocked s x.g y.1 = false → ∀ n, claimed n →
      let rec_ := Shape.of (hGet x.g h.toNat)
      slotLoadFault s w rec_ n y.2 k.toNat (scalarA x) = none →
      ∃ n', goes y.1 (setName s x.g.team n') ∧
        { n' with store := n.store, sidecar := n.sidecar } = n ∧ (rec_.cls = 0 → n'.sidecar = n.sidecar) ∧
        let at_ (r c : Nat) : List Coord :=
          if scalarA x = na64 then [none, none]
          else [originPlus (i32? (scalarA x)) (if y.2 then r else c), originPlus (i32? (scalarA x / 2 ^ 32)) (if y.2 then c else r)]
        (∀ r c, r < n.dims.1 → c < n.dims.2 →
          n'.code r c = (match rec_.locate (at_ r c) with
            | some p => read p.toNat rec_.bytes | none => rec_.fill) % 256 ^ rec_.bytes) ∧
        (rec_.cls = 2 →
          (∀ br bc, br < n.dims.1 / 32 → bc < n.dims.2 / 32 → (cellGet n'.sidecar (4 * br + bc)).toNat =
            (match rec_.locate (at_ (32 * br) (32 * bc)), rec_.clamped (at_ (32 * br) (32 * bc)) with
              | some _, some k => read (rec_.base + rec_.aux + rec_.scaleIndex k) 1 | _, _ => 0x7F) % 256) ∧
          ∀ j, 16 ≤ j → cellGet n'.sidecar j = cellGet n.sidecar j)) ∧
    (cleanIssue (.prune e k l2 pat) s planMatrix [] = some x → matrixBlocked s x.g (.prune e k l2 pat) = false →
      ∀ dst src, claimed dst → getName s x.g.team l2.toNat = some src → src.layout = 0 → (k ≠ l2 → dst.layout = 2) →
      src.ty.width = 8 → dst.type = src.type →
      let big := (patternMN pat.toNat).1
      let few := (patternMN pat.toNat).2
      ∃ store, goes (.prune e k l2 pat) (setName s x.g.team { dst with
          layout := 2, store := store, sidecar := bytesSet [] 0 1 pat.toNat }) ∧
        let n' : SlotName := { dst with layout := 2, store := store }
        ∀ m, m < 128 →
          (∀ g, g < 128 / big →
            let value (j : Nat) : Val := valOf src.ty false (src.code m (big * g + j))
            let before (j j' : Nat) : Prop :=
              ranksBefore (value j) (value j') = true ∨ (ranksBefore (value j') (value j) = false ∧ j < j')
            ∃ keep : List Nat, keep.length = few ∧ keep.Pairwise (· < ·) ∧ (∀ j ∈ keep, j < big) ∧
              (∀ j ∈ keep, ∀ j', j' < big → j' ∉ keep → before j j') ∧
              ∀ q, q < few → (cellGet store (128 * m + few * g + q)).toNat = src.code m (big * g + keep.getD q 0) ∧
                nmIndex n' m (few * g + q) = keep.getD q 0) ∧
          ∀ j, few * (128 / big) ≤ j → j < 128 → (j < 64 ∨ 64 + few * (128 / big) / 2 ≤ j) → cellGet store (128 * m + j) = 0) ∧
    (∀ a b : Val, ranksBefore a b = true ↔ a ≠ .na ∧ (b = .na ∨ (a ≠ .nan ∧ (b = .nan ∨ b.abs.lt a.abs = true)))) ∧
    (∀ (i : Instr) (plan : Issue → Plan),
      (match i with
        | .slotr .. => plan = planMatrix
        | .slotw .. => plan = planMatrix
        | .slotl .. => plan = planMatrix
        | .slott .. => plan = planMatrix
        | .prune .. => plan = planMatrix
        | .accz .. => plan = planMatrix
        | .mmaS .. => plan = planMatrix
        | .mmaX .. => plan = planMatrix
        | .mmaSp .. => plan = planMatrix
        | .accw _ _ _ z => plan = planAccw z.toNat
        | _ => False) →
      cleanIssue i s plan [] = some x →
      (matrixBlocked s x.g i = true ↔ ∃ m ∈ (getCore s w.phys).matrix, (m.op.isSome = true ∨ m.todo.isSome = true) ∧
        m.team = x.g.team ∧ ((∃ y ∈ m.slots, y ∈ (matrixNames i).1) ∨ ∃ y ∈ m.tiles, y ∈ (matrixNames i).2)) ∧
      (matrixBlocked s x.g i = true → (∀ f, matrixEffect i s.age { x with s := projected s w.phys } = .inl f → f.cause = 0x50) →
        StateResult i s (occupy s x.g (matrixEntry i none (some (x.e, x.g)) s.age)) x))

/-- `accz` sets a tile's kind and all its entries to zero, or to `na`. The products `mma.s`, `mma.x` and `mma.sp`, once their
slots, tile and kinds are right, replace every entry by the entry with its terms added in order: of two present factors the exact
product, and one addition, rounded in the float kind and clamped in the integer kind; a term with an absent factor is skipped, or
for the strict forms makes the entry absent, which stays so; an absent entry otherwise becomes its first product. Their events are
charged. `mmav` issues one operation, whose checks look at its slot and tile as the operations before it will leave them (11 R209,
R216, R217, R219, R221, R222). That an operation which nothing holds has its effect as it issues is the model's choice (log 5). -/
def Obligations.TilesAndProducts : Prop :=
  ∀ (e : Bool) (a b : BitVec 4) (strict : BitVec 1) (f k : BitVec 1) (l : BitVec 3) (c : BitVec 3) (z : BitVec 2) (s : State) (x : Issue),
    let goes (i : Instr) (s0 : State) : Prop := StateResult i s (occupy s0 x.g (matrixEntry i none none s.age)) x
    (cleanIssue (.accz e f k z) s planMatrix [] = some x → matrixBlocked s x.g (.accz e f k z) = false →
      (getTile s x.g.team z.toNat).isSome = true →
      ∃ tile : Tile, goes (.accz e f k z) (setTile s x.g.team z.toNat tile) ∧
        tile.kind = (if k = 1 then 9 else 8) ∧
        ∀ m n, m < 128 → n < 128 → (cellGet tile.vals (128 * m + n)).toNat =
          if f = 1 then (kindTy tile.kind.toNat).na else 0) ∧
    (∀ y ∈ [(Instr.mmaS e a b z, false, false), (.mmaX e a b z, false, true), (.mmaSp e a b strict z, true, strict == 1)],
      cleanIssue y.1 s planMatrix [] = some x → matrixBlocked s x.g y.1 = false →
      productFault s x.g a.toNat b.toNat z.toNat y.2.1 = none →
      ∀ p q t0, getName s x.g.team a.toNat = some p → getName s x.g.team b.toNat = some q →
        getTile s x.g.team z.toNat = some t0 →
        let entry (m n : Nat) : Nat × Events :=
          macEntry (kindTy t0.kind.toNat) y.2.2 (cellGet t0.vals (128 * m + n)).toNat (productTerms y.2.1 p q m n)
        ∃ (t1 : Tile) (ev : Events), goes y.1 (chargeGroup (setTile s x.g.team z.toNat t1) x.g ev) ∧
          t1.kind = t0.kind ∧
          (∀ m n, m < 128 → n < 128 → (cellGet t1.vals (128 * m + n)).toNat = (entry m n).1 % 2 ^ 56) ∧
          ev = (List.range (128 * 128)).foldl (fun v i => v.plus (entry (i / 128) (i % 128)).2) {}) ∧
    (∀ (kind : Ty) (strict : Bool) (n : Nat) (terms : List (Val × Val)) (p q : Val),
      let m : RMode := ⟨0, false, false⟩
      let old := macEntry kind strict n terms
      let new := macEntry kind strict n (terms ++ [(p, q)])
      let product := deliverOpt kind m 0 (p.mul q)
      kind.isTyped = true →
      macEntry kind strict n [] = (n, {}) ∧
      (p = .na ∨ q = .na → strict = false → new = old) ∧
      (p = .na ∨ q = .na → strict = true → new = (kind.na, old.2.plus { absent := if old.1 = kind.na then 0 else 1 })) ∧
      (p ≠ .na → q ≠ .na → old.1 = kind.na → strict = true → new = old) ∧
      (p ≠ .na → q ≠ .na → old.1 = kind.na → strict = false → new = (product.code, old.2.plus product.events)) ∧
      (p ≠ .na → q ≠ .na → old.1 ≠ kind.na →
        let sum := op2 .add kind m 0 old.1 product.code
        new = (sum.code, (old.2.plus product.events).plus sum.events))) ∧
    (∀ (m : RMode) (t neg : Bool) (n : Nat) (j : Int), 0 < n → n < 2 ^ 45 → -1066 ≤ j → j ≤ 978 →
      ∃ d n', valOf (.flt 11 44) t (deliver (.flt 11 44) m 0 (.scaled neg n j)).code = .fin neg n' d ∧ 0 < d ∧
        n' * (if 0 ≤ j then 1 else 2 ^ (-j).toNat) = n * (if 0 ≤ j then 2 ^ j.toNat else 1) * d) ∧
    (∀ x y : Int, -(2 ^ 55) < x → x < 2 ^ 55 → -(2 ^ 55) < y → y < 2 ^ 55 →
      let sum := op2 .add (.int true 56) ⟨0, false, false⟩ 0 (intCode 56 x) (intCode 56 y)
      (deliver (.int true 56) ⟨0, false, false⟩ 0 (.ofInt x)).code = intCode 56 x ∧
      sum.code = intCode 56 (max (1 - 2 ^ 55) (min (2 ^ 55 - 1) (x + y))) ∧
      (sum.sat = true ↔ 2 ^ 55 ≤ x + y ∨ x + y ≤ -(2 ^ 55))) ∧
    (cleanIssue (.mmav e a b l c strict z) s planMatrix [] = some x →
      let p := projected s (whoOf s x.g).phys
      ∀ n t0, getName p x.g.team a.toNat = some n → getTile p x.g.team z.toNat = some t0 →
        let h := Shape.of (hGet x.g b.toNat)
        n.layout = 0 → h.valid = true → h.rank = 2 → h.cls = 0 ∨ h.cls = 2 → h.extAt 0 ≤ 128 → h.extAt 1 ≤ 16384 / h.ty.width →
        h.type = n.type.toNat → t0.kind.toNat = kindCode n.ty → h.main = true ∨ h.absent = true →
        (getTl s x.g.team l.toNat).issued ≠ 0xFFFFFFFFFFFFFFFF →
        let args := [a.toNat, c.toNat + 1, strict.toNat, z.toNat, tensorId (hGet x.g 0)].map (BitVec.ofNat 64)
        StateResult (.mmav e a b l c strict z) s
          (occupy (issueOp s x.g (blankOp .mmav l.toNat x.e.word x.g.mode [hGet x.g b.toNat] args)) x.g
            (matrixEntry (.mmav e a b l c strict z) (some s.nextId) none s.age)) x)

/-- `accr` gives each active lane the entry at its place, converted from the tile's kind with one rounding, or `na` where the
place is invalid; `accw` writes each active lane's element, exactly or clamped, to its place, and nothing where it is invalid. A
place is a row and the sum of a column and the lane, both below 128; each occupies the tile. Behind an earlier operation on its
tile that has not had its effect, `accr` enters the engine, the group goes on, and the latch waits for its result (11 R209, R223,
R224). That an operation otherwise has its effect as it issues is the model's choice (log 5). -/
def Obligations.TileAccess : Prop :=
  ∀ (e t : Bool) (d a : Opnd) (z : BitVec 2) (s : State) (x : Issue) (t0 : Tile),
    let ty := typeOf x.g.mode true
    let kind := kindTy t0.kind.toNat
    let place (pos lane : Nat) : Option Nat :=
      if pos = na64 then none
      else match i32? pos, i32? (pos / 2 ^ 32) with
        | some r, some c =>
          if 0 ≤ r ∧ r < 128 ∧ 0 ≤ c + lane ∧ c + lane < 128 then some (128 * r.toNat + (c + lane).toNat) else none
        | _, _ => none
    getTile s x.g.team z.toNat = some t0 →
    (cleanIssue (.accr e t d a z) s (planAccr z.toNat) [] = some x → matrixBlocked s x.g (.accr e t d a z) = true →
      let tag := 32 + s.nextId
      let entry := matrixEntry (.accr e t d a z) none (some ({ x.e with tag := tag }, x.g)) s.age
      StateResult (.accr e t d a z) s (modGroup (occupy { s with nextId := s.nextId + 1 } x.g entry) x.g.id (fun g =>
        { g with latch := (.pending true tag, g.latch.1, g.latch.2.1) })) x) ∧
    (cleanIssue (.accr e t d a z) s (planAccr z.toNat) [] = some x → matrixBlocked s x.g (.accr e t d a z) = false →
      let one (k : Nat) : LRes :=
        match place (scalarA x) k with
        | none => { code := ty.na, s := rngOf x.g k }
        | some p => convert kind ty (roundMode x.g.mode) (rngOf x.g k) (cellGet t0.vals p).toNat
      ∃ rng ev, (∀ k, (cellGet rng k).toNat =
          if k < x.g.width ∧ x.e.active.getLsbD k then (one k).s % 2 ^ 32 else rngOf x.g k) ∧
        ev = sumEvents ((lanesOf x.e.active x.g.width).map (fun k => (k, one k))) ∧
        VecResult (.accr e t d a z) s (occupy (chargeGroup s x.g ev) x.g
          (matrixEntry (.accr e t d a z) none none s.age)) x { x.g with rng := rng } t
          (destReg x.i.form.d) (ty.width == 64) (fun k => (one k).code)) ∧
    (cleanIssue (.accw e d a z) s (planAccw z.toNat) [] = some x → matrixBlocked s x.g (.accw e d a z) = false →
      let elem (k : Nat) : LRes := convert ty kind (roundMode 0) 0 (srcVal x.e x.i.form.a x.e.slotA ty k)
      let lanes := (lanesOf x.e.active x.g.width).filter (fun k => (place (scalarD x) k).isSome)
      ∃ vals, StateResult (.accw e d a z) s (occupy (chargeGroup (setTile s x.g.team z.toNat { t0 with vals := vals }) x.g
          (lanes.foldl (fun v k => v.plus (elem k).events) {})) x.g
          (matrixEntry (.accw e d a z) none none s.age)) x ∧
        (∀ k ∈ lanes, ∀ p, place (scalarD x) k = some p → (cellGet vals p).toNat = (elem k).code % 2 ^ 56) ∧
        (∀ p, (∀ k ∈ lanes, place (scalarD x) k ≠ some p) → cellGet vals p = cellGet t0.vals p))

/-! ### Sparse regions (05) -/

/-- The sparse words on a region that opens. `spld`, `spst` and `spadd` apply their lanes in ascending order: a key that is not
located reads the fill, a write outside the extents is discarded whatever the policy; `spld` gives the key's value or zero; `spst`
gives the key its element; `spadd` the sum. `spcnt` gives the two counts, `spgrow` the new capacity, and `spit` the next entries
above its cursor. The group then waits for the answer of the index unit of the region's home die. A region that does not open is
the fault, an error marking it failed. In a region of at most one leaf with room, whose tables lie elsewhere, a key stored reads
back as its value, a zero deletes it, and no other key changes (05 R89, R91, R94, R96, R98, R102 to R108, 04 R77). -/
def Obligations.SparseWords : Prop :=
  (∀ (e t : Bool) (d a : Opnd) (n : BitVec 3) (s : State) (x : Issue),
    let ctx := (whoOf s x.g).ctx
    let h := Shape.of (hGet x.g n.toNat)
    let ty := typeOf x.g.mode x.e.vec
    let waits (g : Group) : Group := { g with wait := some (.sparse (physDie s ctx (h.aux % 65536 % 4)) x.e.word x.e.addr) }
    (∀ i ∈ [Instr.spld e t d a n, .spst e d a n, .spadd e d a n], cleanIssue i s (planSparse n.toNat) [] = some x →
      (∀ c, openRegion s ctx h (some h.type) = .inl (.flt c) → x.g.stopped = false →
        FaultResult i s (if c = 0x50 then breakRegion s ctx h.base else s) x (sparseFault h c)) ∧
      ∀ dd, openRegion s ctx h (some h.type) = .inr dd →
      ∀ s1 vals, applyLanes (sparseLane x h ty) (actingLanes x) (markRegion s ctx dd) = (s1, vals, none) →
      let g1 := waits ((getGroup s1 x.g.id).getD x.g)
      let value (k : Nat) : Nat := ((vals.find? (fun y => y.1 == k)).map (fun y => y.2)).getD 0
      if i.form.result = false then exec i s = .next (setGroup s1 (sequenced x g1))
      else if x.e.vec then VecResult i s s1 x g1 t (destReg x.i.form.d) (ty.width == 64) value
      else ScalarResult i s s1 x g1 t (destReg x.i.form.d) (value 0)) ∧
    (∀ (i : Instr) (s' : State) (k : Nat), i ∈ [Instr.spld e t d a n, .spst e d a n, .spadd e d a n] → x.i = i → x.s = s' →
      let coords := sparseCoords x h.rank k
      let elem := srcVal x.e x.i.form.d x.e.slotD ty k
      let grid := gridId s' x.g
      let lane := if x.e.vec then k else 0
      let r := sparseLane x h ty s' k
      let named := match i with | .spld .. => sparseKey h coords | _ => sparseKey { h with oob := 0 } coords
      (named = none → r = match i with
        | .spld .. => .inr (s', h.fill)
        | _ => .inr (charge s' grid h.tid { discard := 1 }, 0)) ∧
      (∀ key y old, named = some key → readDesc s' (whoOf s' x.g).ctx h.base = .inr y →
        findKey s' (whoOf s' x.g).ctx y key = .inr old →
        let sum := op2 .add ty (roundMode x.e.mode) (rngOf (groupNow s' x) lane) (old.getD 0 % 2 ^ ty.width) elem
        match i with
        | .spld .. => r = .inr (countKey s' (whoOf s' x.g).ctx y key, old.getD 0 % 2 ^ ty.width)
        | .spst .. => ∀ s2, storeKey s' (whoOf s' x.g).ctx y ty key elem = .inr s2 → r = .inr (s2, 0)
        | _ => ∀ s2, storeKey s' (whoOf s' x.g).ctx y ty key sum.code = .inr s2 →
            r = .inr (charge (setGroup s2 (setRng (groupNow s2 x) lane sum.s)) (gridId s2 x.g) h.tid sum.events, 0))) ∧
    (cleanIssue (.spcnt e d n) s (planSpcnt n.toNat) [] = some x → ∀ y, openRegion s ctx h none = .inr (some y) →
      let r := destReg x.i.form.d
      ∃ m la, exec (.spcnt e d n) s = .next (setGroup (markRegion (countNodes s ctx y []) ctx (some y))
          (sequenced x (waits { x.g with s := m, latch := la }))) ∧
        ScalarLatched x la y.count ∧ (cellGet m r).toNat = y.count % 2 ^ 64 ∧ (cellGet m (r + 1)).toNat = y.nabs % 2 ^ 64 ∧
        ∀ k, k ≠ r → k ≠ r + 1 → cellGet m k = cellGet x.g.s k) ∧
    (cleanIssue (.spgrow e t d a n) s (planSpgrow n.toNat) [] = some x → ∀ y, openRegion s ctx h none = .inr (some y) →
      let cap := if scalarA x = na64 then y.cap else min (y.cap + scalarA x) 0xFFFFFFFF
      ∀ s1, writeDesc s ctx { y with cap := cap } = .inr s1 →
        ScalarResult (.spgrow e t d a n) s (markRegion s1 ctx (some { y with cap := cap })) x (waits x.g) t
          (destReg x.i.form.d) cap) ∧
    (cleanIssue (.spit e d a n) s (planSpit n.toNat) [] = some x → ∀ y l, openRegion s ctx h (some h.type) = .inr (some y) →
      nextEntries s ctx y (if scalarA x = na64 then none else some (scalarA x)) (actingLanes x).length = .inr l →
      let r := destReg x.i.form.d
      let lane (j : Nat) : Nat := (actingLanes x).getD j 0
      ∃ u g', exec (.spit e d a n) s = .next u ∧ getGroup u x.g.id = some g' ∧ g'.wait = (waits x.g).wait ∧
        g'.pc = x.g.pc + 4 ∧ u.mem = s.mem ∧ u.fe = s.fe ∧
        (∀ z, l.getLast? = some z → sGet g' (destReg x.i.form.a) = z.1 % 2 ^ 64) ∧
        (l = [] → x.e.vec = true → sGet g' (destReg x.i.form.a) = sGet x.g (destReg x.i.form.a)) ∧
        ∀ j, j < (actingLanes x).length →
          let key := match l[j]? with | some y => y.1 | none => na64
          let value := match l[j]? with | some y => y.2 % 2 ^ ty.width | none => ty.na
          if x.e.vec then lane j < 64 →
            vRead g' r (lane j) true = key % 2 ^ 64 ∧ vGet g' (r + 2) (lane j) = value % 2 ^ 32
          else destReg x.i.form.a ≠ r → destReg x.i.form.a ≠ r + 1 → sGet g' r = key % 2 ^ 64 ∧ sGet g' (r + 1) = value % 2 ^ 64)) ∧
  (∀ (s s2 : State) (ctx : Nat) (c : Context) (dd : Desc) (ty : Ty) (key val i p q : Nat) (es : List (Nat × Nat)),
    let lookup (k : Nat) : Option Nat := (es.find? (fun y => y.1 == k)).map (fun y => y.2)
    let zero := isZeroCode ty val = true
    let path (va : Nat) : List Nat := walkPath (entryWord s ctx) va 4 c.root.toNat
    getCtx s ctx = some c → s.bad = [] → readDesc s ctx dd.va = .inr dd →
    (dd.height = 0 ∧ es = [] ∧ i = (if dd.free = noNode then dd.hwm else dd.free)) ∨
      (dd.height = 1 ∧ i = dd.root ∧ ∃ l r, readNode s ctx dd i = .inr (.leaf l r es)) →
    es.Pairwise (fun y z => y.1 < z.1) → es.length < 16 → key < 2 ^ 64 → val < 2 ^ 32 →
    idxPhys s ctx dd.va .read = .inr p → idxPhys s ctx (dd.nodeAt i) .read = .inr q → (p + 64 ≤ q ∨ q + 256 ≤ p) →
    (∀ at_ ∈ path dd.va ++ path (dd.nodeAt i), (at_ + 8 ≤ p ∨ p + 64 ≤ at_) ∧ (at_ + 8 ≤ q ∨ q + 256 ≤ at_)) →
    storeKey s ctx dd ty key val = .inr s2 →
    ∃ d2, readDesc s2 ctx dd.va = .inr d2 ∧
      (∀ k, k < 2 ^ 64 → findKey s2 ctx d2 k = .inr (if k = key then (if zero then none else some val) else lookup k)) ∧
      (if zero then d2.count = (if (lookup key).isSome then dd.count - 1 else dd.count)
       else d2.count = (if (lookup key).isSome then dd.count else (dd.count + 1) % 2 ^ 64)))

/-! ### Search trees and routing (12, 18) -/

/-- The words of Luna on a tree that passes the acceptance of 12 R243, once the tree's outstanding operations are applied. `tnew`
and `tgrow` give the root and the capacity; `tdesc` and `texp` apply their lanes in ascending order and give each its index; `trd`
reads four words of a node; `tback` and `treuse` are numbered on a timeline with their leaves and values, or their new root. The
group then waits for the answer. A tree that is refused is the fault at the descriptor; one with an error is the fault 0x50, and
its state becomes 2. Without a descriptor address nothing happens to a tree, and an index is absent (12 R235 to R247, 21 R345). -/
def Obligations.LunaWords : Prop :=
  ∀ (e t : Bool) (l r : BitVec 3) (d a : Opnd) (s : State) (x : Issue) (y : Int),
    let dest := destReg x.i.form.d
    let w := whoOf s x.g
    let die := treeDie x y.toNat
    let answer : Wait := .luna die x.e.word x.e.addr
    let waits (g : Group) : Group := { g with wait := some answer }
    let s0 := lunaJoined x (drainTree s w.ctx (nearCanon w.core y.toNat)) y
    let tree := treeAt x s0 y
    let named : Prop := i64? (sGet x.g r.toNat) = some y ∧ nearFaults s w false 64 64 [y] = none
    let ok (made : Bool) : Prop := named ∧ tree.refused w made = none
    let value (vals : List (Nat × Nat)) (k : Nat) : Nat := ((vals.find? (fun z => z.1 == k)).map (fun z => z.2)).getD 0
    let nothing (i : Instr) : Prop := i64? (sGet x.g r.toNat) = none →
      if x.e.vec then VecResult i s s x x.g t dest false (fun _ => noIndex) else ScalarResult i s s x x.g t dest noIndex
    let refuses (i : Instr) (made : Bool) : Prop := named → x.g.stopped = false →
      (∀ c, tree.refused w made = some (.flt c) → FaultResult i s s0 x (fault c (addrData y))) ∧
      (tree.refused w made = some .broken →
        FaultResult i s (signal tree.break 2) x (fault 0x50 (addrData y)))
    let lanes (i : Instr) (f : State → Nat → LunaStop ⊕ (State × Nat)) : Prop := ∀ s1 vals,
      applyLanes f (actingLanes x) s0 = (s1, vals, none) →
      let g1 := waits ((getGroup s1 x.g.id).getD x.g)
      if x.e.vec then VecResult i s s1 x g1 t dest false (value vals) else ScalarResult i s s1 x g1 t dest (value vals 0)
    let issues (i : Instr) (left : Nat) (args : List Nat) : Prop :=
      let s2 := issueOp s0 x.g { blankOp .luna l.toNat x.e.word x.g.mode [] (args.map (BitVec.ofNat 64)) with
        left := left, home := some die }
      exec i s = .next (setGroup s2 (sequenced x (waits ((getGroup s2 x.g.id).getD x.g))))
    (cleanIssue (.tnew e t d r) s (planTree r.toNat) [] = some x →
      nothing (.tnew e t d r) ∧ refuses (.tnew e t d r) true ∧
      (ok true → ∀ s1, tree.tnew.commit = .inr s1 →
        ScalarResult (.tnew e t d r) s s1 x (waits ((getGroup s1 x.g.id).getD x.g)) t dest 0)) ∧
    (cleanIssue (.tgrow e t d a r) s (planTree r.toNat) [] = some x →
      nothing (.tgrow e t d a r) ∧ refuses (.tgrow e t d a r) false ∧
      (ok false → ∀ tr c s1, tree.tgrow (scalarA x % 2 ^ 32) = .inr (tr, c) → tr.commit = .inr s1 →
        ScalarResult (.tgrow e t d a r) s s1 x (waits ((getGroup s1 x.g.id).getD x.g)) t dest c)) ∧
    (cleanIssue (.tdesc e t d r) s (planTdesc r.toNat) [] = some x →
      nothing (.tdesc e t d r) ∧ refuses (.tdesc e t d r) false ∧
      (ok false → lanes (.tdesc e t d r) (fun s i => eb (treeAt x s y).tdesc (fun z => eb z.1.commit (fun s =>
        .inr (setGroup s (setConds (groupNow s x) (modeField x.g.mode 1 3)
          (if x.e.vec then [i] else List.range (groupNow s x).width) (fun _ => z.2.2)), z.2.1)))))) ∧
    (cleanIssue (.texp e t d a r) s (planTexp r.toNat) [] = some x →
      nothing (.texp e t d a r) ∧ (recordFaults x y = none → refuses (.texp e t d a r) false) ∧
      (ok false → recordFaults x y = none → lanes (.texp e t d a r) (fun s i =>
        eb ((treeAt x s y).texp w (srcVal x.e x.i.form.d x.e.slotD (.raw 32) i) ((laneAddr x i).map (·.toNat)))
          (fun z => eb z.1.commit (fun s => .inr (s, z.2)))))) ∧
    (cleanIssue (.trd e d a r) s (planTrd r.toNat) [] = some x → refuses (.trd e d a r) false ∧ (ok false →
      let index (k : Nat) : Nat := srcVal x.e x.i.form.a x.e.slotA (.raw 32) k
      (∀ k ∈ actingLanes x, index k = noIndex ∨ (index k < tree.cap ∧ tree.badNode (index k) = false)) →
      let word (j k : Nat) : Nat :=
        if index k = noIndex then noIndex
        else [tree.ng (index k) 0 4, tree.ng (index k) 4 4, tree.ng (index k) 0xA 2 * 2 ^ 16 + tree.ng (index k) 8 2,
          tree.ng (index k) 0x1E 2 * 2 ^ 16 + tree.ng (index k) 0x1C 2].getD j 0
      ∃ u g', exec (.trd e d a r) s = .next u ∧ getGroup u x.g.id = some g' ∧ g'.wait = some answer ∧ g'.pc = x.g.pc + 4 ∧
        u.mem = s0.mem ∧ u.fe = s0.fe ∧ u.teams = s0.teams ∧
        ∀ j k, j < 4 → k ∈ actingLanes x → k < 64 →
          if x.e.vec then vGet g' (dest + j) k = word j k % 2 ^ 32 else sGet g' (dest + j) = word j 0 % 2 ^ 64)) ∧
    (cleanIssue (.tback e d l r) s (planTback r.toNat) [] = some x →
      (i64? (sGet x.g r.toNat) = none → GroupResult (.tback e d l r) s x x.g) ∧
      (tlFull s x.g.team l.toNat = none → refuses (.tback e d l r) false) ∧
      (ok false → tlFull s x.g.team l.toNat = none →
        let pair (k : Nat) : Nat := if x.e.vec then (cellGet x.e.slotD k).toNat
          else sGet x.g dest % 2 ^ 32 + 2 ^ 32 * (sGet x.g (dest + 1) % 2 ^ 32)
        issues (.tback e d l r) (actingLanes x).length (tree.d :: (actingLanes x).flatMap (fun k => [k, pair k])))) ∧
    (cleanIssue (.treuse e l a r) s (planTreuse r.toNat) [] = some x →
      (i64? (sGet x.g r.toNat) = none → GroupResult (.treuse e l a r) s x x.g) ∧
      (tlFull s x.g.team l.toNat = none → refuses (.treuse e l a r) false) ∧
      (ok false → tlFull s x.g.team l.toNat = none → ∀ tr, tree.treuse (scalarA x % 2 ^ 32) = .inr tr →
        issues (.treuse e l a r) 1 [tree.d, scalarA x % 2 ^ 32]))

/-- `rqpush` on a legal descriptor queues one packet for each lane with a token at the Admiral of the descriptor's die, in lane
order, releases what its group carries toward their batches, and waits while there is no room for all; `rqwait` gives the batches
routed once they reach its number, has then acquired what those batches have left (the model's reading, log 70), and waits until
then; a descriptor out of range is the fault 0x15, one with an error the fault 0x50, and it fails; a failed descriptor raises its
cause, and an absent one is no operation, or gives `na` (18 R326 to R328, R330, R338, R339). -/
def Obligations.RoutingWords : Prop :=
  ∀ (e t : Bool) (d a : Opnd) (r : BitVec 3) (s : State) (x : Issue),
    let w := whoOf s x.g
    let desc := sGet x.g r.toNat
    let stops (i : Instr) (y : Int) (go : Prop) : Prop :=
      let canon := nearCanon w.core y.toNat
      (routeBad s w.ctx canon = true → x.g.stopped = false →
        FaultResult i s (failRoute s w.ctx canon 0x50) x (fault 0x50 (addrData y))) ∧
      (routeBad s w.ctx canon = false →
        (routeOk s w.ctx canon = false → x.g.stopped = false → FaultResult i s s x (fault 0x15 (addrData y))) ∧
        (routeOk s w.ctx canon = true →
          (∀ c, routeFailure s w.ctx canon = some c → x.g.stopped = false → FaultResult i s s x (fault c (addrData y))) ∧
          (routeFailure s w.ctx canon = none → go)))
    (cleanIssue (.rqpush e d a r) s (planRqpush r.toNat) [] = some x →
      (i64? desc = none → GroupResult (.rqpush e d a r) s x x.g) ∧
      (∀ y, i64? desc = some y → routeFault s w y ((rqLanes x).filterMap (fun p => i64? p.2)) = none →
        let canon := nearCanon w.core y.toNat
        let die := admiralDie s w.ctx canon
        stops (.rqpush e d a r) y
          ((4096 < (getDie s die).packets.length + (rqLanes x).length → WaitResult (.rqpush e d a r) s s x .packets) ∧
           ((getDie s die).packets.length + (rqLanes x).length ≤ 4096 →
             let packets := (rqLanes x).map (packetOf s x.g canon)
             let s1 := packets.foldl (fun s1 p => releaseAt s1 (.batch w.ctx canon p.batch) (groupCarries s x.g)) s
             StateResult (.rqpush e d a r) s (modDie s1 die (fun z => { z with packets := z.packets ++ packets })) x)))) ∧
    (cleanIssue (.rqwait t d a r) s (planRqwait r.toNat) [] = some x →
      (i64? desc = none → ScalarResult (.rqwait t d a r) s s x x.g t (destReg x.i.form.d) na64) ∧
      (∀ y, i64? desc = some y → routeFault s w y [] = none →
        let number := if scalarA x % 2 ^ 32 = 0xFFFFFFFF then 0 else scalarA x % 2 ^ 32
        let routed := routeField s w.ctx (nearCanon w.core y.toNat) 0x10 4
        stops (.rqwait t d a r) y
          ((number ≤ routed →
             let s1 := acquireAges s x.g.id (releasedBatches s w.ctx (nearCanon w.core y.toNat) routed)
             ScalarResult (.rqwait t d a r) s s1 x ((getGroup s1 x.g.id).getD x.g) t (destReg x.i.form.d) routed) ∧
           (routed < number → WaitResult (.rqwait t d a r) s s x .batch))))
/-! ### Steps without a word: waits, cores, engines -/

/-- A waiting group continues as soon as what it waits for holds: a timeline number or an idle timeline, full or empty granules,
room in a table or a queue, routed batches, an answer, the operations that a release waits for; its word then runs again. An
answer to a word that ends its run frees the slot that the run held (the model's reading, log 64, DEDUCED). The limit of a timeline
ends a wait with the fault 0x30; a failed descriptor comes before it (05 R98, 06 R129, 07 R144 to R146, 12 R247, 13 R259, 16 R304,
R307, R312, 18 R330, R338). Which enabled step happens when is the model's schedule (log 3). -/
def Obligations.WaitsEnd : Prop :=
  ∀ (s : State) (n : Nat) (g : Group), getGroup s n = some g →
    let w := whoOf s g
    let resumes (i : Instr) : Prop := exec i s = .next (setGroup s { g with wait := none })
    let fails (i : Instr) (f : FaultInfo) : Prop := exec i s = .next (setGroup s { g with wait := none, pending := some f })
    let answered : Group := if g.runCount = 0 then { g with wait := none, slot := none, runWords := [] } else { g with wait := none }
    let limited : Prop := (getTl s g.team 0).limit ≠ 0
    (∀ die word at_, g.wait = some (.sparse die word at_) → exec (.sparseOperationAnswer n) s = .next (setGroup s answered)) ∧
    (∀ die word at_, g.wait = some (.luna die word at_) → exec (.lunaAnswer n) s = .next (acquireAges (setGroup s answered) n (madeBy s (lunaWriter n)))) ∧
    (g.wait = some .taskRoom →
      (s.tasks.filter (fun t => t.context == w.ctx && t.die == dieOf w.core && t.inUse)).length < 4096 →
      resumes (.taskTableRoom n)) ∧
    (g.wait ∈ [some .fullEmpty, some .slotClaim, some .fuse, some .taskRoom, some .packets] ∨
        (g.wait = some .batch ∧ batchFailure s g = none) ∨ (∃ b p, g.wait = some (.bar b p)) ∨
        (∃ p gr, g.wait = some (.gbar p) ∧ gridOf s g = some gr ∧ gangArrived s gr = false ∧
          ∀ t ∈ s.teams, t.grid = gr.id → t.saved = false) →
      limited → fails (.waitLimitExpiry n) (fault 0x30 0)) ∧
    (∀ p gr, g.wait = some (.gbar p) → gridOf s g = some gr →
      (gangArrived s gr = true ∨ ∃ t ∈ s.teams, t.grid = gr.id ∧ t.saved = true) → exec (.waitLimitExpiry n) s = .next s) ∧
    (∀ u rest, g.unfinished = u :: rest →
      exec (.issuedWordFinished n) s = .next (setGroup s { g with unfinished := rest })) ∧
    ∀ x, headIssue s g = some x →
      (∀ tl, g.wait = some (.timeline tl) →
        let t := getTl s g.team tl
        let numbered := ∃ l r, x.i = .tlwait l r
        (numbered → scalarK x 0 ≤ t.completed.toNat → resumes (.timelineWaitEnd n)) ∧
        (¬numbered → t.issued = t.completed → resumes (.timelineWaitEnd n)) ∧
        (numbered → t.limit ≠ 0 → fails (.timelineLimitExpiry n) (fault 0x30 tl))) ∧
      (g.wait = some .fullEmpty →
        ∀ full : Bool, (full = false ↔ ∃ a, x.i = .wfeEmpty a) → (∀ y ∈ touched x, nearFe s w y.2.toNat = full) →
        resumes (.fullEmptyWake n)) ∧
      (g.wait = some .items → itemsQueued (getDie s (dieOf w.phys)) + (itemLanes x).length ≤ 65536 → resumes (.itemQueueRoom n)) ∧
      (∀ d, descAddr x = some d →
        let canon := nearCanon w.core d.toNat
        let number := scalarA x % 2 ^ 32
        (g.wait = some .packets → (getDie s (admiralDie s w.ctx canon)).packets.length + (rqLanes x).length ≤ 4096 →
          resumes (.packetQueueRoom n)) ∧
        (g.wait = some .batch → (routeStop x d []).isSome = true ∨ number ≤ routeField s w.ctx canon 0x10 4 ∨ number = 0xFFFFFFFF →
          resumes (.batchWaitEnd n)) ∧
        (g.wait = some .batch → limited → ∀ c, routeFailure s w.ctx canon = some c →
          fails (.waitLimitExpiry n) (fault c (addrData d)))) ∧
      (g.wait = some .release →
        ((maskOf x.i).getLsbD 2 = true → ∀ o ∈ s.ops, o.group = g.id → o.kind ∉ [OpKind.copy, .fetch, .mmav]) →
        ((maskOf x.i).getLsbD 3 = true → (∀ o ∈ s.ops, o.group = g.id → o.kind ∉ [OpKind.select, .luna]) ∧
          ∀ o ∈ (getCore s w.phys).matrix, o.access = true → o.group ≠ g.id) →
        resumes (.releaseWaitEnd n))

/-- What a core grants in turn: a pool frame to the first request for a unit, a replay or a `split`, and the reserve to the first
replay where the pool is empty; a slot to the first claim of a free name; with every group blocked for frames, the latest request
is withdrawn with the fault 0x0A; a free issue slot to the first ready group of the best class after the class's last winner. An
operation of the matrix engine that has had its effect leaves it; one that waited behind earlier ones has its effect once none of
its slots and tiles is theirs, or meets its fault: it stays in the engine, unfinished, and its group takes the fault; of a group that
is being drained the unfinished words then join its queue (08 R151, R165 to R167, 11 R209, R212, R225, 14 R288, 16 R315, 21 R343,
R357). That a group granted a `split` or a slot runs next is the model's schedule (log 3); that an operation which nothing holds has
had its effect as it issued, stays in the engine and leaves it later, and that one which waited has its effect at this step, is the
model's choice (log 5). -/
def Obligations.CoreGrants : Prop :=
  ∀ (s : State) (core : Nat) (g : Group),
    let first (l : List Group) : Prop := g ∈ l ∧ ∀ h ∈ l, h = g ∨ g.serial < h.serial
    let waiters := frameWaiters s core
    let spent (m : MatrixOp) : Prop := m.op = none ∧ (m.todo = none ∨ (m.failed ≠ none ∧ getGroup s m.group = none))
    let runs (i : Instr) : Prop :=
      exec i s = .next { setGroup s { g with wait := none, granted := true } with agenda := .run g.id :: s.agenda }
    let gets (s0 : State) (k : Nat) : Prop :=
      ∃ v, exec (.frameGrant core) s = .next (setGroup s0 { g with
          wait := none, held := g.held ||| ((1 : BitVec 4) <<< k), written := g.written &&& ~~~(unitMask k), v := v
          replaying := if g.wait = some (.replay k) then true else g.replaying }) ∧
        ∀ r i, i < 64 → (cellGet v (r * 64 + i)).toNat =
          if 64 + 32 * k ≤ r ∧ r < 96 + 32 * k ∧ g.dropped.getLsbD (r - 64) = false then 0 else vGet g r i
    (first waiters → 0 < poolFree s core → ∀ k, g.wait = some (.unit k) ∨ g.wait = some (.replay k) → gets s k) ∧
    (first waiters → g.wait = some .split → 1 + bits4 g.held ≤ poolFree s core → runs (.frameGrant core)) ∧
    (first (waiters.filter (fun h => match h.wait with | some (.replay _) => true | _ => false)) → poolFree s core = 0 →
      (getCore s core).reserveFull = true → ∀ k, g.wait = some (.replay k) →
      gets (setCore s core { getCore s core with reserveFull := false }) k) ∧
    (g ∈ waiters → (∀ h ∈ waiters, h = g ∨ h.serial < g.serial) → poolFree s core = 0 → (getCore s core).reserveFull = false →
      waiters.length = (coreGroups s core).length →
      exec (.registerStarvation core) s = .next (setGroup s { g with wait := none, pending := some (fault 0x0A) })) ∧
    (first ((coreGroups s core).filter (fun h => h.wait == some .slotClaim && !h.stopped && claimFree s h)) →
      0 < slotsFree s core → runs (.slotClaimGrant core)) ∧
    (∀ slot, slot < 2 → (∀ h ∈ coreGroups s core, h.slot ≠ some slot) → g ∈ coreGroups s core → ready s g = true →
      classOf s g < 4 →
      let last := (((getCore s core).lastWon.find? (fun w => w.1 == slot && w.2.1 == classOf s g)).map (·.2.2)).getD 31
      (∀ h ∈ coreGroups s core, ready s h = true → classOf s g < classOf s h ∨
        classOf s g = classOf s h ∧ (h = g ∨ (g.residency + 31 - last) % 32 < (h.residency + 31 - last) % 32)) →
      last < 32 → ∃ c, exec (.issueArbitration core slot) s = .next (setCore (setGroup s { g with slot := some slot, aged := false }) core c) ∧
        c.lastWon.find? (fun w => w.1 == slot && w.2.1 == classOf s g) = some (slot, classOf s g, g.residency) ∧
        { c with lastWon := [] } = { getCore s core with lastWon := [] }) ∧
    (∀ before m after, (getCore s core).matrix = before ++ m :: after →
      let s0 := setCore s core { getCore s core with matrix := before ++ after }
      (spent m → (∀ y ∈ before, ¬spent y) → exec (.matrixOperationComplete core) s = .next s0) ∧
      (∀ e h, m.todo = some (e, h) → m.failed = none → (∀ y ∈ (getCore s core).matrix, ¬spent y) →
        (∀ y ∈ before, (y.todo = none ∨ y.failed ≠ none) ∧ y.overlaps m.team m.slots m.tiles = false) →
        (∀ t, matrixApply s0 (e, h) m.issueAge = .inr t → exec (.matrixOperationComplete core) s = .next t) ∧
        (∀ f, matrixApply s0 (e, h) m.issueAge = .inl f → exec (.matrixOperationComplete core) s = .next
          (modGroup (modCore (signalBad s f.cause) core (fun c => { c with matrix := before ++ { m with failed := some f } :: after }))
            m.group (fun y => if y.pending = none then { y with pending := some f } else y))))) ∧
    ((∀ y ∈ (getCore s core).matrix, ¬spent y) →
      (∀ k, k < (getCore s core).matrix.length → matrixReady (getCore s core).matrix k = false) →
      s.groups.find? (fun h => h.stopped && (whoOf s h).phys == core && (matrixLeft s h).any (fun m => m.failed.isSome)) = some g →
      ∀ f, g.pending = some f → exec (.matrixOperationComplete core) s =
        .next (setGroup (modCore s core (fun c => { c with
          matrix := c.matrix.filter (fun m => !(m.group == g.id && m.todo.isSome)) })) { g with rq := queueLeft s g f }))

/-- What happens to groups: a ready group that this step names counts as class 0 (the moment is the model's schedule in place of the
4,096 cycles of 16 R315: logs 3 and 6); a fault kept while it waited is taken by its handler, or ends its grid, once the matrix engine
brings none of its words to an end any more, which then stand first in the queue: at the marked word, the first unless one is marked;
a completed barrier phase wakes every group that waits for it, and a gang's barrier completes when every live group has arrived; two
halves that wait in `fuse` become one, lane by lane; of the words and the engines' operations that wait for fault-buffer entries the
one that parked first gets all it needs and its requests are posted (04 R72, 14 R276, R287, 16 R311, R312, 21 R342, R343, R354). -/
def Obligations.GroupSteps : Prop :=
  ∀ (s : State) (n : Nat),
    (∀ g, getGroup s n = some g →
      (ready s g = true → g.aged = false → exec (.issueAging n) s = .next (setGroup s { g with aged := true })) ∧
      (∀ f, g.pending = some f → g.stopped = false → matrixRuns s g = false →
        let left := (matrixLeft s g).filterMap (fun m => m.todo.map (fun t => { t.1 with faulting := m.failed == some f }))
        let queue := left ++ (match g.rq with
          | e :: es => if left.any (·.faulting) || g.rq.any (·.faulting) then g.rq else { e with faulting := true } :: es
          | [] => [])
        let free := modCore s (whoOf s g).phys (fun c => { c with
          matrix := c.matrix.filter (fun m => !(m.group == g.id && m.todo.isSome)) })
        exec (if canHandle s g then .trapEntry n else .faultEscalation n) s = .next (match queue.findIdx? (·.faulting) with
          | some k => takeFault free g f queue k ((queue[k]?.map (·.addr)).getD g.pc) g.pc
          | none => takeFault free g f queue 0xFF ((queue[0xFF]?.map (·.addr)).getD g.pc) g.pc)) ∧
      (∀ o, fusePartner s g = some o → o.id ≠ g.id → g.wait = some .fuse → o.wait = some .fuse → topSibling o = some g.index →
        getGroup s o.id = some o →
        ∃ t l u g', exec (.fuseRendezvous n) s = .next t ∧ getGroup t l.id = some g' ∧ getGroup t u.id = none ∧ t.mem = s.mem ∧
          (if isUpper g then l = o ∧ u = g else l = g ∧ u = o) ∧
          g'.pc = l.pc ∧ g'.width = 2 * l.width ∧ g'.stack = [] ∧ g'.sibling = l.sibling >>> 8 ∧ g'.wait = none ∧
          g'.held = l.held ||| u.held ∧ g'.s = l.s ∧ g'.h = l.h ∧ g'.rq = l.rq.drop 1 ∧
          (l.width ≤ 32 → ∀ k, k < 2 * l.width →
            g'.em.getLsbD k = (if k < l.width then l.em.getLsbD k else u.em.getLsbD (k - l.width)) ∧
            rngOf g' k = (if k < l.width then rngOf l k else rngOf u (k - l.width)) ∧
            (∀ r, vGet g' r k = if k < l.width then vGet l r k else vGet u r (k - l.width)) ∧
            ∀ r, r < 8 → condAt (cellGet g'.q r) k =
              if k < l.width then condAt (cellGet l.q r) k else condAt (cellGet u.q r) (k - l.width)))) ∧
    (∀ team b, let passes (g : Group) : Bool := g.team == team &&
        (match g.wait with | some (.bar k p) => b == k && p != (getBar s team b).phase | _ => false)
      (∃ g ∈ s.groups, passes g = true) → exec (.barrierPhaseComplete team b) s =
        .next { s with groups := s.groups.map (fun g => if passes g then { g with wait := none } else g) }) ∧
    (∀ gr, getGrid s n = some gr → gr.gbBroken = none → gr.gbArrived ≠ [] →
      (∀ t ∈ s.teams, t.grid = n → ∀ k ∈ t.live, k ∈ gr.gbArrived) → gr.id = n →
      let s1 := setGrid s { gr with gbPhase := gr.gbPhase + 1, gbArrived := [] }
      let passes (g : Group) : Bool := (match getTeam s g.team with | some t => t.grid == n | none => false) &&
        (match g.wait with | some (.gbar p) => p != gr.gbPhase + 1 | _ => false)
      exec (.gbarComplete n) s =
        .next { s1 with groups := s.groups.map (fun g => if passes g then { g with wait := none } else g) }) ∧
    (∀ die g, g ∈ s.groups → (∀ h ∈ s.groups, asksEntries s die h = true → h = g ∨ g.serial < h.serial) →
      (∀ o ∈ s.ops, opAsks s die o = true → g.serial ≤ o.serial) →
      let full (k : Nat) : State := setDie s die { getDie s die with buffered := (getDie s die).buffered + k }
      (∀ ps lines h, g.wait = some (.page ps false lines die h) → h ≠ 3 ∨ indexParked s die = false →
        (getDie s die).buffered + lines.length ≤ 4096 →
        exec (.faultBufferGrant die) s = .next (setGroup (ps.foldl (fun s p => postPage s (whoOf s g).ctx p) (full lines.length))
          { g with wait := some (.page ps true lines die h) })) ∧
      (∀ p, g.wait = some (.fetch p false die) → (getDie s die).buffered + 1 ≤ 4096 →
        exec (.faultBufferGrant die) s = .next (setGroup (postPage (full 1) (whoOf (full 1) g).ctx p)
          { g with wait := some (.fetch p true die) }))) ∧
    (∀ die o ps lines, o ∈ s.ops → o.asks = some (ps, lines) → opDie s o = die → engineParked s o = false →
      (∀ h ∈ s.ops, opAsks s die h = true → h = o ∨ o.serial < h.serial) →
      (∀ h ∈ s.groups, asksEntries s die h = true → o.serial < h.serial) →
      (getDie s die).buffered + lines.length ≤ 4096 →
      exec (.faultBufferGrant die) s = .next (setOp (ps.foldl (fun s p => postPage s o.context p)
        (setDie s die { getDie s die with buffered := (getDie s die).buffered + lines.length }))
        { o with asks := none, parked := ps, lines := lines }))

/-- An engine's operation goes on over its elements in order. Where it meets no page to wait for it ends: its events charged, the
full bits set of what it wrote, its timeline's number complete, a failure recorded as its element and cause; where it meets some
it parks on them, with an entry for each line, or asks for the entries where it cannot have them, and the elements that it reached
have landed. A plain copy reads each element of the source under the destination's coordinates, converts and writes it. A `copy.mig`
starts the moves of the pages under its elements, and ends once they are complete; with another tier it does nothing. Luna goes on by
a node, or ends. An uncorrectable error at an element ends the operation there with 0x50. A timeline's completed number passes only
over numbers that are complete, and its earliest failure stays (04 R71, R72, 06 R114 to R117, R122, R125 to R127, 11 R209, R222, 12
R240, R245, 13 R270, 18 R323). That an operation parks with an entry for each line and keeps the elements it has done is the model's
choice (log 55), and so is how a `copy.mig` finds a frame (log 22); that Luna goes on node by node is log 53, DEDUCED; elements after
a failing one, and what a copy reads of its own writes, are the model's free values (log 10). -/
def Obligations.OperationsComplete : Prop :=
  (∀ (s : State) (n : Nat) (op : EngineOp), getOp s n = some op → op.parked = [] → op.asks = none →
    let moved (r : EngineResult) : EngineOp := { r.op with next := r.run.next, pending := r.run.pending, wrote := r.run.wrote }
    let charged (r : EngineResult) : State := chargeOp r.run.s (moved r) r.tensor r.run.ev
    let done (r : EngineResult) : State :=
      endOp (fillGranules (charged r) (opEng (moved r)) r.n r.run.failed r.run.wrote r.dest) (moved r)
        (r.run.failed.map (fun x => (BitVec.ofNat 64 x.1, BitVec.ofNat 8 x.2)))
    let goes (i : Instr) (r : EngineResult) (last : State → State) : Prop :=
      (r.run.pages = [] → exec i s = .next (last (done r)) ∧ getOp (last (done r)) n = none) ∧
      (r.run.pages ≠ [] →
        let d := opDie (charged r) (moved r)
        let t := giveEntries (charged r) d (moved r).lines.length
        let fits := (getDie t d).buffered + r.run.lines.length ≤ 4096 ∧
          ((moved r).lines ≠ [] ∨ bufferQueued t d = false) ∧ engineParked t (moved r) = false
        (fits → exec i s = .next (setOp
          (r.run.pages.foldl (fun s p => postPage s (moved r).context p) (takeEntries t d r.run.lines.length))
          { moved r with parked := r.run.pages, lines := r.run.lines, asks := none, serial := (charged r).tick })) ∧
        (¬fits → exec i s = .next (setOp t { moved r with
          parked := [], lines := [], asks := some (r.run.pages, r.run.lines)
          serial := if (moved r).lines = [] then (charged r).tick else (moved r).serial })))
    (∀ i, instrOf op.word = some i → (∀ e r l m, i ≠ .copyMig e r l m) →
      (op.kind = .copy → goes (.copyOperationComplete n) (runCopy s op i none) id) ∧
      (op.kind = .fetch → goes (.fetchOperationComplete n) (runCopy s op i none) id)) ∧
    (op.kind = .copy → (∃ e r l m, instrOf op.word = some (.copyMig e r l m)) →
      let tier := op.args.getD 0 0
      let h := Shape.of (op.recs.getD 1 0)
      let r := runMig s op none
      (op.started = false → r.run.pages = [] → r.run.failed = none → exec (.copyOperationComplete n) s =
        .next (setOp r.run.s { op with started := true, next := r.run.next, pending := r.run.pending })) ∧
      (op.started = false → r.run.pages ≠ [] ∨ r.run.failed ≠ none → goes (.copyOperationComplete n) r id) ∧
      (tier ≠ 0 → tier ≠ 1 → r.run.s = s ∧ r.run.pages = [] ∧ r.run.failed = none) ∧
      (tier = 0 ∨ tier = 1 → ∀ k, k < h.count → op.pending = [] → op.next = k → h.count = k + 1 →
        ∀ a s1, elemAt s (opEng op) h k = .inr (a, s1) →
        match a with
        | none => r.run.s = s1 ∧ r.run.failed = none
        | some a => if a < 2 ^ 32 ∨ 2 ^ 57 < a + (h.bytes : Int) then r.run.failed = some (k, 0x15)
          else r.run.failed = none ∧ r.run.s =
            (pageCuts a.toNat h.bytes).foldl (fun s c => startMove s op.context c.1 tier.toNat op.id (some op.id)) s1) ∧
      (op.started = true → (∀ m ∈ s.migrations, m.op ≠ some op.id) →
        exec (.copyOperationComplete n) s = .next (endOp s op none))) ∧
    (op.kind = .select → goes (.selectOperationComplete n) (runSelect s op (selectRows op) none) id) ∧
    (op.kind = .mmav → mmavBlocked s op = false → goes (.mmavComplete n) (runMmav s op none)
      (fun t => if (runMmav s op none).run.pages = [] then vacate t op else t)) ∧
    (op.kind = .luna →
      let r := stepWalk s op
      let last := (lunaLanesOf op).length ≤ r.2.1.next ∨ ∃ e a l n, instrOf op.word = some (.treuse e a l n)
      (∀ f, r.2.2 = some f → exec (.lunaOperationComplete n) s = .next (endLuna r.1 r.2.1 (some f))) ∧
      (r.2.2 = none → last → exec (.lunaOperationComplete n) s = .next (endLuna r.1 r.2.1 none)) ∧
      (r.2.2 = none → ¬last → r.2.1 ≠ op → exec (.lunaOperationComplete n) s = .next (setOp r.1 r.2.1))) ∧
    (∀ k : DWord,
      let stop := some (k.toNat, 0x50)
      let errs (r : EngineResult) (last : State → State) : Prop :=
        r.run.pages = [] → r.run.failed = stop → exec (.engineOperationFault n 0x50 k) s = .next (last (done r))
      (∀ i, (op.kind = .copy ∧ op.started = false) ∨ op.kind = .fetch → instrOf op.word = some i →
        errs (runCopy s op i stop) id) ∧
      (op.kind = .select → errs (runSelect s op (selectRows op) stop) id) ∧
      (op.kind = .mmav → mmavBlocked s op = false → errs (runMmav s op stop) (fun t => vacate t op)) ∧
      (op.kind = .luna → ∀ l, (lunaLanesOf op)[op.next]? = some l → k.toNat = l.lane →
        exec (.engineOperationFault n 0x50 k) s = .next (endLuna s op (some (l.lane, .broken)))) ∧
      (op.kind = .coll → ∀ p, getSet s op.context (op.args.getD 0 0).toNat = some p →
        exec (.engineOperationFault n 0x50 k) s = .next (dropColl (signal s 2) op p (.lost p.rank))))) ∧
  (∀ (s : State) (op : EngineOp) (i : Instr) (stop : Option (Nat × Nat)),
    (∃ e d r l, i ∈ [Instr.copyIn e d r l, .copyOut e d r l, .copyNn e d r l]) →
    let hd := Shape.of (op.recs.getD 0 0)
    let hs := Shape.of (op.recs.getD 1 0)
    (runCopy s op i stop).run = runElems op hd.count stop (fun k s =>
      match readElem s (opEngAt op k) hs (coordsOf (hd.coords k)) with
      | .inl stop => .inl stop
      | .inr (x, s) =>
        let c := convElem hs.ty hd.ty (engMode op.mode) x
        match writeElem s (opEngAt op k) hd (coordsOf (hd.coords k)) c.code with
        | .inl stop => .inl stop
        | .inr (s, e, a) => .inr (s, c.events.plus e, a)) (fun k _ => hd.target (coordsOf (hd.coords k))) s) ∧
  ∀ (t : Timeline) (number : DWord) (k : DWord) (c : BitVec 8),
    (number.toNat = t.completed.toNat + 1 → t.done = [] → completeTl t number none = { t with completed := number }) ∧
    (t.completed.toNat + 1 ≠ number.toNat → t.completed.toNat + 1 ∉ t.done →
      completeTl t number none = { t with done := number.toNat :: t.done }) ∧
    (completeTl t number (some (k, c))).failure = (match t.failure with
      | none => some { number := number, elem := k, cause := c }
      | some f => if number.toNat < f.number.toNat then some { number := number, elem := k, cause := c } else some f)

/-- A collective for which every member's message is whole, and of rank 0's kind, types, rounding and boxes, writes each element
of its destination, charges its events, sets the full bits, writes its status word with code 0, and ends; a failed rank, a lost
member, the timeout or the host's abort breaks the set with the code 2, 1 or 3; on a broken set a later collective ends with the
set's word, and an earlier one of itself; a reform gives the set its new epoch, list and rank, or with a list that differs breaks it;
an operation of an old epoch, or that a reform has left, ends with code 2. A lost member, or the timeout, breaks the barriers of the
gangs that span the set (13 R265 to R271, 16 R312). The Admiral takes its first packet that is not kept for later, routes a full batch
and counts it, and fails a descriptor whose program does not end or whose bytes meet an error (18 R331, R337, R340, 25 R380). What a
message says of an operation is the model's form (log 68); a reform's word (sequence 0, rank 0xFFFF) and what a broken set gives an
operation beside one rest on log 49 (DEDUCED), and the rank in a code 2 word where none failed is free (log 24); the packets that an
Admiral keeps and the place of a customer's program are logs 52 (DEDUCED) and 26. -/
def Obligations.SetsAndAdmirals : Prop :=
  ∀ (s : State),
    (∀ n op ctx p, getOp s n = some op → op.context = ctx → getSet s ctx (op.args.getD 0 0).toNat = some p → op.parked = [] →
      op.asks = none →
      let hd := Shape.of (op.recs.getD 0 0)
      let hs := Shape.of (op.recs.getD 1 0)
      let m := engMode op.mode
      let head := collHeader op.word hs hd m
      let seq := op.seq.toNat
      let broke := p.status.toNat / 2 ^ 32
      let left : Prop := p.epoch ≠ op.epoch ∨ p.state = 3 ∨ (p.state = 2 ∧ broke = 0)
      let under : Prop := p.epoch = op.epoch ∧ (p.state = 1 ∨ (p.state = 2 ∧ broke ≠ 0 ∧ seq ≤ broke))
      let breaks (i : Instr) (word : Nat) : Prop := ∃ t q, exec i s = .next t ∧ getOp t n = none ∧
        getSet t ctx p.set = some q ∧ q.state = 2 ∧ q.status = BitVec.ofNat 64 word
      (op.kind = .coll → ∀ i peers, instrOf op.word = some i →
        (left → exec (.collectiveComplete n peers) s = .next (abortColl s op p (statusWord seq (noRank op) 2))) ∧
        (p.epoch = op.epoch → p.state = 2 → broke ≠ 0 → broke < seq → exec (.collectiveComplete n peers) s =
          .next (abortColl s op p p.status.toNat)) ∧
        (under → peers.length = p.members.length →
          (hostAbort ∈ peers → breaks (.collectiveComplete n peers) (statusWord seq 0xFFFF 3)) ∧
          (hostAbort ∉ peers → ∀ own s1, ownSource s (opEng op) hs = .inr (own, s1) →
            (∀ q, q < p.members.length → q ≠ p.rank → (peers.getD q []).take 20 = head → (peers.getD q []).length = 20 + hs.count * hs.bytes) →
            (p.rank ≠ 0 → (peers.getD 0 []).take 20 = head) →
            let wrong := (List.range p.members.length).filter (fun q => q != p.rank && (peers.getD q []).take 20 != head)
            (∀ q rest, wrong = q :: rest → breaks (.collectiveComplete n peers) (statusWord seq q 2)) ∧
            (wrong = [] →
              let r := collWrite s1 op hd (fun _ => true) (collValue (collForm i) p.members.length p.rank hs hd m
                (contribution hs p.rank own peers))
              r.pages = [] → r.failed = none → sealHit s (opEng op).who (op.args.getD 1 0).toNat 8 = false →
              exec (.collectiveComplete n peers) s = .next (endOp (putStatus (fillGranules (chargeOp r.s op hd.tid r.ev) (opEng op)
                hd.count none r.wrote (fun _ => none)) op (seq * 2 ^ 32 + 0xFFFF0000)) op none))))) ∧
      (op.kind = .reform → ∀ l rank peers, memberList s (opEng op).who (op.args.getD 2 0).toNat = some l →
        (listIds l).idxOf? (p.members.getD p.rank 0) = some rank → peers.length = (listIds l).length →
        ((∀ q, q < peers.length → q ≠ rank → peers.getD q [] = l) →
          nearBad s (opEng op).who false (op.args.getD 2 0).toNat 8 = false →
          exec (.psetReformComplete ⟨n, peers⟩) s = .next (endOp (putStatus (modSet s ctx p.set (fun q => { q with
            epoch := q.epoch + 1, rank := rank, members := listIds l, state := 1, seq := 0, status := 0 })) op 0xFFFF0000) op none)) ∧
        (∀ q, q < peers.length → q ≠ rank → peers.getD q [] ≠ l → breaks (.psetReformComplete ⟨n, peers⟩) (statusWord 0 (noRank op) 2))) ∧
      (op.kind = .coll → under → breaks (.transactionTimeout n) (statusWord seq 0xFFFF 1)) ∧
      (op.kind = .reform → p.state = 3 → breaks (.transactionTimeout n) (statusWord seq 0xFFFF 1)) ∧
      (op.kind = .coll → left → exec (.transactionTimeout n) s =
        .next (abortColl s op p (statusWord seq (noRank op) 2)))) ∧
    (∀ n g, getOp s n = none → getGrid s n = some g → gbarWaits s g = true → exec (.transactionTimeout n) s =
      .next (setGrid s { g with gbBroken := some (BitVec.ofNat 64 (statusWord g.gbPhase.toNat 0xFFFF 1)) })) ∧
    (∀ ctx set rank p, getSet s ctx set = some p → p.state ≠ 0 → rank < p.members.length →
      ∃ t, exec (.peerMemberLoss ctx set rank) s = .next t ∧
        (∀ op rest, setOps s ctx set = op :: rest → op.kind = .coll → p.state = 1 → p.epoch = op.epoch →
          (∀ o ∈ rest, o.kind = .coll ∧ (o.epoch = op.epoch → op.seq.toNat < o.seq.toNat)) →
          ∃ q, getSet t ctx set = some q ∧ q.state = 2 ∧ q.status = BitVec.ofNat 64 (statusWord op.seq.toNat rank 2)) ∧
        (∀ o ∈ t.ops, o.kind = .coll ∨ o.kind = .reform → o.context = ctx → (o.args.getD 0 0).toNat ≠ set) ∧
        ∀ n g, getGrid s n = some g → g.context = ctx → recPeers g.record = set → recGang g.record = true → g.placed = true →
          g.ended = false → g.gbBroken = none →
          ∃ g', getGrid t n = some g' ∧ g'.gbBroken = some (BitVec.ofNat 64 (statusWord g.gbPhase.toNat rank 2))) ∧
    (∀ die before p after, (getDie s die).packets = before ++ p :: after → (∀ q ∈ before, heldPacket s q = true) →
      heldPacket s p = false →
      let s0 := setDie s die { getDie s die with packets := before ++ after }
      let d := p.desc.toNat
      let f := routeField s p.context d
      let r := getRouting s die p.context d
      let refused : Prop := p.batch < f 0x10 4 ∨ f 8 4 ≤ p.token ∨ p.token ∈ r.received.map (·.1)
      let goes (t : State) : Prop := exec (.admiralPacket die) s = .next t
      (routeBad s p.context d = true → goes (failRoute s0 p.context d 0x50)) ∧
      (routeBad s p.context d = false →
        (routeFailure s p.context d ≠ none → goes s0) ∧
        (routeFailure s p.context d = none → routeSealed s p.context d = true → goes (failRoute s0 p.context d 0x13)) ∧
        (routeFailure s p.context d = none → routeSealed s p.context d = false →
          (refused → goes (setRouteField s0 p.context d 0x24 4 (f 0x24 4 + 1))) ∧
          (¬refused → goes (setRouteField (setRouting s0 die { r with
            batch := BitVec.ofNat 32 p.batch, received := r.received ++ [(p.token, BitVec.ofNat 32 (p.bits.toNat / 2 ^ 64), p.carried)] })
            p.context d 0x14 4 (r.received.length + 1)))))) ∧
    (∀ die place r, fullBatch s die = some r → customBatch s die = false ∨ placeFits place = true →
      let d := r.desc.toNat
      let t := routeBatch s die place r
      exec (.batchRouting ⟨die, place⟩) s = .next t ∧
      (routeBad s r.context d = true → t = failRoute s r.context d 0x50) ∧
      (routeFailure s r.context d = none →
        0x80000000 ≤ d → d < 2 ^ 32 → d % 64 = 0 → (nearLoc s (admiral r.context (scratchDie d)) d 0x40).isSome = true →
        routeFailure t r.context d = none →
        routeField t r.context d 0x10 4 = (routeField s r.context d 0x10 4 + 1) % 2 ^ 32 ∧ routeField t r.context d 0x14 4 = 0 ∧
        (getRouting t die r.context d).received = []) ∧
      (customBatch s die = true → exec (.routingProgramTimeout die) s = .next (failRoute s r.context d 0x15)))
/-! ### Steps without a word: work -/

/-- How work starts. A launch record at the head of the queue whose turn it is starts a grid, or is refused with status 4 (2 with
cause 0x32 in a cross-package gang). A core takes the waiting work of the best class, the oldest first, and none before a drained
team that it has room for. A team starts with its groups in the state of 16 R292 and zeroed spill windows. A core takes the next
ticket of its own die, or the highest of the nearest other; a released task; an item group, whose payloads lie in v0 and v1. A
gang's teams all start, those of a cross-package gang standing still until the commit, or its launch is aborted; a member with no
team of one may reserve at once. 64 items, or a queue that has waited, form a group. Groups begin having acquired what was released
toward their grid, task or item (07 R137, 16 R290 to R297, R303 to R305, R308, R309, R394). The identifiers of grids, teams and groups
are the model's own (`nextId`), the spill windows' places its choice (log 40); status 2 with cause 0x32 for a refused cross-package
record is log 32 (DEDUCED, where 16 R291 names status 4), teams that stand still until the commit log 38 (DESIGN CHOICE), and what a
group begins having acquired log 70 (DEDUCED). -/
def Obligations.WorkStarts : Prop :=
  (∀ (s : State) (q : Nat) (x : SubQueue), s.device = 1 → nextQueue s = some q → getQueue s q = some x →
    let r := headRecord s x
    let shared := recGang r && recPeers r != 0xFFFF
    let goes (p : Nat × State) : Prop := exec (.launchRecordDispatch q) s = .next { setQueue
        (replaceAt p.2 (.start p.1) (dispatchAges s x r)) { x with
      head := (x.head + 1) % 2 ^ x.k, lastGrid := some p.1 } with rrNext := (q + 1) % 64 }
    (recordOk s x.context r false = true → goes (startGrid s x.context r 0 q x.head none 0)) ∧
    (recordOk s x.context r false = true → recGang r = false → recPeers r = 0xFFFF → goes (s.nextId, { s with
      nextId := s.nextId + 1
      grids := s.grids ++ [{ id := s.nextId, context := x.context, record := r, depth := 0, queue := q, ring := x.head, parent := none,
                             order := s.nextId, placed := true, total := recTeams r,
                             tickets := (List.range 4).map (fun k => ⟨k * recTeams r / 4, (k + 1) * recTeams r / 4⟩) }] })) ∧
    (recordOk s x.context r false = false → goes (s.nextId, { s with
      nextId := s.nextId + 1
      grids := s.grids ++ [{ id := s.nextId, context := x.context, record := r, depth := 0, queue := q, ring := x.head, parent := none,
                             order := s.nextId, placed := true, ended := true, status := (if shared then 2 else 4),
                             cause := (if shared then 0x32 else 0) }] }))) ∧
  (∀ (s : State) (core : Nat),
    (∀ w, nextWork s core = some w → (∀ t ∈ s.teams, resumable s t core = false) ∧
      ∃ c o, (w, c, o) ∈ coreWork s core ∧ ∀ y ∈ coreWork s core, c < y.2.1 ∨ c = y.2.1 ∧ o ≤ y.2.2) ∧
    (nextWork s core = none → (∃ t ∈ s.teams, resumable s t core = true) ∨ coreWork s core = []) ∧
    (heldByGang s core none = false →
      (∀ g ∈ s.grids, g.ended = false → (∃ t ∈ g.tickets, t.next < t.stop) → teamFits s core g.context (recShape g.record) = true →
        (.ticket g.id, recPrio g.record, g.order) ∈ coreWork s core) ∧
      ∀ t ∈ s.tasks, t.inUse = true → t.released = true → t.placed = false →
        teamFits s core t.context (taskShape t.record) = true → virtDie s t.context (dieOf core) = t.die → t.die < 4 →
        (.task t.die t.index t.context, leAt t.record 0x17 1 % 4, t.order) ∈ coreWork s core)) ∧
  (∀ (s : State) (p : TeamStart) (spills : List Nat), (∀ t ∈ s.teams, t.id < s.nextId) →
    let core := virtCore s (gridCtx s p.grid) p.core
    placeSpills s (gridCtx s p.grid) (dieOf core) p.shape.quota p.shape.groups = some spills →
    let u := startTeam s p
    let fresh_ (at_ : Nat) : Prop := ∃ a ∈ spills, a ≤ at_ ∧ at_ < a + p.shape.quota
    ∃ t gs, u.teams = s.teams ++ [t] ∧ u.groups = s.groups ++ gs ∧ gs.length = p.shape.groups ∧ t.live = gs.map (·.id) ∧
      { t with live := [] } =
        { id := s.nextId, grid := p.grid, linear := p.linear, origin := p.origin, core := core, groups := p.shape.groups,
          width := p.shape.width, tiles := p.shape.tiles, memSize := p.shape.mem, quota := p.shape.quota, prio := p.prio,
          accs := List.replicate p.shape.tiles {} } ∧
      (∀ k, (fresh_ k → cellGet u.mem k = 0) ∧ (¬fresh_ k → cellGet u.mem k = cellGet s.mem k)) ∧
      ∀ i g, gs[i]? = some g →
        g = { id := s.nextId + 1 + i, team := s.nextId, index := i, width := p.shape.width, pc := BitVec.ofNat 64 p.pc
              em := BitVec.ofNat 64 (2 ^ p.shape.width - 1), s := g.s, rng := g.rng, spillAt := spills.getD i 0
              acquired := (joinAges (released s (.start p.grid)) p.carried).map (fun y => { age := y, classes := everyClass })
              sibling := BitVec.ofNat 32 (launchSibling i p.shape.groups), quota := p.shape.quota, residency := g.residency } ∧
        sGet g 0 = p.arg % 2 ^ 64 ∧ sGet g 1 = p.s1 % 2 ^ 64 ∧ sGet g 2 = i % 2 ^ 64 ∧
        sGet g 54 = (0x4000000 + p.shape.quota) % 2 ^ 64 ∧ (∀ k, 2 < k → k ≠ 54 → sGet g k = 0) ∧
        ∀ k, (cellGet g.rng k).toNat = if k < p.shape.width then seedOf p.seed p.linear.toNat i k % 2 ^ 32 else 0) ∧
  (∀ (g : Grid) (d : Nat), d < 4 →
    let at_ (k : Nat) : Ticket := g.tickets.getD k { next := 0, stop := 0 }
    ((at_ d).next < (at_ d).stop → takeTicket g d =
      some ((at_ d).next, { g with tickets := g.tickets.set d { at_ d with next := (at_ d).next + 1 } })) ∧
    ((at_ d).stop ≤ (at_ d).next → ∀ before k after, [[1, 2, 3], [0, 2, 3], [3, 0, 1], [2, 0, 1]].getD d [] = before ++ k :: after →
      (∀ j ∈ before, (at_ j).stop ≤ (at_ j).next) → (at_ k).next < (at_ k).stop →
      takeTicket g d = some ((at_ k).stop - 1, { g with tickets := g.tickets.set k { at_ k with stop := (at_ k).stop - 1 } }))) ∧
  (∀ (s : State) (core n : Nat) (g : Grid), getGrid s n = some g →
    (∀ idx g', nextWork s core = some (.ticket n) → takeTicket g (virtDie s g.context (dieOf core)) = some (idx, g') →
      exec (.teamPlacement core) s = .next (startIndex (setGrid s g') g' core idx)) ∧
    (∀ t, gangPlace s g = some t → t.teams.length = s.teams.length + g.total) ∧
    (g.total = 0 → gangNextWork s g = true) ∧
    (∀ t, g.placed = false → g.reserved = false → g.ended = false → gangNextWork s g = true → gangPlace s g = some t →
      (crossPackage g = false →
        exec (.gangPlacement n) s = .next (setGrid t { g with placed := true, reserved := false, target := [] })) ∧
      (crossPackage g = true →
        let u := setGrid t { g with placed := false, reserved := true, target := [] }
        exec (.gangPlacement n) s = .next { u with groups := u.groups.map (fun y =>
          if gridOfTeam u y.team = some g.id then { y with stopped := true } else y) })) ∧
    (recGang g.record = true → recPeers g.record ≠ 0xFFFF → g.placed = false → g.ended = false →
      (g.reserved = true →
        let u := setGrid s { g with placed := true, reserved := false }
        exec (.gangLaunchCommit n) s = .next { u with groups := u.groups.map (fun y =>
          if gridOfTeam u y.team = some n ∧ (getTeam u y.team).any (·.draining) = false then { y with stopped := false } else y) }) ∧
      exec (.gangLaunchAbort n) s = .next (setGrid { s with
          groups := s.groups.filter (fun y => gridOfTeam s y.team != some n), teams := s.teams.filter (·.grid != n) } { g with
        placed := true, reserved := false, target := [], ended := true, status := 2, cause := 0x32 }))) ∧
  (∀ (s : State) (core d k c : Nat) (z : TaskEntry), nextWork s core = some (.task d k c) →
    s.tasks.find? (fun t => t.die == d && t.index == k && t.context == c) = some z →
    let h := z.gen * 2 ^ 14 + z.die * 2 ^ 12 + z.index
    exec (.taskPlacement core) s = .next (startTeam { s with tasks := s.tasks.map (fun y =>
        if y.context = z.context ∧ y.die = z.die ∧ y.index = z.index then { y with placed := true } else y) }
      { grid := z.grid, linear := BitVec.ofNat 64 h, origin := 1, core := core, shape := taskShape z.record,
        prio := leAt z.record 0x17 1 % 4, pc := leAt z.record 0 8, arg := leAt z.record 8 8, s1 := h,
        seed := match getGrid s z.grid with | some g => recSeed g.record | none => 0
        carried := released s (.task z.context z.die z.index) })) ∧
  (∀ (s : State) (core d k : Nat) (y : ItemGroup) (gr : Grid), nextWork s core = some (.items d k) →
    (getDie s d).formed[k]? = some y → getGrid s y.grid = some gr → y.items.length ≤ 64 →
    ∃ t g, exec (.itemGroupPlacement core) s = .next t ∧ g ∈ t.groups ∧ g.team = s.nextId ∧ g.width = 64 ∧ g.pc = y.target ∧
      (∀ i, g.em.getLsbD i = decide (i < y.items.length)) ∧ sGet g 0 = leAt gr.record 8 8 ∧ sGet g 1 = y.target.toNat ∧
      sGet g 2 = y.items.length ∧ g.sibling = 0 ∧
      ∀ i it, y.items[i]? = some it → vGet g 0 i = it.payload.toNat % 2 ^ 32 ∧ vGet g 1 i = it.payload.toNat / 2 ^ 32 ∧
        rngOf g i = it.seed.toNat ∧ ∀ z ∈ it.carried, { age := z, classes := everyClass, arms := [] : Gain } ∈ g.acquired) ∧
  (∀ (s : State) (die k : Nat) (q : ItemQueue), die < 4 → (getDie s die).queues[k]? = some q →
    let rest := q.items.drop 64
    let formed : State := setDie { s with nextId := s.nextId + 1 } die { getDie s die with
      queues := if rest.isEmpty then (getDie s die).queues.eraseIdx k else (getDie s die).queues.set k { q with items := rest }
      formed := (getDie s die).formed ++ [{ grid := q.grid, target := q.target, items := q.items.take 64, order := s.nextId }] }
    (64 ≤ q.items.length → exec (.itemGroupForm die k) s = .next formed) ∧
    (q.items ≠ [] → exec (.itemWaitExpiry die k) s = .next formed))

/-- How work ends. A team with no live group and nothing outstanding but launches is freed, with its seal entries over team memory
and its task's entry, and its grid counts it. A grid of which nothing is left adds its counts to its statistics, each up to 2^64 −
1, writes its completion word, or logs it where it cannot be written, and goes. A drained team whose words and operations have
finished is written into its image, whose digest is right, and its resources are freed; it resumes on a core with room, first
drained first, each group with the registers, status and spill window that its section holds (04 R83, 16 R298 to R300, 21 R355,
R357 to R360, 25 R371). What an image does not hold of its groups the model keeps beside it (log 14); where sections stand is its
choice (log 31). -/
def Obligations.WorkEnds : Prop :=
  (∀ (s : State) (n : Nat) (tm : Team) (gr : Grid), getTeam s n = some tm → getGrid s tm.grid = some gr →
    (tm.live = [] → tm.saved = false → (∀ o ∈ s.ops, o.team = n → o.kind = .launch) →
      (∀ m ∈ (getCore s (teamCore s tm)).matrix, m.team ≠ n) →
      ∃ t, exec (.teamFree n) s = .next t ∧ t.teams = s.teams.filter (fun y => y.id != n) ∧
        getGrid t tm.grid = some { gr with retired := gr.retired + 1 } ∧
        (∀ c, getCtx s gr.context = some c → getCtx t gr.context =
          some { c with seals := c.seals.filter (fun e => !(e.team == n && decide (e.start < 0x80000000))) }) ∧
        (tm.origin = 1 → ∀ z ∈ t.tasks, z.context = gr.context →
          z.gen * 2 ^ 14 + z.die * 2 ^ 12 + z.index = tm.linear.toNat → z.inUse = false) ∧
        t.mem = s.mem ∧ t.fe = s.fe ∧ t.groups = s.groups ∧ t.ops = s.ops)) ∧
  (∀ (s : State) (n : Nat) (g : Grid), getGrid s n = some g → g.parked = none → gridDone s g = true → retirePage s g = none →
    let late := (s.tasks.filter (fun t => t.inUse && t.grid == n && !t.placed && !t.released)).length
    let stats := writeStats s g
    ∃ t, exec (.gridRetirement n) s = .next t ∧ getGrid t n = none ∧
      (∀ q ∈ t.queues, q.lastGrid ≠ some n) ∧ (∀ o ∈ t.ops, o ∈ s.ops) ∧
      (∀ l, doneAt stats.1 g = .inr l → t.mem = bytesSet stats.1.mem (l.headD 0) 16 (g.retired % 2 ^ 64 * 2 ^ 64 +
        (g.discarded + late) % 2 ^ 32 * 2 ^ 32 + (if stats.2 then 2 ^ 16 else 0) + g.cause.toNat * 2 ^ 8 + g.status.toNat)) ∧
      (∀ c x, doneAt stats.1 g = .inl (.flt c) → getCtx s g.context = some x →
        let at_ := x.save + 0x4040
        let k := bytesGet stats.1.mem at_ 4
        bytesGet t.mem at_ 8 = (k + 1) % 2 ^ 32 ∧ bytesGet t.mem (at_ + 8 + 16 * (k % 64)) 16 =
          g.queue % 2 ^ 16 + g.ring % 2 ^ 32 * 2 ^ 32 + g.id % 2 ^ 64 * 2 ^ 64 ∧ 3 ∈ t.msix)) ∧
  (∀ (m : Memory) (l counts : List Nat), l.length = 48 → l.Nodup → counts.length ≤ 6 → ∀ k x, counts[k]? = some x →
    let at_ := (l.drop (8 * k)).take 8
    peekAt (addRecord m l counts) at_ = if x = 0 then peekAt m at_ else min (peekAt m at_ + x) (2 ^ 64 - 1)) ∧
  (∀ (s : State) (n : Nat) (tm : Team), getTeam s n = some tm → tm.draining = true → tm.saved = false → tm.live ≠ [] →
    (∀ g ∈ s.groups, g.team = n → g.wait = none ∧ g.unfinished = [] ∧ (g.replaying = false ∨ g.pending ≠ none)) → (∀ o ∈ s.ops, o.team = n → o.kind = .launch) →
    (∀ m ∈ (getCore s (teamCore s tm)).matrix, m.team ≠ n) →
    ∃ t tm', exec (.chrysalisSave n) s = .next t ∧ getTeam t n = some tm' ∧ tm'.saved = true ∧ tm'.mem = [] ∧
      imageOk t.mem tm' = true ∧ tm'.savedGroups = groupsInOrder s n ∧ tm'.imageLen = (imageBody s tm).size ∧
      (∀ i, i < tm'.imageLen → i < 0x40 ∨ 0x60 ≤ i →
        cellGet t.mem (tm'.imageAt + i) = cellGet (cellSetAll [] (imageBody s tm).cells) i) ∧
      t.groups = s.groups.filter (fun g => g.team != n) ∧
      t.mailbox.images = s.mailbox.images + 1 ∧ t.grids = s.grids ∧ t.ops = s.ops) ∧
  (∀ (s : State) (g : Group), g.width ≤ 64 →
    let b := cellSetAll [] (groupSection s g).cells
    (∀ j, j < 56 → bytesGet b (0xA040 + 8 * j) 8 = sGet g j) ∧
    (∀ j, j < 16 → bytesGet b (0xA200 + 64 * j) 64 = (hGet g j).toNat) ∧
    ∀ r i, r < 64 → i < g.width → bytesGet b (0xA600 + 4 * (64 * i + r)) 4 = vGet g r i) ∧
  (∀ (m : Memory) (a : Nat) (g : Group), g.width ≤ 64 →
    let r := (readGroup m a g).1
    (∀ j, j < 56 → sGet r j = bytesGet m (a + 0xA040 + 8 * j) 8) ∧
    (∀ j, j < 16 → (hGet r j).toNat = bytesGet m (a + 0xA200 + 64 * j) 64) ∧
    (∀ k i, k < 64 → i < g.width → vGet r k i = bytesGet m (a + 0xA600 + 4 * (64 * i + k)) 4) ∧
    r.pc.toNat = bytesGet m (a + 0x58) 8 ∧ r.em.toNat = bytesGet m (a + 0x68) 8 % 2 ^ g.width ∧
    r.sibling.toNat = bytesGet m (a + 40) 4 ∧ r.held.toNat = bytesGet m (a + 2) 1 % 16 ∧
    r.tagged.toNat = bytesGet m (a + 8) 8 + 2 ^ 64 * bytesGet m (a + 24) 8 ∧
    r.dropped.toNat = bytesGet m (a + 16) 8 + 2 ^ 64 * bytesGet m (a + 32) 8) ∧
  (∀ (s : State) (n core : Nat) (tm : Team), getTeam s n = some tm → core < 512 → resumable s tm core = true →
    (∀ u ∈ s.teams, resumable s u core = true → tm.drainOrder ≤ u.drainOrder) → imageOk s.mem tm = true →
    ∃ t tm' gs, exec (.teamResume n core) s = .next t ∧ getTeam t n = some tm' ∧
      tm'.core = virtCore s (gridCtx s tm.grid) core ∧ tm'.saved = false ∧ tm'.draining = false ∧ t.ops = s.ops ∧
      t.groups = s.groups ++ gs ∧ gs.map (·.id) = tm.savedGroups.map (·.id) ∧
      ∀ (k : Nat) (g : Group), gs[k]? = some g → ∃ g' src, (readGroups s.mem tm)[k]? = some (g', src) ∧
        g = { g' with residency := g.residency, spillAt := g.spillAt, stopped := (getGrid s tm.grid).any (·.reserved) } ∧
        g.slot = none ∧ g.wait = none)

/-! ### The host -/

/-- The commands of the mailbox, taken up while the device is not booting: with its operands in range a command has its effect and
completes with status 0 and its result; otherwise it completes with status 1 and no effect. A context gets its allocations, zeroed
and empty, and their addresses in its save area; where the device has no place to give, status 2. A context that is destroyed has
its grids ended first, and is freed once they are gone; a pre-emption takes its cores, and completes, with the number of images
written, once every stopped team is saved. A page answer lets every access that waits for the page go on, in the order in which
they parked, or fails it (04 R70 to R72, 07 R139, 13 R266, R269, 21 R354, R357, 25 R368 to R371, R376 to R380). Which number and
places the device chooses are arguments of the step (log 9); keys and signatures are free values (log 12). The model's own are: status
1 for a member list without this package (log 23); operands of the commands as device addresses, and sealed bytes kept from an
attestation's output (log 29); code 3 for the operations of a set that is defined again (log 68); the range of INVALIDATE (log 27);
the turns after a page answer (log 3); and a physical die in command 0x09 (log 71). -/
def Obligations.HostCommands : Prop :=
  ∀ (s : State), s.mailbox.go = true → s.device ≠ 0 →
    let m := s.mailbox
    let a := m.op0.toNat
    let b := m.op1.toNat
    let c := m.op2.toNat
    let n := m.context.toNat
    let ctx := getCtx s n
    let ended (t : State) (status result : Nat) : State := { t with mailbox := { t.mailbox with
      status := BitVec.ofNat 32 status, result := BitVec.ofNat 64 result, go := false, begun := false, images := 0 } }
    let does (code : BitVec 8) (i : Instr) (ok : Prop) (t : State) : Prop := m.code = code →
      (ok → exec i s = .next (ended t 0 0)) ∧ (¬ok → exec i s = .next (ended s 1 0))
    (m.code = 0x01 → ∀ (num : BitVec 16) scratch pool,
      let size := c % 2 ^ 32
      let psize := c / 2 ^ 32
      (createOk s = false → exec (.createContext num scratch pool) s = .next (ended s 1 0)) ∧
      (createOk s = true → exec (.createContext num [] []) s = .next (ended s 2 0)) ∧
      (createOk s = true → getCtx s num.toNat = none → placementOk s scratch pool size psize = true →
        ∃ t, exec (.createContext num scratch pool) s = .next t ∧ t.mailbox = (ended s 0 num.toNat).mailbox ∧
          getCtx t num.toNat = some { num := num.toNat, root := m.op0, save := b, faultRec := m.op3.toNat, scratch := scratch,
                                      scratchSize := size, pool := pool, poolSize := psize
                                      remap := (List.range 4).map (fun k => (scratch.getD k 0 - 0x80000000000) / 2 ^ 30) } ∧
          (∀ k, k < 4 → (∀ i, i < size → cellGet t.mem (scratch.getD k 0 + i) = 0 ∧ cellGet t.fe ((scratch.getD k 0 + i) / 16) = 0) ∧
            bytesGet t.mem (b + 0x4000 + 16 * k) 8 = scratch.getD k 0 % 2 ^ 64 ∧
            bytesGet t.mem (b + 0x4008 + 16 * k) 8 = pool.getD k 0 % 2 ^ 64))) ∧
    (m.code = 0x02 →
      (ctx = none → exec .destroyContext s = .next (ended s 1 0)) ∧
      (ctx ≠ none → m.begun = false → (s.grids.map (·.id)).Nodup → ∃ t, exec .destroyContext s = .next t ∧
        t.mailbox = { m with begun := true } ∧ ∀ g ∈ t.grids, g.context = n → g.ended = true) ∧
      (ctx ≠ none → m.begun = true → (∀ g ∈ s.grids, g.context ≠ n) → (∀ o ∈ s.ops, o.context ≠ n) →
        ∃ t, exec .destroyContext s = .next t ∧ t.mailbox = (ended s 0 0).mailbox ∧ getCtx t n = none ∧
          (∀ q ∈ t.queues, q.context ≠ n) ∧ (∀ y ∈ t.tasks, y.context ≠ n) ∧ t.mem = s.mem)) ∧
    (m.code = 0x03 → (ctx = none → exec .invalidate s = .next (ended s 1 0)) ∧
      ∀ y, ctx = some y → exec .invalidate s = .next (ended { s with oldEntries := s.oldEntries.filter (fun o =>
        !(o.1 == n && entryUsed s n a (a + b) o.2.1 4 y.root.toNat 0)) } 0 0)) ∧
    (m.code = 0x04 →
      (ctx = none ∨ 1024 ≤ a ∨ 1 < b → exec .pageAnswer s = .next (ended s 1 0)) ∧
      ∀ y p, ctx = some y → requestAt s.mem y.save a = some p → a < 1024 → b ≤ 1 →
      (s.groups.map (·.id)).Nodup → (s.ops.map (·.id)).Nodup → (s.grids.map (·.id)).Nodup →
      ∃ t, exec .pageAnswer s = .next t ∧ t.mailbox = (ended s 0 0).mailbox ∧
        (∀ g ∈ s.groups, (whoOf s g).ctx = n → g.wait.any (·.awaits p) = true → ∃ g' ∈ t.groups, g'.id = g.id ∧ g'.wait = none ∧
          (b = 0 → g' = { g with wait := none, granted := !g.rq.isEmpty }) ∧
          (b = 1 → ∃ lane, g' = { g with wait := none, pending := some { fault 0x14 p with lane := lane } })) ∧
        (∀ o ∈ s.ops, o.context = n → p ∈ o.parked ∨ (∃ y, o.asks = some y ∧ p ∈ y.1) →
          { o with parked := [], asks := none, failed := if b = 1 then p :: o.failed else o.failed } ∈ t.ops ∧
          (o.kind = .copy → .event (.copyOperationComplete o.id) ∈ t.agenda) ∧
          (o.kind = .fetch → .event (.fetchOperationComplete o.id) ∈ t.agenda)) ∧
        (∀ x ∈ s.grids, x.context = n → x.parked = some p →
          { x with parked := none, failedPages := if b = 1 then p :: x.failedPages else x.failedPages } ∈ t.grids) ∧
        (b = 0 → ∀ g ∈ s.groups, ∀ h ∈ s.groups, g.serial < h.serial →
          (∀ z ∈ [g, h], (whoOf s z).ctx = n ∧ z.wait.any (·.awaits p) = true ∧ z.rq ≠ []) →
          [Turn.run g.id, .run h.id].Sublist t.agenda)) ∧
    (m.code = 0x05 →
      let free := (List.range 512).filter (fun k => !(getCore s k).takenFrom.any (·.1 == n))
      (m.begun = false → ctx = none ∨ free.length < a → exec .preEmpt s = .next (ended s 1 0)) ∧
      (m.begun = false → (∀ y, ctx = some y → y.remap.Perm [0, 1, 2, 3]) → ctx ≠ none → a ≤ free.length →
        (∀ k, (teamsOn s n k).length ≤ 8) → ∃ t, exec .preEmpt s = .next t ∧ t.mailbox = { m with begun := true } ∧
        (chosenCores s n a).length = a ∧ ∀ k ∈ chosenCores s n a, (getCore t k).takenFrom.any (·.1 == n) = true) ∧
      (m.begun = true → (∀ t ∈ s.teams, gridCtx s t.grid = n → t.draining = true → t.saved = true) →
        exec .preEmpt s = .next (ended s 0 m.images))) ∧
    does 0x06 .returnCores (ctx ≠ none ∧ 1 ≤ a ∧ a ≤ (takenCores s n).length)
      (((takenCores s n).take a).foldl (fun s k => modCore s k (fun y => { y with
        takenFrom := (y.takenFrom.filter (fun z => z.1 != n)) })) s) ∧
    (let count := bytesGet s.mem b 4
     let ids := (List.range count).map (fun k => BitVec.ofNat 32 (bytesGet s.mem (b + 8 + 4 * k) 4))
     let us := c / 2 ^ 32
     does 0x07 .definePeerSet (ctx ≠ none ∧ a ≤ 63 ∧ 1 ≤ count ∧ count ≤ 4608 ∧ deviceBytes b (8 + 4 * count) = true ∧
         bytesGet s.mem (b + 4) 4 = 0 ∧ (us = 0 ∨ 1000 ≤ us ∧ us ≤ 4000000) ∧ Config.routeId n ∈ ids)
       (modCtx (dropOps s (setOps s n a) .host) n (fun y => { y with peers := (y.peers.filter (fun p => p.set != a)) ++ [{
         set := a, rank := ids.idxOf (Config.routeId n), members := ids, trap := decide (c % 2 = 1)
         timeout := if us = 0 then 500000 else us }] }))) ∧
    (m.code = 0x08 → (∀ g, namedGrid s a b = some g →
        exec .killGrid s = .next (ended (hostDrops (endGrids s g.id 3 0) (descendants s 11 g.id)) 0 0)) ∧
      (namedGrid s a b = none → exec .killGrid s = .next (ended s 1 0))) ∧
    (let image := bytesList s.mem b c
     does 0x09 .loadRoutingProgram (a < 4 ∧ c ≤ 512 * 1024 ∧ deviceBytes b c = true)
       { setDie s a { getDie s a with mem := bytesPut (getDie s a).mem 0x80000 image, loaded := true } with
         measures := s.measures.set 2 (shake256 (s.measures.getD 2 [] ++ shake256 image)) }) ∧
    does 0x0A .configureQueue (ctx ≠ none ∧ a < 64 ∧ 2 ≤ c ∧ c ≤ 12 ∧ b % 64 = 0 ∧ deviceBytes b (128 * 2 ^ (c % 16)) = true)
      { s with queues := (s.queues.filter (fun q => q.q != a)) ++ [{ q := a, context := n, base := b, k := c }] } ∧
    does 0x0B .epochLength (100 ≤ a ∧ a ≤ 100000) { s with epochLen := BitVec.ofNat 32 a } ∧
    does 0x0C .releaseSnapshot True { s with snapshot := { s.snapshot with held := false } } ∧
    (let signed := attestBytes s
     let out := signed ++ sized 29792 (Config.identitySign signed) ++ (List.range 29792).map Config.vendorSignature
     does 0x0D .attest (deviceBytes a 32 = true ∧ deviceBytes b out.length = true) (hostPut s (bytesAt b out)) ∧
     ∀ at_, (∃ i, i < out.length ∧ at_ = b + i) → deviceBytes b out.length = true →
       cellGet (hostPut s (bytesAt b out)).mem at_ = if padSealed s at_ then cellGet s.mem at_ else out.getD (at_ - b) 0) ∧
    (m.code = 0x0E →
      let image := bytesList s.mem a b
      (deviceBytes a b = true → exec (.reProvision (imageAccepted image)) s =
        .next (if imageAccepted image then { State.reset with flash := some image } else ended s 1 0)) ∧
      (deviceBytes a b = false → ∀ verified, exec (.reProvision verified) s = .next (ended s 1 0))) ∧
    (m.code = 0x0F → ∀ y, ctx = some y →
      let inside := ∃ base ∈ y.scratch, base ≤ a ∧ a + b ≤ base + y.scratchSize
      (a % 16 = 0 → b % 16 = 0 → inside → c ≤ 1 →
        ∃ fe, exec .setFullEmpty s = .next (ended { s with fe := fe, sync := s.sync.filter (fun z => !z.granuleIn a b) } 0 0) ∧
        ∀ k, cellGet fe k = if a / 16 ≤ k ∧ k < (a + b) / 16 then BitVec.ofNat 1 c else cellGet s.fe k) ∧
      (a % 16 ≠ 0 ∨ b % 16 ≠ 0 ∨ ¬inside ∨ 1 < c → exec .setFullEmpty s = .next (ended s 1 0)))

/-- The host's accesses. A doorbell moves a queue's tail unless it would overfill the ring, and the records that it rings follow
what the host has acquired, by reading completion words; the aperture's base keeps only its defined bits; a trigger pulls; each
also by its register. A write of go takes a command up, or says busy (also while the device boots) or invalid. A read of BAR0
gives `ident`, the device state, the base, the mailbox, and the snapshot with its header; what is reserved, and all else in state
0, is zero. An aperture read gives the bytes, all ones where nothing is backed; a write stores the bytes that are backed and not
sealed, and counts one that loses any; a reset is the state at the end of PCI Express reset, with the flash's image; an accepted
image starts the device with M0 and M1 extended, any other leaves it in recovery (08 R163, 21 R361, 25 R366 to R370, R374, R376 to
R379). What a read of a part with an error gives is free (log 30); what a rung record carries is the model's reading (log 70, DEDUCED);
accesses of 8 bytes, the go register by a write at 0x1038, other offsets ignored and a go in state 0 are the model's choice (log 13),
and so is the missed count of a new snapshot (log 37). -/
def Obligations.HostAccesses : Prop :=
  ∀ (s : State),
    (s.device ≠ 0 → ∀ q tail x, getQueue s q = some x →
      let size := 2 ^ x.k
      let new := tail.toNat % size
      let fits := (x.tail + size - x.head % size) % size + (new + size - x.tail % size) % size < size
      let t := if fits then (List.range ((new + size - x.tail % size) % size)).foldl (fun t k =>
            replaceAt t (.rung q ((x.tail + k) % size)) (released s .host)) (setQueue s { x with tail := new })
        else { s with telemetry := { s.telemetry with doorbells := s.telemetry.doorbells + 1 } }
      exec (.doorbell q tail) s = .next t ∧
      (q < 64 → ∀ value : BitVec 64, value.setWidth 32 = tail → exec (.registerWrite (0x10000 + 8 * q) value) s = .next t)) ∧
    (s.device ≠ 0 → ∀ value, ∃ base, (∀ i ∈ [Instr.apertureBaseWrite value, .registerWrite 0x10 value],
        exec i s = .next { s with aperture := base }) ∧
      ∀ k, base.getLsbD k = (decide (16 ≤ k ∧ k < 52) && value.getLsbD k)) ∧
    (s.device ≠ 0 → ∀ i ∈ [Instr.snapshotTrigger 1, .registerWrite 0x20000 1], exec i s = .next (pullTrigger s 2 0 none none)) ∧
    (s.device ≠ 0 → ∀ value : BitVec 64,
      let m := s.mailbox
      (exec (.registerWrite 0x1000 value) s =
        .next { s with mailbox := { m with code := value.setWidth 8, context := value.extractLsb' 16 16 } }) ∧
      (exec (.registerWrite 0x1008 value) s = .next { s with mailbox := { m with op0 := value } }) ∧
      (exec (.registerWrite 0x1010 value) s = .next { s with mailbox := { m with op1 := value } }) ∧
      (exec (.registerWrite 0x1018 value) s = .next { s with mailbox := { m with op2 := value } }) ∧
      (exec (.registerWrite 0x1020 value) s = .next { s with mailbox := { m with op3 := value } }) ∧
      (let legal := 1 ≤ m.code.toNat ∧ m.code.toNat ≤ 0x0F ∧ (s.device = 2 → m.code = 0x0E)
       let next : Mailbox := if m.go then { m with status := 3 }
         else if legal then { m with go := true, begun := false, images := 0 } else { m with status := 1, result := 0 }
       (value.extractLsb' 0 32 = (1 : BitVec 32) → exec (.registerWrite 0x103C value) s = .next { s with mailbox := next }) ∧
       (value.extractLsb' 32 32 = (1 : BitVec 32) → exec (.registerWrite 0x1038 value) s = .next { s with mailbox := next }))) ∧
    (∀ o value, o ≠ 0x10 → o ≠ 0x20000 → o < 0x1000 ∨ 0x1028 ≤ o → o ≠ 0x1038 → o ≠ 0x103C → o < 0x10000 ∨ 0x10200 ≤ o →
      exec (.registerWrite o value) s = .next s) ∧
    (let rd (o n : Nat) : Nat := leNat (bar0Read s o n)
     let m := s.mailbox
     let x := s.snapshot
     rd 0 8 = 0x0940 * 2 ^ 48 + (if Config.isP then 2 ^ 32 else 0) ∧ rd 8 1 = s.device.toNat ∧
     (∀ o, 9 ≤ o → s.device = 0 ∨ o < 0x10 ∨ (0x18 ≤ o ∧ o < 0x1000) ∨ (0x1040 ≤ o ∧ o < 0x20000) ∨ (0x2001C ≤ o ∧ o < 0x21000) ∨
       0x241000 ≤ o → bar0Byte s o = 0) ∧
     (s.device ≠ 0 →
       rd 0x10 8 = s.aperture.toNat ∧
       rd 0x1000 8 = m.code.toNat + m.context.toNat * 2 ^ 16 ∧ rd 0x1008 8 = m.op0.toNat ∧ rd 0x1010 8 = m.op1.toNat ∧
       rd 0x1018 8 = m.op2.toNat ∧ rd 0x1020 8 = m.op3.toNat ∧ rd 0x1028 8 = m.status.toNat ∧ rd 0x1030 8 = m.result.toNat ∧
       rd 0x1038 8 = (if m.go then 2 ^ 32 else 0) ∧
       rd 0x20000 8 = (if x.held then 2 ^ 32 else 0) ∧ rd 0x20008 4 = x.source.toNat + x.event.toNat * 2 ^ 8 + x.context.toNat * 2 ^ 16 ∧
       rd 0x2000C 4 = x.core.toNat + x.group.toNat * 2 ^ 16 ∧ rd 0x20010 4 = x.team.toNat ∧ rd 0x20014 4 = x.missed.toNat ∧
       rd 0x20018 4 = 544 ∧ ∀ o, 0x21000 ≤ o → o < 0x241000 → bar0Byte s o = cellGet x.bytes o)) ∧
    (∀ source event ctx g, s.snapshot.held = false →
      let x := (pullTrigger s source event ctx g).snapshot
      x.held = true ∧ x.source = BitVec.ofNat 8 source ∧ x.event = BitVec.ofNat 8 event ∧ x.missed = 0 ∧
      ∀ b, b < 544 → (region s ctx b).length ≤ 4096 ∧ leAt (region s ctx b) 2 2 = b ∧
        leAt (region s ctx b) 4 4 = (region s ctx b).length ∧
        ∀ i v, (region s ctx b)[i]? = some v → cellGet x.bytes (0x21000 + 4096 * b + i) = v) ∧
    (∀ core g, core < 512 → (coreGroups s core).find? (·.residency == g.residency) = some g → g.residency < 32 →
      let at_ (o n : Nat) : Nat := leAt (region s none core) (64 + 64 * g.residency + o) n
      at_ 0 1 = 1 ∧ at_ 1 1 = residencyState s g ∧ at_ 2 1 = g.index % 256 ∧ at_ 4 2 = (whoOf s g).ctx % 2 ^ 16 ∧
      at_ 16 8 = g.pc.toNat ∧ at_ 24 8 = g.em.toNat ∧ at_ 32 4 = g.mode.toNat ∧ at_ 36 1 = g.stack.length % 256 ∧
      at_ 37 1 = g.held.toNat ∧ at_ 39 1 = g.runCount % 256 ∧ at_ 41 1 = g.lastCause.toNat ∧
      (g.wait = none → at_ 48 8 = 0) ∧
      (∀ die word a, g.wait = some (.sparse die word a) ∨ g.wait = some (.luna die word a) → at_ 48 8 = a.toNat)) ∧
    (∀ offset count, offset + count ≤ 2 ^ 36 → ∃ t, exec (.hostBar2Read offset count) s = .next t ∧
      t = { s with hostData := t.hostData, access := t.access, counted := t.counted, sync := t.sync } ∧
      (∀ y, y ∈ released t .host ↔ y ∈ released s .host ∨
        ∃ r ∈ releasesRead s (fun _ => true) (.phys (s.aperture.toNat + offset)) count,
          r.mask.getLsbD 5 = true ∧ r.group = 0 ∧ y ∈ r.acquired) ∧
      t.hostData.length = count ∧ ∀ i, i < count →
        let at_ := s.aperture.toNat + offset + i
        if s.device ≠ 0 ∧ at_ < 2 ^ 52 ∧ backedByte at_ = true then
          (physBad s false at_ 1 = false → t.hostData.getD i 0 = cellGet s.mem at_)
        else t.hostData.getD i 0 = 0xFF) ∧
    (s.device ≠ 0 → ∀ offset bytes, offset + bytes.length ≤ 2 ^ 36 →
      let first := s.aperture.toNat + offset
      let lost (at_ : Nat) : Bool := !(decide (at_ < 2 ^ 52) && backedByte at_) || padSealed s at_
      let stored (at_ : Nat) : Prop := first ≤ at_ ∧ at_ < first + bytes.length ∧ lost at_ = false
      ∃ t, exec (.hostBar2Write offset bytes) s = .next t ∧
        t = { s with mem := t.mem, telemetry := t.telemetry, access := t.access, counted := t.counted, bad := t.bad
                     oldEntries := t.oldEntries, past := t.past } ∧
        (∀ at_ r y, stored at_ → r ∈ t.past → r.before (.phys at_) = some y → y = cellGet t.mem at_) ∧
        (∀ at_, (stored at_ → cellGet t.mem at_ = bytes.getD (at_ - first) 0) ∧ (¬stored at_ → cellGet t.mem at_ = cellGet s.mem at_)) ∧
        (∀ p, p ∈ t.bad ↔ p ∈ s.bad ∧ ∃ i, i < partSize p ∧ ¬stored (p + i)) ∧
        (∃ more, t.oldEntries = s.oldEntries ++ more ∧ ∀ o ∈ more, o.2.2.toNat = bytesGet s.mem o.2.1 8 ∧
          bytesGet t.mem o.2.1 8 ≠ bytesGet s.mem o.2.1 8) ∧
        t.telemetry = { s.telemetry with dropped := s.telemetry.dropped +
          if (List.range bytes.length).any (fun i => lost (first + i)) then 1 else 0 }) ∧
    exec .deviceReset s = .next { State.reset with flash := s.flash } ∧
    (s.device = 0 →
      let image := match s.flash with | some l => l | none => Config.controllerImage
      let m0 := s.measures.set 0 (shake256 (s.measures.getD 0 [] ++ shake256 image))
      exec (.imageVerified (imageAccepted image)) s = .next (if imageAccepted image then { s with
        device := 1, measures := m0.set 1 (shake256 (m0.getD 1 [] ++ shake256 Config.admiralProgram)) } else { s with device := 2 }) ∧
      (∀ q tail value, exec (.doorbell q tail) s = .next s ∧ exec (.apertureBaseWrite value) s = .next s ∧
        exec (.snapshotTrigger 1) s = .next s ∧ (∀ k, exec (.registerWrite (0x1000 + 8 * k % 40) value) s = .next s) ∧
        (value.setWidth 32 = (1 : BitVec 32) →
          exec (.registerWrite 0x103C value) s = .next { s with mailbox := { s.mailbox with status := 3 } })))

/-! ### Beneath the work -/

/-- What the device does beneath the work. An epoch's end halves every access count; every page at or above the promotion threshold
moves to HBM, in decreasing count, and for each that finds no frame the page of the lowest count at or below the demotion threshold
moves away; the promotion threshold rises where the promotions of the epoch before were fewer than four times those demoted again, and
else falls. A migration whose entry has not changed copies the page and switches its entry at once, with what translations may still
use of its old value, and otherwise is abandoned. A link's flit
is sent again at most 16 times, and then the link is out of service until it returns, recalibrated. Scrubs, telemetry, hop
timeouts, recalibrations and lengthened cycles change nothing of the work. An error in memory or in a register stays in its part;
one in logic is reported, and the words of the contexts that it reaches that wait in shared structures raise 0x50, as those do that
wait in an index unit whose queue has an error; a thermal shutdown ends every grid and leaves the device ready (04 R70, R73, R74, 13
R264, R265, 21 R361, 25 R381 to R383). That an error arises at a place by LOGIC_SOFT_ERROR and stays in its part (log 30), what waits
in a shared structure (log 48), the frames that moves find (log 22), the order of pages of one count, the measure of worse demotions
(log 56) and the counts before the halving (log 63) are the model's. -/
def Obligations.BeneathTheWork : Prop :=
  ∀ (s : State) (k : Nat),
    (Cells.wf s.access = true →
      let pages := (mappedPages s).filter (fun p => !p.pinned)
      ∃ (ups downs : List MappedPage) (t : Nat → State) (won : Nat → List Nat) (rest : Nat → List MappedPage) (back : Nat → Nat),
        ups.Perm (pages.filter (fun p => p.tier == 1 && decide (s.promote ≤ p.count s))) ∧
        ups.Pairwise (fun p q => q.count s ≤ p.count s) ∧
        downs.Perm (pages.filter (fun p => p.tier == 0 && decide (p.count s ≤ s.demote))) ∧
        downs.Pairwise (fun p q => p.count s ≤ q.count s) ∧
        t 0 = s ∧ won 0 = [] ∧ rest 0 = downs ∧ back 0 = 0 ∧
        (∀ i p, ups[i]? = some p →
          let move (p : MappedPage) (tier : Nat) : State := startMove (t i) p.context p.va tier s.tick none
          (move p 0 ≠ t i → t (i + 1) = move p 0 ∧ won (i + 1) = won i ++ [p.entryAt] ∧ rest (i + 1) = rest i ∧ back (i + 1) = back i) ∧
          (move p 0 = t i → won (i + 1) = won i ∧
            (rest i = [] → t (i + 1) = t i ∧ rest (i + 1) = [] ∧ back (i + 1) = back i) ∧
            ∀ d ds, rest i = d :: ds → t (i + 1) = move d 1 ∧ rest (i + 1) = ds ∧
              back (i + 1) = if move d 1 ≠ t i ∧ d.entryAt ∈ s.lastPromoted then back i + 1 else back i)) ∧
        let n := ups.length
        let promote := if s.promoted < 4 * back n then s.promote + 1 else s.promote - 1
        ∃ access, (∀ p, cellGet access p = (cellGet s.access p) >>> 1) ∧ exec .epochEnd s = .next { t n with
          access := access, promote := promote, demote := promote / 2, promoted := (won n).length, lastPromoted := won n }) ∧
    (∀ before m after, s.migrations = before ++ m :: after → (∀ y ∈ before, y.page ≠ k) → m.page = k →
      let s0 := { s with migrations := before ++ after }
      let e := bytesGet s.mem m.entryAt 8
      let src := e / 2 ^ 8 % 2 ^ 44 * 2 ^ 8
      (e ≠ m.old.toNat → exec (.migrationComplete k) s = .next s0) ∧
      (e = m.old.toNat → ∃ t, exec (.migrationComplete k) s = .next t ∧
        t = { s0 with mem := t.mem, access := t.access, bad := t.bad, past := t.past, oldEntries := t.oldEntries } ∧
        t.oldEntries.length = s.oldEntries.length ∧
        (∀ (j : Nat) (o : Nat × Nat × DWord), s.oldEntries[j]? = some o → ∃ o' : Nat × Nat × DWord, t.oldEntries[j]? = some o' ∧
          if o.1 = m.context ∧ o.2.1 = m.entryAt ∧ o.2.2.toNat / 2 ^ 8 % 2 ^ 44 * 2 ^ 8 = src then
            o'.1 = o.1 ∧ o'.2.1 = o.2.1 ∧ (m.dest < 2 ^ 52 → m.dest % 256 = 0 →
              o'.2.2.toNat % 2 ^ 8 = o.2.2.toNat % 2 ^ 8 ∧ o'.2.2.toNat / 2 ^ 8 % 2 ^ 44 * 2 ^ 8 = m.dest)
          else o' = o) ∧
        (∀ i, i < m.size → (m.dest + i < m.entryAt ∨ m.entryAt + 8 ≤ m.dest + i) → cellGet t.mem (m.dest + i) = cellGet s.mem (src + i)) ∧
        (∀ i, (i < m.dest ∨ m.dest + m.size ≤ i) → (i < m.entryAt ∨ m.entryAt + 8 ≤ i) → cellGet t.mem i = cellGet s.mem i) ∧
        (m.dest < 2 ^ 52 → m.dest % 256 = 0 →
          let new := bytesGet t.mem m.entryAt 8
          new % 2 ^ 8 = e % 2 ^ 8 ∧ new / 2 ^ 8 % 2 ^ 44 * 2 ^ 8 = m.dest ∧
            new / 2 ^ 58 % 4 = (backedTier m.dest m.size).getD 0))) ∧
    (∀ l, s.links[k]? = some l →
      let put (l : Link) : State := { s with links := s.links.set k l }
      (l.down = false → l.failed < 16 → ∀ ok : Bool, exec (.flitRetry ⟨k, ok⟩) s =
        .next { put { l with failed := if ok then 0 else l.failed + 1 } with
          telemetry := { s.telemetry with retries := s.telemetry.retries + 1 } }) ∧
      (l.down = false → 16 ≤ l.failed → exec (.linkOutOfService k) s = .next (put { l with down := true })) ∧
      exec (.linkRecalibration k) s = .next (put { l with recals := l.recals + 1 }) ∧
      (l.down = true → exec (.linkReturnToService k) s =
        .next (put { l with failed := 0, down := false, recals := l.recals + 1 }))) ∧
    exec (.hopTimeout k) s = .next { s with telemetry := { s.telemetry with hops := s.telemetry.hops + 1 } } ∧
    exec .patrolScrub s = .next { s with telemetry := { s.telemetry with scrubs := s.telemetry.scrubs + 1 } } ∧
    exec .telemetryTick s = .next { s with telemetry := { s.telemetry with ticks := s.telemetry.ticks + 1 } } ∧
    (k < 512 → ∀ i ∈ [Instr.voltageDroop k, .powerLimit k, .thermalStretch k],
      exec i s = .next (setCore s k { getCore s k with stretch := (getCore s k).stretch + 1 })) ∧
    (backedByte k = true → ∃ l, exec (.logicSoftError (.phys k)) s = .next { s with bad := l } ∧
      ∀ p, p ∈ l ↔ p ∈ s.bad ∨ p = k / partSize k * partSize k) ∧
    (∀ tm off, getTeam s k = some tm → off < tm.memSize → ∃ l, exec (.logicSoftError (.team k off)) s = .next (setTeam s { tm with bad := l }) ∧
      ∀ p, p ∈ l ↔ p ∈ tm.bad ∨ p = off / 8 * 8) ∧
    (∀ g code lane, getGroup s k = some g → (code < 192 ∧ lane < g.width) ∨ (192 ≤ code ∧ code < 248 ∧ lane = 0) →
      ∃ l, exec (.logicSoftError (.reg k code lane)) s = .next (setGroup s { g with badRegs := l }) ∧
        ∀ p, p ∈ l ↔ p ∈ g.badRegs ∨ p = (code, lane)) ∧
    (k < 4 → (s.groups.map (·.id)).Nodup → ∃ t, exec (.logicSoftError (.index k)) s = .next t ∧ 2 ∈ t.msix ∧ ∀ g ∈ s.groups,
      (∃ word at_, g.wait = some (.sparse k word at_)) → { g with wait := none, pending := some (fault 0x50 na64) } ∈ t.groups) ∧
    (∀ l : List Nat, (s.groups.map (·.id)).Nodup → ∃ t, exec (.logicSoftError (.logic l)) s = .next t ∧ 2 ∈ t.msix ∧
      ((∀ d ∈ s.dies, ∀ p ∈ d.packets, p.context ∉ l) → t.msix = s.msix ++ [2] ∧ t.groups = s.groups.map (fun g =>
        if (whoOf s g).ctx ∈ l ∧ inShared g = true then
          { g with wait := none, pending := some (fault 0x50 na64) } else g) ∧ t.mem = s.mem ∧ t.teams = s.teams)) ∧
    ((s.grids.map (·.id)).Nodup → ∃ t, exec .thermalShutdown s = .next t ∧ t.device = 1 ∧
      (∀ g ∈ t.grids, g.ended = true ∧ ∀ g0 ∈ s.grids, g0.id = g.id → g0.ended = false → g.status = 3) ∧
      ∀ gr ∈ s.grids, gr.ended = false → ∀ tm ∈ s.teams, tm.grid = gr.id → ∀ g ∈ t.groups, g.team ≠ tm.id)
/-! ### The machine as a whole -/

/-- A step runs the instruction that the fetched word decodes to: the word stands at the group's program counter through the
translation with Execute; a queued word runs from its entry; a word that no row decodes is the illegal instruction 0x01; a word
with an uncorrectable error raises 0x50, one that cannot be fetched its fault, or its group parks; a step without a word runs as
itself (03 R46, R53, R63, 04 R73, 08 R152, 14 R276, 21 R349, R361). Around it the step marks the group as the current one, counts
the tick and the fetch's line, and notes a result that comes late; a word that the scoreboard holds lets an earlier one finish.
Which turn the agenda holds or the tick chooses is the model's schedule (log 3). -/
def Obligations.StepRunsDecoded : Prop :=
  ∀ (s : State) (n : Nat) (g : Group) (rest : List Turn),
    let s0 := { s with agenda := rest, tick := s.tick + 1 }
    let turn (t : Turn) : Prop := s.agenda = t :: rest ∨ s.agenda = [] ∧ rest = [] ∧ chosenTurn s = some t
    (turn (.run n) → getGroup s n = some g → runnable s0 g = true →
      g.slot ≠ none ∨ (g.rq ≠ [] ∧ (g.detached = true ∨ g.granted = true)) →
      (g.rq = [] →
        let acc := mainAcc s0 (whoOf s g).ctx g.pc.toNat .execute
        (∀ p, acc = .ok p → physBad s false p 4 = false →
          let s1 := bumpAccess s0 p
          (∀ i, decodeBytes (bytesList s.mem p 4) = some (.ok i, []) →
            (scoreboardHolds s0 g i = false → step s = match exec i { s1 with cur := some g.id } with
              | .next t => .next (noteLate g i t)
              | stop => stop) ∧
            (scoreboardHolds s0 g i = true → step s = exec
              (if g.unfinished.isEmpty then .matrixOperationComplete (whoOf s g).phys else .issuedWordFinished g.id) s0)) ∧
          (∀ r, decodeBytes (bytesList s.mem p 4) = some (.error r, []) →
            step s = .next (illegalWord s1 g (BitVec.ofNat 32 (bytesGet s.mem p 4))))) ∧
        (∀ p, acc = .ok p → physBad s false p 4 = true →
          step s = .next (takeFault (signal s0 2) g (fault 0x50 g.pc.toNat) [] 0xFF g.pc g.pc)) ∧
        (∀ c, acc = .flt c → c ≠ 0x50 → c < 256 → step s = .next (takeFault s0 g (fault c g.pc.toNat) [] 0xFF g.pc g.pc)) ∧
        (∀ p, acc = .park p → step s = .next (parkFetch s0 g p))) ∧
      (∀ e es i, g.rq = e :: es → decode e.word = .ok i → step s = exec i { s0 with cur := some g.id })) ∧
    (∀ i, turn (.event i) → step s = exec i { s0 with cur := none })

/-- Words written out from the encodings of the spec decode to their instructions, and a reserved major and a word with an unused
field set decode to none (03 R46 to R51, R61, R62). -/
def Obligations.DecodedWords : Prop :=
  decode 0xE20506C3 = .ok (.add true false (.v 5) (.v 6) (.s 3)) ∧
  decode 0x68C7FFFE = .ok (.li false false (.s 7) 0xFFFE) ∧
  decode 0x3C1A0102 = .ok (.cmp false 3 2 (.v 1) (.v 2)) ∧
  decode 0x8063FFFF = .ok (.bra false 6 1 0x1FFFF) ∧
  decode 0x74204000 = .ok (.mode false 0x204000) ∧
  decode 0xA00204E1 = .ok (.aadd false false (.v 2) (.v 4) 3 0x21) ∧
  decode 0xC4010249 = .ok (.bcast false false (.v 1) (.v 2) 9) ∧
  decode 0xDC005A01 = .ok (.trap false 0x5A) ∧
  decode 0xDE000002 = .ok .rth ∧
  decode 0xCC030442 = .ok (.accr false false (.v 3) (.v 4) 2) ∧
  decode 0xD8C40B25 = .ok (.gid false false (.s 4) 11) ∧
  decode 0xC200B161 = .ok (.tlwait 5 17) ∧
  (∀ i, decode 0x00000000 ≠ .ok i) ∧ (∀ i, decode 0xFC000000 ≠ .ok i) ∧ ∀ i, decode 0xDC000100 ≠ .ok i

/-- Decoding and encoding agree: each word has at most one instruction and each instruction at most one word; every operand at
every value of its field, and no bit is dropped (03 R46 to R51, R61 to R63). -/
def Obligations.EncodeDecode : Prop :=
  (∀ (i : Instr) (w : Word), encode i = some w → decode w = .ok i) ∧
  (∀ (i : Instr) (w : Word), decode w = .ok i → encode i = some w)

/-- The machine after reset: it is booting, and holds no context, queue, grid, team, group or operation, no waiting command, no
held snapshot and no error; the measurement registers hold 32 bytes of zero, the epoch is 1 ms, and physical memory is in its
canonical form, with nothing written. The one step that happens by itself is the check of the controller's image, which leads to
the state 1 or 2 (25 R367, R370, R378, R379, R381). The measurement registers, the aperture, the thresholds and what unwritten
bytes read as are the model's choice (log 1, log 2). -/
def Obligations.ResetState : Prop :=
  let s := State.reset
  s.device = 0 ∧ s.contexts = [] ∧ s.queues = [] ∧ s.grids = [] ∧ s.teams = [] ∧ s.groups = [] ∧ s.ops = [] ∧ s.tasks = [] ∧
  s.mailbox.go = false ∧ s.snapshot.held = false ∧ s.migrations = [] ∧ s.dies.length = 4 ∧ (∀ d ∈ s.dies, d = {}) ∧
  s.epochLen = 1000 ∧ s.measures = List.replicate 4 (List.replicate 32 0) ∧ s.aperture = 0 ∧ s.mem = [] ∧ s.fe = [] ∧ s.bad = [] ∧
  (∀ l ∈ s.links, l.down = false) ∧ s.links.length = 36 ∧ MemInv s ∧
  ∃ t, step s = .next t ∧ t = { s with tick := 1, device := t.device, measures := t.measures } ∧
    t.device = (if imageAccepted Config.controllerImage then 1 else 2)

/-- Every step keeps physical memory in its canonical form: addresses strictly rising, no entry equal to what an unlisted address
reads as; so that equal memories are equal data. The form is the model's (log 1). -/
def Obligations.MemoryInvariant : Prop :=
  ∀ (s t : State), MemInv s → step s = .next t → MemInv t
end

