-- ==== Sys2Proof/Laws/Cells.lean ====
section
/-! SUPPORT. The laws of the sparse store: reading after writing, and that every operation keeps the canonical form. -/

namespace Sys2Proof.Machine

variable {w : Nat}

/-! ### Reading after writing -/

theorem cellGet_filter (p : Nat → Bool) (m : Cells w) (k : Nat) :
    cellGet (m.filter (fun e => p e.1)) k = if p k then cellGet m k else 0 := by
  induction m with
  | nil => simp [cellGet]
  | cons e m ih =>
    obtain ⟨a, x⟩ := e
    by_cases hp : p a <;> simp only [List.filter_cons, hp, cellGet, if_true, if_false, Bool.false_eq_true]
    · by_cases h : a = k
      · subst h; simp [hp]
      · simp [h, ih]
    · by_cases h : a = k
      · subst h; simp [ih, hp]
      · simp [h, ih]

theorem cellGet_cellPut (m : Cells w) (k : Nat) (x : BitVec w) (j : Nat) (hm : ∀ e ∈ m, e.1 ≠ k) :
    cellGet (cellPut m k x) j = if j = k then x else cellGet m j := by
  induction m with
  | nil =>
    by_cases h : k = j
    · subst h; simp [cellPut, cellGet]
    · have h' : ¬ j = k := fun q => h q.symm
      simp [cellPut, cellGet, h, h']
  | cons e m ih =>
    obtain ⟨a, y⟩ := e
    have ha : a ≠ k := hm (a, y) (by simp)
    have ih := ih (fun e he => hm e (by simp [he]))
    by_cases hlt : k < a
    · by_cases h : j = k
      · subst h; simp [cellPut, hlt, cellGet]
      · have h' : k ≠ j := fun q => h q.symm
        simp [cellPut, hlt, cellGet, h, h']
    · by_cases h : a = j
      · subst h; simp [cellPut, hlt, cellGet, ha]
      · simp [cellPut, hlt, cellGet, h, ih]

/-- A read after a write gives the value at the place written, and what was there before at any other. -/
theorem cellGet_cellSet (m : Cells w) (k : Nat) (x : BitVec w) (j : Nat) :
    cellGet (cellSet m k x) j = if j = k then x else cellGet m j := by
  have hf : ∀ i, cellGet (m.filter (fun e => e.1 != k)) i = if i = k then 0 else cellGet m i := by
    intro i
    have := cellGet_filter (fun a => a != k) m i
    by_cases h : i = k <;> simp_all
  by_cases hx : x = 0
  · simp only [cellSet, hx, if_true, hf]
  · simp only [cellSet, hx, if_false]
    rw [cellGet_cellPut _ _ _ _ (by simp), hf]
    by_cases h : j = k <;> simp [h]

@[simp] theorem cellGet_cellSet_self (m : Cells w) (k : Nat) (x : BitVec w) : cellGet (cellSet m k x) k = x := by
  simp [cellGet_cellSet]

theorem cellGet_cellSet_other (m : Cells w) {k j : Nat} (x : BitVec w) (h : j ≠ k) :
    cellGet (cellSet m k x) j = cellGet m j := by simp [cellGet_cellSet, h]

theorem cellGet_cellClear (m : Cells w) (lo n k : Nat) :
    cellGet (cellClear m lo n) k = if lo ≤ k ∧ k < lo + n then 0 else cellGet m k := by
  rw [cellClear, cellGet_filter (fun k => !(decide (lo ≤ k) && decide (k < lo + n)))]
  by_cases h : lo ≤ k ∧ k < lo + n <;> simp [h]

theorem cellGet_cellFilter (p : Nat → Bool) (m : Cells w) (k : Nat) :
    cellGet (cellFilter p m) k = if p k then cellGet m k else 0 := cellGet_filter p m k

theorem cellGet_append (a b : Cells w) (k : Nat) (h : ∀ e ∈ a, e.1 ≠ k) : cellGet (a ++ b) k = cellGet b k := by
  induction a with
  | nil => rfl
  | cons e a ih =>
    obtain ⟨i, x⟩ := e
    have hi : i ≠ k := h (i, x) (by simp)
    simpa [cellGet, hi] using ih (fun e he => h e (by simp [he]))

theorem cellGet_filterMap (f : Nat → BitVec w) (l : List Nat) (k : Nat) :
    cellGet (l.filterMap (fun i => if f i = 0#w then none else some (i, f i))) k = if k ∈ l then f k else 0#w := by
  induction l with
  | nil => simp [cellGet]
  | cons a l ih =>
    by_cases ha : f a = 0#w
    · rw [List.filterMap_cons_none (by simp [ha]), ih]
      by_cases h : k = a
      · subst h; simp [ha]
      · simp [h]
    · rw [List.filterMap_cons_some (b := (a, f a)) (by simp [ha]), cellGet, ih]
      by_cases h : a = k
      · subst h; simp
      · have h' : ¬ k = a := fun q => h q.symm
        simp [h, h']

theorem cellGet_cellsOf (n : Nat) (f : Nat → Nat) (k : Nat) :
    cellGet (cellsOf w n f) k = if k < n then BitVec.ofNat w (f k) else 0 := by
  have := cellGet_filterMap (fun i => BitVec.ofNat w (f i)) (List.range n) k
  simpa [cellsOf] using this

/-- A write of several bytes leaves every byte outside them alone. -/
theorem cellGet_bytesSet_other (n : Nat) : ∀ (m : Cells 8) (a x k : Nat), k < a ∨ a + n ≤ k →
    cellGet (bytesSet m a n x) k = cellGet m k := by
  induction n with
  | zero => intros; rfl
  | succ n ih =>
    intro m a x k h
    rw [bytesSet, ih _ _ _ _ (by omega), cellGet_cellSet_other _ _ (by omega)]

theorem bytesGet_bytesSet_other (n : Nat) : ∀ (m : Cells 8) (a x b k : Nat), b + k ≤ a ∨ a + n ≤ b →
    bytesGet (bytesSet m a n x) b k = bytesGet m b k := by
  intro m a x b k
  induction k generalizing b with
  | zero => intros; rfl
  | succ k ih =>
    intro h
    rw [bytesGet, bytesGet, cellGet_bytesSet_other _ _ _ _ _ (by omega), ih (b + 1) (by omega)]

/-- What was stored reads back. -/
theorem bytesGet_bytesSet_self (n : Nat) : ∀ (m : Cells 8) (a x : Nat),
    bytesGet (bytesSet m a n x) a n = x % 256 ^ n := by
  induction n with
  | zero => intro m a x; simp [bytesGet, Nat.mod_one]
  | succ n ih =>
    intro m a x
    rw [bytesGet, bytesSet, ih, cellGet_bytesSet_other _ _ _ _ _ (by omega)]
    rw [cellGet_cellSet_self, BitVec.toNat_ofNat]
    have h : (256 : Nat) ^ (n + 1) = 256 * 256 ^ n := Nat.pow_succ'
    rw [h, Nat.mod_mul (a := 256)]

theorem getD_putAt {α : Type} (d : α) (l : List α) (k : Nat) (x : α) (j : Nat) :
    (putAt d l k x).getD j d = if j = k then x else l.getD j d := by
  induction l generalizing k j with
  | nil =>
    induction k generalizing j with
    | zero => cases j <;> simp [putAt]
    | succ k ih =>
      cases j with
      | zero => simp [putAt]
      | succ j => simpa [putAt] using ih j
  | cons y l ih =>
    cases k with
    | zero => cases j <;> simp [putAt]
    | succ k =>
      cases j with
      | zero => simp [putAt]
      | succ j => simpa [putAt] using ih k j

/-! ### The canonical form -/

/-- The form in words of the library: keys strictly rising, no zero value. -/
theorem Cells.wf_iff (m : Cells w) : Cells.wf m = true ↔ m.Pairwise (fun a b => a.1 < b.1) ∧ ∀ e ∈ m, e.2 ≠ 0 := by
  induction m with
  | nil => simp [Cells.wf]
  | cons e m ih =>
    obtain ⟨k, x⟩ := e
    cases m with
    | nil => simp [Cells.wf]
    | cons e' m =>
      obtain ⟨k', x'⟩ := e'
      rw [Cells.wf]
      simp only [Bool.and_eq_true, bne_iff_ne, ne_eq, decide_eq_true_eq, ih]
      constructor
      · rintro ⟨⟨hx, hk⟩, hp, hz⟩
        refine ⟨List.pairwise_cons.2 ⟨?_, hp⟩, ?_⟩
        · intro e he
          rcases List.mem_cons.1 he with rfl | he
          · exact hk
          · exact Nat.lt_trans hk ((List.pairwise_cons.1 hp).1 e he)
        · intro e he
          rcases List.mem_cons.1 he with rfl | he
          · exact hx
          · exact hz e he
      · rintro ⟨hp, hz⟩
        have hp' := List.pairwise_cons.1 hp
        exact ⟨⟨hz (k, x) (by simp), hp'.1 (k', x') (by simp)⟩, hp'.2, fun e he => hz e (by simp [he])⟩

theorem wf_filter (p : Nat × BitVec w → Bool) {m : Cells w} (h : Cells.wf m = true) : Cells.wf (m.filter p) = true := by
  rw [Cells.wf_iff] at *
  exact ⟨h.1.filter p, fun e he => h.2 e (List.mem_filter.1 he).1⟩

theorem mem_cellPut (m : Cells w) (k : Nat) (x : BitVec w) (e : Nat × BitVec w) :
    e ∈ cellPut m k x ↔ e = (k, x) ∨ e ∈ m := by
  induction m with
  | nil => simp [cellPut]
  | cons y m ih =>
    obtain ⟨a, b⟩ := y
    by_cases h : k < a
    · simp [cellPut, h]
    · simp only [cellPut, h, if_false, List.mem_cons, ih]
      constructor
      · rintro (h | h | h) <;> simp [h]
      · rintro (h | h | h) <;> simp [h]

theorem wf_cellPut {m : Cells w} {k : Nat} {x : BitVec w} (hx : x ≠ 0) (hk : ∀ e ∈ m, e.1 ≠ k)
    (h : Cells.wf m = true) : Cells.wf (cellPut m k x) = true := by
  rw [Cells.wf_iff] at *
  refine ⟨?_, fun e he => ?_⟩
  · induction m with
    | nil => simp [cellPut]
    | cons y m ih =>
      obtain ⟨a, b⟩ := y
      have hp := List.pairwise_cons.1 h.1
      have hak : a ≠ k := hk (a, b) (by simp)
      by_cases hlt : k < a
      · simp only [cellPut, hlt, if_true]
        refine List.pairwise_cons.2 ⟨?_, h.1⟩
        intro e he
        rcases List.mem_cons.1 he with rfl | he
        · exact hlt
        · exact Nat.lt_trans hlt (hp.1 e he)
      · simp only [cellPut, hlt, if_false]
        refine List.pairwise_cons.2 ⟨?_, ih (fun e he => hk e (by simp [he])) ⟨hp.2, fun e he => h.2 e (by simp [he])⟩⟩
        intro e he
        rcases (mem_cellPut m k x e).1 he with rfl | he
        · exact Nat.lt_of_le_of_ne (Nat.le_of_not_lt hlt) hak
        · exact hp.1 e he
  · rcases (mem_cellPut m k x e).1 he with rfl | he
    · exact hx
    · exact h.2 e he

theorem wf_cellSet {m : Cells w} (k : Nat) (x : BitVec w) (h : Cells.wf m = true) : Cells.wf (cellSet m k x) = true := by
  have hf : Cells.wf (m.filter (fun e => e.1 != k)) = true := wf_filter _ h
  by_cases hx : x = 0
  · simpa [cellSet, hx] using hf
  · simp only [cellSet, hx, if_false]
    exact wf_cellPut hx (by simp) hf

theorem wf_cellFilter (p : Nat → Bool) {m : Cells w} (h : Cells.wf m = true) : Cells.wf (cellFilter p m) = true :=
  wf_filter _ h

theorem wf_cellClear {m : Cells w} (lo n : Nat) (h : Cells.wf m = true) : Cells.wf (cellClear m lo n) = true := wf_filter _ h

theorem wf_cellSetAll (l : List (Nat × BitVec w)) : ∀ {m : Cells w}, Cells.wf m = true → Cells.wf (cellSetAll m l) = true := by
  induction l with
  | nil => intro m h; exact h
  | cons e l ih => intro m h; exact ih (wf_cellSet e.1 e.2 h)

theorem wf_bytesSet (n : Nat) : ∀ {m : Cells 8} (a x : Nat), Cells.wf m = true → Cells.wf (bytesSet m a n x) = true := by
  induction n with
  | zero => intro m a x h; exact h
  | succ n ih => intro m a x h; exact ih _ _ (wf_cellSet _ _ h)

theorem wf_bytesPut (l : List Byte) : ∀ {m : Cells 8} (a : Nat), Cells.wf m = true → Cells.wf (bytesPut m a l) = true := by
  induction l with
  | nil => intro m a h; exact h
  | cons b l ih => intro m a h; exact ih _ (wf_cellSet _ _ h)

end Sys2Proof.Machine
end

