-- ==== Sys2Proof/Laws/State.lean ====
section
/-! SUPPORT. One lemma for each field and each named update of the state, so that no proof unfolds an update; and reading a
table after writing it. -/

namespace Sys2Proof.Machine

/-! ### Fields that an update leaves alone -/

@[simp] theorem setGroup_flash (s : State) (x : Group) : (setGroup s x).flash = s.flash := rfl
@[simp] theorem setGroup_device (s : State) (x : Group) : (setGroup s x).device = s.device := rfl
@[simp] theorem setGroup_aperture (s : State) (x : Group) : (setGroup s x).aperture = s.aperture := rfl
@[simp] theorem setGroup_mailbox (s : State) (x : Group) : (setGroup s x).mailbox = s.mailbox := rfl
@[simp] theorem setGroup_mem (s : State) (x : Group) : (setGroup s x).mem = s.mem := rfl
@[simp] theorem setGroup_fe (s : State) (x : Group) : (setGroup s x).fe = s.fe := rfl
@[simp] theorem setGroup_bad (s : State) (x : Group) : (setGroup s x).bad = s.bad := rfl
@[simp] theorem setGroup_oldEntries (s : State) (x : Group) : (setGroup s x).oldEntries = s.oldEntries := rfl
@[simp] theorem setGroup_past (s : State) (x : Group) : (setGroup s x).past = s.past := rfl
@[simp] theorem setGroup_age (s : State) (x : Group) : (setGroup s x).age = s.age := rfl
@[simp] theorem setGroup_sync (s : State) (x : Group) : (setGroup s x).sync = s.sync := rfl
@[simp] theorem setGroup_queues (s : State) (x : Group) : (setGroup s x).queues = s.queues := rfl
@[simp] theorem setGroup_rrNext (s : State) (x : Group) : (setGroup s x).rrNext = s.rrNext := rfl
@[simp] theorem setGroup_snapshot (s : State) (x : Group) : (setGroup s x).snapshot = s.snapshot := rfl
@[simp] theorem setGroup_measures (s : State) (x : Group) : (setGroup s x).measures = s.measures := rfl
@[simp] theorem setGroup_epochLen (s : State) (x : Group) : (setGroup s x).epochLen = s.epochLen := rfl
@[simp] theorem setGroup_access (s : State) (x : Group) : (setGroup s x).access = s.access := rfl
@[simp] theorem setGroup_counted (s : State) (x : Group) : (setGroup s x).counted = s.counted := rfl
@[simp] theorem setGroup_promote (s : State) (x : Group) : (setGroup s x).promote = s.promote := rfl
@[simp] theorem setGroup_demote (s : State) (x : Group) : (setGroup s x).demote = s.demote := rfl
@[simp] theorem setGroup_promoted (s : State) (x : Group) : (setGroup s x).promoted = s.promoted := rfl
@[simp] theorem setGroup_lastPromoted (s : State) (x : Group) : (setGroup s x).lastPromoted = s.lastPromoted := rfl
@[simp] theorem setGroup_migrations (s : State) (x : Group) : (setGroup s x).migrations = s.migrations := rfl
@[simp] theorem setGroup_links (s : State) (x : Group) : (setGroup s x).links = s.links := rfl
@[simp] theorem setGroup_telemetry (s : State) (x : Group) : (setGroup s x).telemetry = s.telemetry := rfl
@[simp] theorem setGroup_msix (s : State) (x : Group) : (setGroup s x).msix = s.msix := rfl
@[simp] theorem setGroup_hostData (s : State) (x : Group) : (setGroup s x).hostData = s.hostData := rfl
@[simp] theorem setGroup_contexts (s : State) (x : Group) : (setGroup s x).contexts = s.contexts := rfl
@[simp] theorem setGroup_dies (s : State) (x : Group) : (setGroup s x).dies = s.dies := rfl
@[simp] theorem setGroup_tasks (s : State) (x : Group) : (setGroup s x).tasks = s.tasks := rfl
@[simp] theorem setGroup_cores (s : State) (x : Group) : (setGroup s x).cores = s.cores := rfl
@[simp] theorem setGroup_grids (s : State) (x : Group) : (setGroup s x).grids = s.grids := rfl
@[simp] theorem setGroup_teams (s : State) (x : Group) : (setGroup s x).teams = s.teams := rfl
@[simp] theorem setGroup_ops (s : State) (x : Group) : (setGroup s x).ops = s.ops := rfl
@[simp] theorem setGroup_agenda (s : State) (x : Group) : (setGroup s x).agenda = s.agenda := rfl
@[simp] theorem setGroup_cur (s : State) (x : Group) : (setGroup s x).cur = s.cur := rfl
@[simp] theorem setGroup_tick (s : State) (x : Group) : (setGroup s x).tick = s.tick := rfl
@[simp] theorem setGroup_nextId (s : State) (x : Group) : (setGroup s x).nextId = s.nextId := rfl
theorem setGroup_only (s : State) (x : Group) : setGroup s x = { s with groups := (setGroup s x).groups } := rfl

@[simp] theorem setTeam_flash (s : State) (x : Team) : (setTeam s x).flash = s.flash := rfl
@[simp] theorem setTeam_device (s : State) (x : Team) : (setTeam s x).device = s.device := rfl
@[simp] theorem setTeam_aperture (s : State) (x : Team) : (setTeam s x).aperture = s.aperture := rfl
@[simp] theorem setTeam_mailbox (s : State) (x : Team) : (setTeam s x).mailbox = s.mailbox := rfl
@[simp] theorem setTeam_mem (s : State) (x : Team) : (setTeam s x).mem = s.mem := rfl
@[simp] theorem setTeam_fe (s : State) (x : Team) : (setTeam s x).fe = s.fe := rfl
@[simp] theorem setTeam_bad (s : State) (x : Team) : (setTeam s x).bad = s.bad := rfl
@[simp] theorem setTeam_oldEntries (s : State) (x : Team) : (setTeam s x).oldEntries = s.oldEntries := rfl
@[simp] theorem setTeam_past (s : State) (x : Team) : (setTeam s x).past = s.past := rfl
@[simp] theorem setTeam_age (s : State) (x : Team) : (setTeam s x).age = s.age := rfl
@[simp] theorem setTeam_sync (s : State) (x : Team) : (setTeam s x).sync = s.sync := rfl
@[simp] theorem setTeam_queues (s : State) (x : Team) : (setTeam s x).queues = s.queues := rfl
@[simp] theorem setTeam_rrNext (s : State) (x : Team) : (setTeam s x).rrNext = s.rrNext := rfl
@[simp] theorem setTeam_snapshot (s : State) (x : Team) : (setTeam s x).snapshot = s.snapshot := rfl
@[simp] theorem setTeam_measures (s : State) (x : Team) : (setTeam s x).measures = s.measures := rfl
@[simp] theorem setTeam_epochLen (s : State) (x : Team) : (setTeam s x).epochLen = s.epochLen := rfl
@[simp] theorem setTeam_access (s : State) (x : Team) : (setTeam s x).access = s.access := rfl
@[simp] theorem setTeam_counted (s : State) (x : Team) : (setTeam s x).counted = s.counted := rfl
@[simp] theorem setTeam_promote (s : State) (x : Team) : (setTeam s x).promote = s.promote := rfl
@[simp] theorem setTeam_demote (s : State) (x : Team) : (setTeam s x).demote = s.demote := rfl
@[simp] theorem setTeam_promoted (s : State) (x : Team) : (setTeam s x).promoted = s.promoted := rfl
@[simp] theorem setTeam_lastPromoted (s : State) (x : Team) : (setTeam s x).lastPromoted = s.lastPromoted := rfl
@[simp] theorem setTeam_migrations (s : State) (x : Team) : (setTeam s x).migrations = s.migrations := rfl
@[simp] theorem setTeam_links (s : State) (x : Team) : (setTeam s x).links = s.links := rfl
@[simp] theorem setTeam_telemetry (s : State) (x : Team) : (setTeam s x).telemetry = s.telemetry := rfl
@[simp] theorem setTeam_msix (s : State) (x : Team) : (setTeam s x).msix = s.msix := rfl
@[simp] theorem setTeam_hostData (s : State) (x : Team) : (setTeam s x).hostData = s.hostData := rfl
@[simp] theorem setTeam_contexts (s : State) (x : Team) : (setTeam s x).contexts = s.contexts := rfl
@[simp] theorem setTeam_dies (s : State) (x : Team) : (setTeam s x).dies = s.dies := rfl
@[simp] theorem setTeam_tasks (s : State) (x : Team) : (setTeam s x).tasks = s.tasks := rfl
@[simp] theorem setTeam_cores (s : State) (x : Team) : (setTeam s x).cores = s.cores := rfl
@[simp] theorem setTeam_grids (s : State) (x : Team) : (setTeam s x).grids = s.grids := rfl
@[simp] theorem setTeam_groups (s : State) (x : Team) : (setTeam s x).groups = s.groups := rfl
@[simp] theorem setTeam_ops (s : State) (x : Team) : (setTeam s x).ops = s.ops := rfl
@[simp] theorem setTeam_agenda (s : State) (x : Team) : (setTeam s x).agenda = s.agenda := rfl
@[simp] theorem setTeam_cur (s : State) (x : Team) : (setTeam s x).cur = s.cur := rfl
@[simp] theorem setTeam_tick (s : State) (x : Team) : (setTeam s x).tick = s.tick := rfl
@[simp] theorem setTeam_nextId (s : State) (x : Team) : (setTeam s x).nextId = s.nextId := rfl
theorem setTeam_only (s : State) (x : Team) : setTeam s x = { s with teams := (setTeam s x).teams } := rfl

@[simp] theorem setGrid_flash (s : State) (x : Grid) : (setGrid s x).flash = s.flash := rfl
@[simp] theorem setGrid_device (s : State) (x : Grid) : (setGrid s x).device = s.device := rfl
@[simp] theorem setGrid_aperture (s : State) (x : Grid) : (setGrid s x).aperture = s.aperture := rfl
@[simp] theorem setGrid_mailbox (s : State) (x : Grid) : (setGrid s x).mailbox = s.mailbox := rfl
@[simp] theorem setGrid_mem (s : State) (x : Grid) : (setGrid s x).mem = s.mem := rfl
@[simp] theorem setGrid_fe (s : State) (x : Grid) : (setGrid s x).fe = s.fe := rfl
@[simp] theorem setGrid_bad (s : State) (x : Grid) : (setGrid s x).bad = s.bad := rfl
@[simp] theorem setGrid_oldEntries (s : State) (x : Grid) : (setGrid s x).oldEntries = s.oldEntries := rfl
@[simp] theorem setGrid_past (s : State) (x : Grid) : (setGrid s x).past = s.past := rfl
@[simp] theorem setGrid_age (s : State) (x : Grid) : (setGrid s x).age = s.age := rfl
@[simp] theorem setGrid_sync (s : State) (x : Grid) : (setGrid s x).sync = s.sync := rfl
@[simp] theorem setGrid_queues (s : State) (x : Grid) : (setGrid s x).queues = s.queues := rfl
@[simp] theorem setGrid_rrNext (s : State) (x : Grid) : (setGrid s x).rrNext = s.rrNext := rfl
@[simp] theorem setGrid_snapshot (s : State) (x : Grid) : (setGrid s x).snapshot = s.snapshot := rfl
@[simp] theorem setGrid_measures (s : State) (x : Grid) : (setGrid s x).measures = s.measures := rfl
@[simp] theorem setGrid_epochLen (s : State) (x : Grid) : (setGrid s x).epochLen = s.epochLen := rfl
@[simp] theorem setGrid_access (s : State) (x : Grid) : (setGrid s x).access = s.access := rfl
@[simp] theorem setGrid_counted (s : State) (x : Grid) : (setGrid s x).counted = s.counted := rfl
@[simp] theorem setGrid_promote (s : State) (x : Grid) : (setGrid s x).promote = s.promote := rfl
@[simp] theorem setGrid_demote (s : State) (x : Grid) : (setGrid s x).demote = s.demote := rfl
@[simp] theorem setGrid_promoted (s : State) (x : Grid) : (setGrid s x).promoted = s.promoted := rfl
@[simp] theorem setGrid_lastPromoted (s : State) (x : Grid) : (setGrid s x).lastPromoted = s.lastPromoted := rfl
@[simp] theorem setGrid_migrations (s : State) (x : Grid) : (setGrid s x).migrations = s.migrations := rfl
@[simp] theorem setGrid_links (s : State) (x : Grid) : (setGrid s x).links = s.links := rfl
@[simp] theorem setGrid_telemetry (s : State) (x : Grid) : (setGrid s x).telemetry = s.telemetry := rfl
@[simp] theorem setGrid_msix (s : State) (x : Grid) : (setGrid s x).msix = s.msix := rfl
@[simp] theorem setGrid_hostData (s : State) (x : Grid) : (setGrid s x).hostData = s.hostData := rfl
@[simp] theorem setGrid_contexts (s : State) (x : Grid) : (setGrid s x).contexts = s.contexts := rfl
@[simp] theorem setGrid_dies (s : State) (x : Grid) : (setGrid s x).dies = s.dies := rfl
@[simp] theorem setGrid_tasks (s : State) (x : Grid) : (setGrid s x).tasks = s.tasks := rfl
@[simp] theorem setGrid_cores (s : State) (x : Grid) : (setGrid s x).cores = s.cores := rfl
@[simp] theorem setGrid_teams (s : State) (x : Grid) : (setGrid s x).teams = s.teams := rfl
@[simp] theorem setGrid_groups (s : State) (x : Grid) : (setGrid s x).groups = s.groups := rfl
@[simp] theorem setGrid_ops (s : State) (x : Grid) : (setGrid s x).ops = s.ops := rfl
@[simp] theorem setGrid_agenda (s : State) (x : Grid) : (setGrid s x).agenda = s.agenda := rfl
@[simp] theorem setGrid_cur (s : State) (x : Grid) : (setGrid s x).cur = s.cur := rfl
@[simp] theorem setGrid_tick (s : State) (x : Grid) : (setGrid s x).tick = s.tick := rfl
@[simp] theorem setGrid_nextId (s : State) (x : Grid) : (setGrid s x).nextId = s.nextId := rfl
theorem setGrid_only (s : State) (x : Grid) : setGrid s x = { s with grids := (setGrid s x).grids } := rfl

@[simp] theorem setCtx_flash (s : State) (x : Context) : (setCtx s x).flash = s.flash := rfl
@[simp] theorem setCtx_device (s : State) (x : Context) : (setCtx s x).device = s.device := rfl
@[simp] theorem setCtx_aperture (s : State) (x : Context) : (setCtx s x).aperture = s.aperture := rfl
@[simp] theorem setCtx_mailbox (s : State) (x : Context) : (setCtx s x).mailbox = s.mailbox := rfl
@[simp] theorem setCtx_mem (s : State) (x : Context) : (setCtx s x).mem = s.mem := rfl
@[simp] theorem setCtx_fe (s : State) (x : Context) : (setCtx s x).fe = s.fe := rfl
@[simp] theorem setCtx_bad (s : State) (x : Context) : (setCtx s x).bad = s.bad := rfl
@[simp] theorem setCtx_oldEntries (s : State) (x : Context) : (setCtx s x).oldEntries = s.oldEntries := rfl
@[simp] theorem setCtx_past (s : State) (x : Context) : (setCtx s x).past = s.past := rfl
@[simp] theorem setCtx_age (s : State) (x : Context) : (setCtx s x).age = s.age := rfl
@[simp] theorem setCtx_sync (s : State) (x : Context) : (setCtx s x).sync = s.sync := rfl
@[simp] theorem setCtx_queues (s : State) (x : Context) : (setCtx s x).queues = s.queues := rfl
@[simp] theorem setCtx_rrNext (s : State) (x : Context) : (setCtx s x).rrNext = s.rrNext := rfl
@[simp] theorem setCtx_snapshot (s : State) (x : Context) : (setCtx s x).snapshot = s.snapshot := rfl
@[simp] theorem setCtx_measures (s : State) (x : Context) : (setCtx s x).measures = s.measures := rfl
@[simp] theorem setCtx_epochLen (s : State) (x : Context) : (setCtx s x).epochLen = s.epochLen := rfl
@[simp] theorem setCtx_access (s : State) (x : Context) : (setCtx s x).access = s.access := rfl
@[simp] theorem setCtx_counted (s : State) (x : Context) : (setCtx s x).counted = s.counted := rfl
@[simp] theorem setCtx_promote (s : State) (x : Context) : (setCtx s x).promote = s.promote := rfl
@[simp] theorem setCtx_demote (s : State) (x : Context) : (setCtx s x).demote = s.demote := rfl
@[simp] theorem setCtx_promoted (s : State) (x : Context) : (setCtx s x).promoted = s.promoted := rfl
@[simp] theorem setCtx_lastPromoted (s : State) (x : Context) : (setCtx s x).lastPromoted = s.lastPromoted := rfl
@[simp] theorem setCtx_migrations (s : State) (x : Context) : (setCtx s x).migrations = s.migrations := rfl
@[simp] theorem setCtx_links (s : State) (x : Context) : (setCtx s x).links = s.links := rfl
@[simp] theorem setCtx_telemetry (s : State) (x : Context) : (setCtx s x).telemetry = s.telemetry := rfl
@[simp] theorem setCtx_msix (s : State) (x : Context) : (setCtx s x).msix = s.msix := rfl
@[simp] theorem setCtx_hostData (s : State) (x : Context) : (setCtx s x).hostData = s.hostData := rfl
@[simp] theorem setCtx_dies (s : State) (x : Context) : (setCtx s x).dies = s.dies := rfl
@[simp] theorem setCtx_tasks (s : State) (x : Context) : (setCtx s x).tasks = s.tasks := rfl
@[simp] theorem setCtx_cores (s : State) (x : Context) : (setCtx s x).cores = s.cores := rfl
@[simp] theorem setCtx_grids (s : State) (x : Context) : (setCtx s x).grids = s.grids := rfl
@[simp] theorem setCtx_teams (s : State) (x : Context) : (setCtx s x).teams = s.teams := rfl
@[simp] theorem setCtx_groups (s : State) (x : Context) : (setCtx s x).groups = s.groups := rfl
@[simp] theorem setCtx_ops (s : State) (x : Context) : (setCtx s x).ops = s.ops := rfl
@[simp] theorem setCtx_agenda (s : State) (x : Context) : (setCtx s x).agenda = s.agenda := rfl
@[simp] theorem setCtx_cur (s : State) (x : Context) : (setCtx s x).cur = s.cur := rfl
@[simp] theorem setCtx_tick (s : State) (x : Context) : (setCtx s x).tick = s.tick := rfl
@[simp] theorem setCtx_nextId (s : State) (x : Context) : (setCtx s x).nextId = s.nextId := rfl
theorem setCtx_only (s : State) (x : Context) : setCtx s x = { s with contexts := (setCtx s x).contexts } := rfl

@[simp] theorem setOp_flash (s : State) (x : EngineOp) : (setOp s x).flash = s.flash := rfl
@[simp] theorem setOp_device (s : State) (x : EngineOp) : (setOp s x).device = s.device := rfl
@[simp] theorem setOp_aperture (s : State) (x : EngineOp) : (setOp s x).aperture = s.aperture := rfl
@[simp] theorem setOp_mailbox (s : State) (x : EngineOp) : (setOp s x).mailbox = s.mailbox := rfl
@[simp] theorem setOp_mem (s : State) (x : EngineOp) : (setOp s x).mem = s.mem := rfl
@[simp] theorem setOp_fe (s : State) (x : EngineOp) : (setOp s x).fe = s.fe := rfl
@[simp] theorem setOp_bad (s : State) (x : EngineOp) : (setOp s x).bad = s.bad := rfl
@[simp] theorem setOp_oldEntries (s : State) (x : EngineOp) : (setOp s x).oldEntries = s.oldEntries := rfl
@[simp] theorem setOp_past (s : State) (x : EngineOp) : (setOp s x).past = s.past := rfl
@[simp] theorem setOp_age (s : State) (x : EngineOp) : (setOp s x).age = s.age := rfl
@[simp] theorem setOp_sync (s : State) (x : EngineOp) : (setOp s x).sync = s.sync := rfl
@[simp] theorem setOp_queues (s : State) (x : EngineOp) : (setOp s x).queues = s.queues := rfl
@[simp] theorem setOp_rrNext (s : State) (x : EngineOp) : (setOp s x).rrNext = s.rrNext := rfl
@[simp] theorem setOp_snapshot (s : State) (x : EngineOp) : (setOp s x).snapshot = s.snapshot := rfl
@[simp] theorem setOp_measures (s : State) (x : EngineOp) : (setOp s x).measures = s.measures := rfl
@[simp] theorem setOp_epochLen (s : State) (x : EngineOp) : (setOp s x).epochLen = s.epochLen := rfl
@[simp] theorem setOp_access (s : State) (x : EngineOp) : (setOp s x).access = s.access := rfl
@[simp] theorem setOp_counted (s : State) (x : EngineOp) : (setOp s x).counted = s.counted := rfl
@[simp] theorem setOp_promote (s : State) (x : EngineOp) : (setOp s x).promote = s.promote := rfl
@[simp] theorem setOp_demote (s : State) (x : EngineOp) : (setOp s x).demote = s.demote := rfl
@[simp] theorem setOp_promoted (s : State) (x : EngineOp) : (setOp s x).promoted = s.promoted := rfl
@[simp] theorem setOp_lastPromoted (s : State) (x : EngineOp) : (setOp s x).lastPromoted = s.lastPromoted := rfl
@[simp] theorem setOp_migrations (s : State) (x : EngineOp) : (setOp s x).migrations = s.migrations := rfl
@[simp] theorem setOp_links (s : State) (x : EngineOp) : (setOp s x).links = s.links := rfl
@[simp] theorem setOp_telemetry (s : State) (x : EngineOp) : (setOp s x).telemetry = s.telemetry := rfl
@[simp] theorem setOp_msix (s : State) (x : EngineOp) : (setOp s x).msix = s.msix := rfl
@[simp] theorem setOp_hostData (s : State) (x : EngineOp) : (setOp s x).hostData = s.hostData := rfl
@[simp] theorem setOp_contexts (s : State) (x : EngineOp) : (setOp s x).contexts = s.contexts := rfl
@[simp] theorem setOp_dies (s : State) (x : EngineOp) : (setOp s x).dies = s.dies := rfl
@[simp] theorem setOp_tasks (s : State) (x : EngineOp) : (setOp s x).tasks = s.tasks := rfl
@[simp] theorem setOp_cores (s : State) (x : EngineOp) : (setOp s x).cores = s.cores := rfl
@[simp] theorem setOp_grids (s : State) (x : EngineOp) : (setOp s x).grids = s.grids := rfl
@[simp] theorem setOp_teams (s : State) (x : EngineOp) : (setOp s x).teams = s.teams := rfl
@[simp] theorem setOp_groups (s : State) (x : EngineOp) : (setOp s x).groups = s.groups := rfl
@[simp] theorem setOp_agenda (s : State) (x : EngineOp) : (setOp s x).agenda = s.agenda := rfl
@[simp] theorem setOp_cur (s : State) (x : EngineOp) : (setOp s x).cur = s.cur := rfl
@[simp] theorem setOp_tick (s : State) (x : EngineOp) : (setOp s x).tick = s.tick := rfl
@[simp] theorem setOp_nextId (s : State) (x : EngineOp) : (setOp s x).nextId = s.nextId := rfl
theorem setOp_only (s : State) (x : EngineOp) : setOp s x = { s with ops := (setOp s x).ops } := rfl

@[simp] theorem setCore_flash (s : State) (c : Nat) (x : Core) : (setCore s c x).flash = s.flash := rfl
@[simp] theorem setCore_device (s : State) (c : Nat) (x : Core) : (setCore s c x).device = s.device := rfl
@[simp] theorem setCore_aperture (s : State) (c : Nat) (x : Core) : (setCore s c x).aperture = s.aperture := rfl
@[simp] theorem setCore_mailbox (s : State) (c : Nat) (x : Core) : (setCore s c x).mailbox = s.mailbox := rfl
@[simp] theorem setCore_mem (s : State) (c : Nat) (x : Core) : (setCore s c x).mem = s.mem := rfl
@[simp] theorem setCore_fe (s : State) (c : Nat) (x : Core) : (setCore s c x).fe = s.fe := rfl
@[simp] theorem setCore_bad (s : State) (c : Nat) (x : Core) : (setCore s c x).bad = s.bad := rfl
@[simp] theorem setCore_oldEntries (s : State) (c : Nat) (x : Core) : (setCore s c x).oldEntries = s.oldEntries := rfl
@[simp] theorem setCore_past (s : State) (c : Nat) (x : Core) : (setCore s c x).past = s.past := rfl
@[simp] theorem setCore_age (s : State) (c : Nat) (x : Core) : (setCore s c x).age = s.age := rfl
@[simp] theorem setCore_sync (s : State) (c : Nat) (x : Core) : (setCore s c x).sync = s.sync := rfl
@[simp] theorem setCore_queues (s : State) (c : Nat) (x : Core) : (setCore s c x).queues = s.queues := rfl
@[simp] theorem setCore_rrNext (s : State) (c : Nat) (x : Core) : (setCore s c x).rrNext = s.rrNext := rfl
@[simp] theorem setCore_snapshot (s : State) (c : Nat) (x : Core) : (setCore s c x).snapshot = s.snapshot := rfl
@[simp] theorem setCore_measures (s : State) (c : Nat) (x : Core) : (setCore s c x).measures = s.measures := rfl
@[simp] theorem setCore_epochLen (s : State) (c : Nat) (x : Core) : (setCore s c x).epochLen = s.epochLen := rfl
@[simp] theorem setCore_access (s : State) (c : Nat) (x : Core) : (setCore s c x).access = s.access := rfl
@[simp] theorem setCore_counted (s : State) (c : Nat) (x : Core) : (setCore s c x).counted = s.counted := rfl
@[simp] theorem setCore_promote (s : State) (c : Nat) (x : Core) : (setCore s c x).promote = s.promote := rfl
@[simp] theorem setCore_demote (s : State) (c : Nat) (x : Core) : (setCore s c x).demote = s.demote := rfl
@[simp] theorem setCore_promoted (s : State) (c : Nat) (x : Core) : (setCore s c x).promoted = s.promoted := rfl
@[simp] theorem setCore_lastPromoted (s : State) (c : Nat) (x : Core) : (setCore s c x).lastPromoted = s.lastPromoted := rfl
@[simp] theorem setCore_migrations (s : State) (c : Nat) (x : Core) : (setCore s c x).migrations = s.migrations := rfl
@[simp] theorem setCore_links (s : State) (c : Nat) (x : Core) : (setCore s c x).links = s.links := rfl
@[simp] theorem setCore_telemetry (s : State) (c : Nat) (x : Core) : (setCore s c x).telemetry = s.telemetry := rfl
@[simp] theorem setCore_msix (s : State) (c : Nat) (x : Core) : (setCore s c x).msix = s.msix := rfl
@[simp] theorem setCore_hostData (s : State) (c : Nat) (x : Core) : (setCore s c x).hostData = s.hostData := rfl
@[simp] theorem setCore_contexts (s : State) (c : Nat) (x : Core) : (setCore s c x).contexts = s.contexts := rfl
@[simp] theorem setCore_dies (s : State) (c : Nat) (x : Core) : (setCore s c x).dies = s.dies := rfl
@[simp] theorem setCore_tasks (s : State) (c : Nat) (x : Core) : (setCore s c x).tasks = s.tasks := rfl
@[simp] theorem setCore_grids (s : State) (c : Nat) (x : Core) : (setCore s c x).grids = s.grids := rfl
@[simp] theorem setCore_teams (s : State) (c : Nat) (x : Core) : (setCore s c x).teams = s.teams := rfl
@[simp] theorem setCore_groups (s : State) (c : Nat) (x : Core) : (setCore s c x).groups = s.groups := rfl
@[simp] theorem setCore_ops (s : State) (c : Nat) (x : Core) : (setCore s c x).ops = s.ops := rfl
@[simp] theorem setCore_agenda (s : State) (c : Nat) (x : Core) : (setCore s c x).agenda = s.agenda := rfl
@[simp] theorem setCore_cur (s : State) (c : Nat) (x : Core) : (setCore s c x).cur = s.cur := rfl
@[simp] theorem setCore_tick (s : State) (c : Nat) (x : Core) : (setCore s c x).tick = s.tick := rfl
@[simp] theorem setCore_nextId (s : State) (c : Nat) (x : Core) : (setCore s c x).nextId = s.nextId := rfl
theorem setCore_only (s : State) (c : Nat) (x : Core) : setCore s c x = { s with cores := (setCore s c x).cores } := rfl

@[simp] theorem setDie_flash (s : State) (k : Nat) (x : Die) : (setDie s k x).flash = s.flash := rfl
@[simp] theorem setDie_device (s : State) (k : Nat) (x : Die) : (setDie s k x).device = s.device := rfl
@[simp] theorem setDie_aperture (s : State) (k : Nat) (x : Die) : (setDie s k x).aperture = s.aperture := rfl
@[simp] theorem setDie_mailbox (s : State) (k : Nat) (x : Die) : (setDie s k x).mailbox = s.mailbox := rfl
@[simp] theorem setDie_mem (s : State) (k : Nat) (x : Die) : (setDie s k x).mem = s.mem := rfl
@[simp] theorem setDie_fe (s : State) (k : Nat) (x : Die) : (setDie s k x).fe = s.fe := rfl
@[simp] theorem setDie_bad (s : State) (k : Nat) (x : Die) : (setDie s k x).bad = s.bad := rfl
@[simp] theorem setDie_oldEntries (s : State) (k : Nat) (x : Die) : (setDie s k x).oldEntries = s.oldEntries := rfl
@[simp] theorem setDie_past (s : State) (k : Nat) (x : Die) : (setDie s k x).past = s.past := rfl
@[simp] theorem setDie_age (s : State) (k : Nat) (x : Die) : (setDie s k x).age = s.age := rfl
@[simp] theorem setDie_sync (s : State) (k : Nat) (x : Die) : (setDie s k x).sync = s.sync := rfl
@[simp] theorem setDie_queues (s : State) (k : Nat) (x : Die) : (setDie s k x).queues = s.queues := rfl
@[simp] theorem setDie_rrNext (s : State) (k : Nat) (x : Die) : (setDie s k x).rrNext = s.rrNext := rfl
@[simp] theorem setDie_snapshot (s : State) (k : Nat) (x : Die) : (setDie s k x).snapshot = s.snapshot := rfl
@[simp] theorem setDie_measures (s : State) (k : Nat) (x : Die) : (setDie s k x).measures = s.measures := rfl
@[simp] theorem setDie_epochLen (s : State) (k : Nat) (x : Die) : (setDie s k x).epochLen = s.epochLen := rfl
@[simp] theorem setDie_access (s : State) (k : Nat) (x : Die) : (setDie s k x).access = s.access := rfl
@[simp] theorem setDie_counted (s : State) (k : Nat) (x : Die) : (setDie s k x).counted = s.counted := rfl
@[simp] theorem setDie_promote (s : State) (k : Nat) (x : Die) : (setDie s k x).promote = s.promote := rfl
@[simp] theorem setDie_demote (s : State) (k : Nat) (x : Die) : (setDie s k x).demote = s.demote := rfl
@[simp] theorem setDie_promoted (s : State) (k : Nat) (x : Die) : (setDie s k x).promoted = s.promoted := rfl
@[simp] theorem setDie_lastPromoted (s : State) (k : Nat) (x : Die) : (setDie s k x).lastPromoted = s.lastPromoted := rfl
@[simp] theorem setDie_migrations (s : State) (k : Nat) (x : Die) : (setDie s k x).migrations = s.migrations := rfl
@[simp] theorem setDie_links (s : State) (k : Nat) (x : Die) : (setDie s k x).links = s.links := rfl
@[simp] theorem setDie_telemetry (s : State) (k : Nat) (x : Die) : (setDie s k x).telemetry = s.telemetry := rfl
@[simp] theorem setDie_msix (s : State) (k : Nat) (x : Die) : (setDie s k x).msix = s.msix := rfl
@[simp] theorem setDie_hostData (s : State) (k : Nat) (x : Die) : (setDie s k x).hostData = s.hostData := rfl
@[simp] theorem setDie_contexts (s : State) (k : Nat) (x : Die) : (setDie s k x).contexts = s.contexts := rfl
@[simp] theorem setDie_tasks (s : State) (k : Nat) (x : Die) : (setDie s k x).tasks = s.tasks := rfl
@[simp] theorem setDie_cores (s : State) (k : Nat) (x : Die) : (setDie s k x).cores = s.cores := rfl
@[simp] theorem setDie_grids (s : State) (k : Nat) (x : Die) : (setDie s k x).grids = s.grids := rfl
@[simp] theorem setDie_teams (s : State) (k : Nat) (x : Die) : (setDie s k x).teams = s.teams := rfl
@[simp] theorem setDie_groups (s : State) (k : Nat) (x : Die) : (setDie s k x).groups = s.groups := rfl
@[simp] theorem setDie_ops (s : State) (k : Nat) (x : Die) : (setDie s k x).ops = s.ops := rfl
@[simp] theorem setDie_agenda (s : State) (k : Nat) (x : Die) : (setDie s k x).agenda = s.agenda := rfl
@[simp] theorem setDie_cur (s : State) (k : Nat) (x : Die) : (setDie s k x).cur = s.cur := rfl
@[simp] theorem setDie_tick (s : State) (k : Nat) (x : Die) : (setDie s k x).tick = s.tick := rfl
@[simp] theorem setDie_nextId (s : State) (k : Nat) (x : Die) : (setDie s k x).nextId = s.nextId := rfl
theorem setDie_only (s : State) (k : Nat) (x : Die) : setDie s k x = { s with dies := (setDie s k x).dies } := rfl

@[simp] theorem modGroup_flash (s : State) (n : Nat) (f : Group → Group) : (modGroup s n f).flash = s.flash := by unfold modGroup; split <;> rfl
@[simp] theorem modGroup_device (s : State) (n : Nat) (f : Group → Group) : (modGroup s n f).device = s.device := by unfold modGroup; split <;> rfl
@[simp] theorem modGroup_aperture (s : State) (n : Nat) (f : Group → Group) : (modGroup s n f).aperture = s.aperture := by unfold modGroup; split <;> rfl
@[simp] theorem modGroup_mailbox (s : State) (n : Nat) (f : Group → Group) : (modGroup s n f).mailbox = s.mailbox := by unfold modGroup; split <;> rfl
@[simp] theorem modGroup_mem (s : State) (n : Nat) (f : Group → Group) : (modGroup s n f).mem = s.mem := by unfold modGroup; split <;> rfl
@[simp] theorem modGroup_fe (s : State) (n : Nat) (f : Group → Group) : (modGroup s n f).fe = s.fe := by unfold modGroup; split <;> rfl
@[simp] theorem modGroup_bad (s : State) (n : Nat) (f : Group → Group) : (modGroup s n f).bad = s.bad := by unfold modGroup; split <;> rfl
@[simp] theorem modGroup_oldEntries (s : State) (n : Nat) (f : Group → Group) : (modGroup s n f).oldEntries = s.oldEntries := by unfold modGroup; split <;> rfl
@[simp] theorem modGroup_past (s : State) (n : Nat) (f : Group → Group) : (modGroup s n f).past = s.past := by unfold modGroup; split <;> rfl
@[simp] theorem modGroup_age (s : State) (n : Nat) (f : Group → Group) : (modGroup s n f).age = s.age := by unfold modGroup; split <;> rfl
@[simp] theorem modGroup_sync (s : State) (n : Nat) (f : Group → Group) : (modGroup s n f).sync = s.sync := by unfold modGroup; split <;> rfl
@[simp] theorem modGroup_queues (s : State) (n : Nat) (f : Group → Group) : (modGroup s n f).queues = s.queues := by unfold modGroup; split <;> rfl
@[simp] theorem modGroup_rrNext (s : State) (n : Nat) (f : Group → Group) : (modGroup s n f).rrNext = s.rrNext := by unfold modGroup; split <;> rfl
@[simp] theorem modGroup_snapshot (s : State) (n : Nat) (f : Group → Group) : (modGroup s n f).snapshot = s.snapshot := by unfold modGroup; split <;> rfl
@[simp] theorem modGroup_measures (s : State) (n : Nat) (f : Group → Group) : (modGroup s n f).measures = s.measures := by unfold modGroup; split <;> rfl
@[simp] theorem modGroup_epochLen (s : State) (n : Nat) (f : Group → Group) : (modGroup s n f).epochLen = s.epochLen := by unfold modGroup; split <;> rfl
@[simp] theorem modGroup_access (s : State) (n : Nat) (f : Group → Group) : (modGroup s n f).access = s.access := by unfold modGroup; split <;> rfl
@[simp] theorem modGroup_counted (s : State) (n : Nat) (f : Group → Group) : (modGroup s n f).counted = s.counted := by unfold modGroup; split <;> rfl
@[simp] theorem modGroup_promote (s : State) (n : Nat) (f : Group → Group) : (modGroup s n f).promote = s.promote := by unfold modGroup; split <;> rfl
@[simp] theorem modGroup_demote (s : State) (n : Nat) (f : Group → Group) : (modGroup s n f).demote = s.demote := by unfold modGroup; split <;> rfl
@[simp] theorem modGroup_promoted (s : State) (n : Nat) (f : Group → Group) : (modGroup s n f).promoted = s.promoted := by unfold modGroup; split <;> rfl
@[simp] theorem modGroup_lastPromoted (s : State) (n : Nat) (f : Group → Group) : (modGroup s n f).lastPromoted = s.lastPromoted := by unfold modGroup; split <;> rfl
@[simp] theorem modGroup_migrations (s : State) (n : Nat) (f : Group → Group) : (modGroup s n f).migrations = s.migrations := by unfold modGroup; split <;> rfl
@[simp] theorem modGroup_links (s : State) (n : Nat) (f : Group → Group) : (modGroup s n f).links = s.links := by unfold modGroup; split <;> rfl
@[simp] theorem modGroup_telemetry (s : State) (n : Nat) (f : Group → Group) : (modGroup s n f).telemetry = s.telemetry := by unfold modGroup; split <;> rfl
@[simp] theorem modGroup_msix (s : State) (n : Nat) (f : Group → Group) : (modGroup s n f).msix = s.msix := by unfold modGroup; split <;> rfl
@[simp] theorem modGroup_hostData (s : State) (n : Nat) (f : Group → Group) : (modGroup s n f).hostData = s.hostData := by unfold modGroup; split <;> rfl
@[simp] theorem modGroup_contexts (s : State) (n : Nat) (f : Group → Group) : (modGroup s n f).contexts = s.contexts := by unfold modGroup; split <;> rfl
@[simp] theorem modGroup_dies (s : State) (n : Nat) (f : Group → Group) : (modGroup s n f).dies = s.dies := by unfold modGroup; split <;> rfl
@[simp] theorem modGroup_tasks (s : State) (n : Nat) (f : Group → Group) : (modGroup s n f).tasks = s.tasks := by unfold modGroup; split <;> rfl
@[simp] theorem modGroup_cores (s : State) (n : Nat) (f : Group → Group) : (modGroup s n f).cores = s.cores := by unfold modGroup; split <;> rfl
@[simp] theorem modGroup_grids (s : State) (n : Nat) (f : Group → Group) : (modGroup s n f).grids = s.grids := by unfold modGroup; split <;> rfl
@[simp] theorem modGroup_teams (s : State) (n : Nat) (f : Group → Group) : (modGroup s n f).teams = s.teams := by unfold modGroup; split <;> rfl
@[simp] theorem modGroup_ops (s : State) (n : Nat) (f : Group → Group) : (modGroup s n f).ops = s.ops := by unfold modGroup; split <;> rfl
@[simp] theorem modGroup_agenda (s : State) (n : Nat) (f : Group → Group) : (modGroup s n f).agenda = s.agenda := by unfold modGroup; split <;> rfl
@[simp] theorem modGroup_cur (s : State) (n : Nat) (f : Group → Group) : (modGroup s n f).cur = s.cur := by unfold modGroup; split <;> rfl
@[simp] theorem modGroup_tick (s : State) (n : Nat) (f : Group → Group) : (modGroup s n f).tick = s.tick := by unfold modGroup; split <;> rfl
@[simp] theorem modGroup_nextId (s : State) (n : Nat) (f : Group → Group) : (modGroup s n f).nextId = s.nextId := by unfold modGroup; split <;> rfl
theorem modGroup_only (s : State) (n : Nat) (f : Group → Group) : modGroup s n f = { s with groups := (modGroup s n f).groups } := by unfold modGroup; split <;> rfl

@[simp] theorem modTeam_flash (s : State) (n : Nat) (f : Team → Team) : (modTeam s n f).flash = s.flash := by unfold modTeam; split <;> rfl
@[simp] theorem modTeam_device (s : State) (n : Nat) (f : Team → Team) : (modTeam s n f).device = s.device := by unfold modTeam; split <;> rfl
@[simp] theorem modTeam_aperture (s : State) (n : Nat) (f : Team → Team) : (modTeam s n f).aperture = s.aperture := by unfold modTeam; split <;> rfl
@[simp] theorem modTeam_mailbox (s : State) (n : Nat) (f : Team → Team) : (modTeam s n f).mailbox = s.mailbox := by unfold modTeam; split <;> rfl
@[simp] theorem modTeam_mem (s : State) (n : Nat) (f : Team → Team) : (modTeam s n f).mem = s.mem := by unfold modTeam; split <;> rfl
@[simp] theorem modTeam_fe (s : State) (n : Nat) (f : Team → Team) : (modTeam s n f).fe = s.fe := by unfold modTeam; split <;> rfl
@[simp] theorem modTeam_bad (s : State) (n : Nat) (f : Team → Team) : (modTeam s n f).bad = s.bad := by unfold modTeam; split <;> rfl
@[simp] theorem modTeam_oldEntries (s : State) (n : Nat) (f : Team → Team) : (modTeam s n f).oldEntries = s.oldEntries := by unfold modTeam; split <;> rfl
@[simp] theorem modTeam_past (s : State) (n : Nat) (f : Team → Team) : (modTeam s n f).past = s.past := by unfold modTeam; split <;> rfl
@[simp] theorem modTeam_age (s : State) (n : Nat) (f : Team → Team) : (modTeam s n f).age = s.age := by unfold modTeam; split <;> rfl
@[simp] theorem modTeam_sync (s : State) (n : Nat) (f : Team → Team) : (modTeam s n f).sync = s.sync := by unfold modTeam; split <;> rfl
@[simp] theorem modTeam_queues (s : State) (n : Nat) (f : Team → Team) : (modTeam s n f).queues = s.queues := by unfold modTeam; split <;> rfl
@[simp] theorem modTeam_rrNext (s : State) (n : Nat) (f : Team → Team) : (modTeam s n f).rrNext = s.rrNext := by unfold modTeam; split <;> rfl
@[simp] theorem modTeam_snapshot (s : State) (n : Nat) (f : Team → Team) : (modTeam s n f).snapshot = s.snapshot := by unfold modTeam; split <;> rfl
@[simp] theorem modTeam_measures (s : State) (n : Nat) (f : Team → Team) : (modTeam s n f).measures = s.measures := by unfold modTeam; split <;> rfl
@[simp] theorem modTeam_epochLen (s : State) (n : Nat) (f : Team → Team) : (modTeam s n f).epochLen = s.epochLen := by unfold modTeam; split <;> rfl
@[simp] theorem modTeam_access (s : State) (n : Nat) (f : Team → Team) : (modTeam s n f).access = s.access := by unfold modTeam; split <;> rfl
@[simp] theorem modTeam_counted (s : State) (n : Nat) (f : Team → Team) : (modTeam s n f).counted = s.counted := by unfold modTeam; split <;> rfl
@[simp] theorem modTeam_promote (s : State) (n : Nat) (f : Team → Team) : (modTeam s n f).promote = s.promote := by unfold modTeam; split <;> rfl
@[simp] theorem modTeam_demote (s : State) (n : Nat) (f : Team → Team) : (modTeam s n f).demote = s.demote := by unfold modTeam; split <;> rfl
@[simp] theorem modTeam_promoted (s : State) (n : Nat) (f : Team → Team) : (modTeam s n f).promoted = s.promoted := by unfold modTeam; split <;> rfl
@[simp] theorem modTeam_lastPromoted (s : State) (n : Nat) (f : Team → Team) : (modTeam s n f).lastPromoted = s.lastPromoted := by unfold modTeam; split <;> rfl
@[simp] theorem modTeam_migrations (s : State) (n : Nat) (f : Team → Team) : (modTeam s n f).migrations = s.migrations := by unfold modTeam; split <;> rfl
@[simp] theorem modTeam_links (s : State) (n : Nat) (f : Team → Team) : (modTeam s n f).links = s.links := by unfold modTeam; split <;> rfl
@[simp] theorem modTeam_telemetry (s : State) (n : Nat) (f : Team → Team) : (modTeam s n f).telemetry = s.telemetry := by unfold modTeam; split <;> rfl
@[simp] theorem modTeam_msix (s : State) (n : Nat) (f : Team → Team) : (modTeam s n f).msix = s.msix := by unfold modTeam; split <;> rfl
@[simp] theorem modTeam_hostData (s : State) (n : Nat) (f : Team → Team) : (modTeam s n f).hostData = s.hostData := by unfold modTeam; split <;> rfl
@[simp] theorem modTeam_contexts (s : State) (n : Nat) (f : Team → Team) : (modTeam s n f).contexts = s.contexts := by unfold modTeam; split <;> rfl
@[simp] theorem modTeam_dies (s : State) (n : Nat) (f : Team → Team) : (modTeam s n f).dies = s.dies := by unfold modTeam; split <;> rfl
@[simp] theorem modTeam_tasks (s : State) (n : Nat) (f : Team → Team) : (modTeam s n f).tasks = s.tasks := by unfold modTeam; split <;> rfl
@[simp] theorem modTeam_cores (s : State) (n : Nat) (f : Team → Team) : (modTeam s n f).cores = s.cores := by unfold modTeam; split <;> rfl
@[simp] theorem modTeam_grids (s : State) (n : Nat) (f : Team → Team) : (modTeam s n f).grids = s.grids := by unfold modTeam; split <;> rfl
@[simp] theorem modTeam_groups (s : State) (n : Nat) (f : Team → Team) : (modTeam s n f).groups = s.groups := by unfold modTeam; split <;> rfl
@[simp] theorem modTeam_ops (s : State) (n : Nat) (f : Team → Team) : (modTeam s n f).ops = s.ops := by unfold modTeam; split <;> rfl
@[simp] theorem modTeam_agenda (s : State) (n : Nat) (f : Team → Team) : (modTeam s n f).agenda = s.agenda := by unfold modTeam; split <;> rfl
@[simp] theorem modTeam_cur (s : State) (n : Nat) (f : Team → Team) : (modTeam s n f).cur = s.cur := by unfold modTeam; split <;> rfl
@[simp] theorem modTeam_tick (s : State) (n : Nat) (f : Team → Team) : (modTeam s n f).tick = s.tick := by unfold modTeam; split <;> rfl
@[simp] theorem modTeam_nextId (s : State) (n : Nat) (f : Team → Team) : (modTeam s n f).nextId = s.nextId := by unfold modTeam; split <;> rfl
theorem modTeam_only (s : State) (n : Nat) (f : Team → Team) : modTeam s n f = { s with teams := (modTeam s n f).teams } := by unfold modTeam; split <;> rfl

@[simp] theorem modGrid_flash (s : State) (n : Nat) (f : Grid → Grid) : (modGrid s n f).flash = s.flash := by unfold modGrid; split <;> rfl
@[simp] theorem modGrid_device (s : State) (n : Nat) (f : Grid → Grid) : (modGrid s n f).device = s.device := by unfold modGrid; split <;> rfl
@[simp] theorem modGrid_aperture (s : State) (n : Nat) (f : Grid → Grid) : (modGrid s n f).aperture = s.aperture := by unfold modGrid; split <;> rfl
@[simp] theorem modGrid_mailbox (s : State) (n : Nat) (f : Grid → Grid) : (modGrid s n f).mailbox = s.mailbox := by unfold modGrid; split <;> rfl
@[simp] theorem modGrid_mem (s : State) (n : Nat) (f : Grid → Grid) : (modGrid s n f).mem = s.mem := by unfold modGrid; split <;> rfl
@[simp] theorem modGrid_fe (s : State) (n : Nat) (f : Grid → Grid) : (modGrid s n f).fe = s.fe := by unfold modGrid; split <;> rfl
@[simp] theorem modGrid_bad (s : State) (n : Nat) (f : Grid → Grid) : (modGrid s n f).bad = s.bad := by unfold modGrid; split <;> rfl
@[simp] theorem modGrid_oldEntries (s : State) (n : Nat) (f : Grid → Grid) : (modGrid s n f).oldEntries = s.oldEntries := by unfold modGrid; split <;> rfl
@[simp] theorem modGrid_past (s : State) (n : Nat) (f : Grid → Grid) : (modGrid s n f).past = s.past := by unfold modGrid; split <;> rfl
@[simp] theorem modGrid_age (s : State) (n : Nat) (f : Grid → Grid) : (modGrid s n f).age = s.age := by unfold modGrid; split <;> rfl
@[simp] theorem modGrid_sync (s : State) (n : Nat) (f : Grid → Grid) : (modGrid s n f).sync = s.sync := by unfold modGrid; split <;> rfl
@[simp] theorem modGrid_queues (s : State) (n : Nat) (f : Grid → Grid) : (modGrid s n f).queues = s.queues := by unfold modGrid; split <;> rfl
@[simp] theorem modGrid_rrNext (s : State) (n : Nat) (f : Grid → Grid) : (modGrid s n f).rrNext = s.rrNext := by unfold modGrid; split <;> rfl
@[simp] theorem modGrid_snapshot (s : State) (n : Nat) (f : Grid → Grid) : (modGrid s n f).snapshot = s.snapshot := by unfold modGrid; split <;> rfl
@[simp] theorem modGrid_measures (s : State) (n : Nat) (f : Grid → Grid) : (modGrid s n f).measures = s.measures := by unfold modGrid; split <;> rfl
@[simp] theorem modGrid_epochLen (s : State) (n : Nat) (f : Grid → Grid) : (modGrid s n f).epochLen = s.epochLen := by unfold modGrid; split <;> rfl
@[simp] theorem modGrid_access (s : State) (n : Nat) (f : Grid → Grid) : (modGrid s n f).access = s.access := by unfold modGrid; split <;> rfl
@[simp] theorem modGrid_counted (s : State) (n : Nat) (f : Grid → Grid) : (modGrid s n f).counted = s.counted := by unfold modGrid; split <;> rfl
@[simp] theorem modGrid_promote (s : State) (n : Nat) (f : Grid → Grid) : (modGrid s n f).promote = s.promote := by unfold modGrid; split <;> rfl
@[simp] theorem modGrid_demote (s : State) (n : Nat) (f : Grid → Grid) : (modGrid s n f).demote = s.demote := by unfold modGrid; split <;> rfl
@[simp] theorem modGrid_promoted (s : State) (n : Nat) (f : Grid → Grid) : (modGrid s n f).promoted = s.promoted := by unfold modGrid; split <;> rfl
@[simp] theorem modGrid_lastPromoted (s : State) (n : Nat) (f : Grid → Grid) : (modGrid s n f).lastPromoted = s.lastPromoted := by unfold modGrid; split <;> rfl
@[simp] theorem modGrid_migrations (s : State) (n : Nat) (f : Grid → Grid) : (modGrid s n f).migrations = s.migrations := by unfold modGrid; split <;> rfl
@[simp] theorem modGrid_links (s : State) (n : Nat) (f : Grid → Grid) : (modGrid s n f).links = s.links := by unfold modGrid; split <;> rfl
@[simp] theorem modGrid_telemetry (s : State) (n : Nat) (f : Grid → Grid) : (modGrid s n f).telemetry = s.telemetry := by unfold modGrid; split <;> rfl
@[simp] theorem modGrid_msix (s : State) (n : Nat) (f : Grid → Grid) : (modGrid s n f).msix = s.msix := by unfold modGrid; split <;> rfl
@[simp] theorem modGrid_hostData (s : State) (n : Nat) (f : Grid → Grid) : (modGrid s n f).hostData = s.hostData := by unfold modGrid; split <;> rfl
@[simp] theorem modGrid_contexts (s : State) (n : Nat) (f : Grid → Grid) : (modGrid s n f).contexts = s.contexts := by unfold modGrid; split <;> rfl
@[simp] theorem modGrid_dies (s : State) (n : Nat) (f : Grid → Grid) : (modGrid s n f).dies = s.dies := by unfold modGrid; split <;> rfl
@[simp] theorem modGrid_tasks (s : State) (n : Nat) (f : Grid → Grid) : (modGrid s n f).tasks = s.tasks := by unfold modGrid; split <;> rfl
@[simp] theorem modGrid_cores (s : State) (n : Nat) (f : Grid → Grid) : (modGrid s n f).cores = s.cores := by unfold modGrid; split <;> rfl
@[simp] theorem modGrid_teams (s : State) (n : Nat) (f : Grid → Grid) : (modGrid s n f).teams = s.teams := by unfold modGrid; split <;> rfl
@[simp] theorem modGrid_groups (s : State) (n : Nat) (f : Grid → Grid) : (modGrid s n f).groups = s.groups := by unfold modGrid; split <;> rfl
@[simp] theorem modGrid_ops (s : State) (n : Nat) (f : Grid → Grid) : (modGrid s n f).ops = s.ops := by unfold modGrid; split <;> rfl
@[simp] theorem modGrid_agenda (s : State) (n : Nat) (f : Grid → Grid) : (modGrid s n f).agenda = s.agenda := by unfold modGrid; split <;> rfl
@[simp] theorem modGrid_cur (s : State) (n : Nat) (f : Grid → Grid) : (modGrid s n f).cur = s.cur := by unfold modGrid; split <;> rfl
@[simp] theorem modGrid_tick (s : State) (n : Nat) (f : Grid → Grid) : (modGrid s n f).tick = s.tick := by unfold modGrid; split <;> rfl
@[simp] theorem modGrid_nextId (s : State) (n : Nat) (f : Grid → Grid) : (modGrid s n f).nextId = s.nextId := by unfold modGrid; split <;> rfl
theorem modGrid_only (s : State) (n : Nat) (f : Grid → Grid) : modGrid s n f = { s with grids := (modGrid s n f).grids } := by unfold modGrid; split <;> rfl

@[simp] theorem modCtx_flash (s : State) (n : Nat) (f : Context → Context) : (modCtx s n f).flash = s.flash := by unfold modCtx; split <;> rfl
@[simp] theorem modCtx_device (s : State) (n : Nat) (f : Context → Context) : (modCtx s n f).device = s.device := by unfold modCtx; split <;> rfl
@[simp] theorem modCtx_aperture (s : State) (n : Nat) (f : Context → Context) : (modCtx s n f).aperture = s.aperture := by unfold modCtx; split <;> rfl
@[simp] theorem modCtx_mailbox (s : State) (n : Nat) (f : Context → Context) : (modCtx s n f).mailbox = s.mailbox := by unfold modCtx; split <;> rfl
@[simp] theorem modCtx_mem (s : State) (n : Nat) (f : Context → Context) : (modCtx s n f).mem = s.mem := by unfold modCtx; split <;> rfl
@[simp] theorem modCtx_fe (s : State) (n : Nat) (f : Context → Context) : (modCtx s n f).fe = s.fe := by unfold modCtx; split <;> rfl
@[simp] theorem modCtx_bad (s : State) (n : Nat) (f : Context → Context) : (modCtx s n f).bad = s.bad := by unfold modCtx; split <;> rfl
@[simp] theorem modCtx_oldEntries (s : State) (n : Nat) (f : Context → Context) : (modCtx s n f).oldEntries = s.oldEntries := by unfold modCtx; split <;> rfl
@[simp] theorem modCtx_past (s : State) (n : Nat) (f : Context → Context) : (modCtx s n f).past = s.past := by unfold modCtx; split <;> rfl
@[simp] theorem modCtx_age (s : State) (n : Nat) (f : Context → Context) : (modCtx s n f).age = s.age := by unfold modCtx; split <;> rfl
@[simp] theorem modCtx_sync (s : State) (n : Nat) (f : Context → Context) : (modCtx s n f).sync = s.sync := by unfold modCtx; split <;> rfl
@[simp] theorem modCtx_queues (s : State) (n : Nat) (f : Context → Context) : (modCtx s n f).queues = s.queues := by unfold modCtx; split <;> rfl
@[simp] theorem modCtx_rrNext (s : State) (n : Nat) (f : Context → Context) : (modCtx s n f).rrNext = s.rrNext := by unfold modCtx; split <;> rfl
@[simp] theorem modCtx_snapshot (s : State) (n : Nat) (f : Context → Context) : (modCtx s n f).snapshot = s.snapshot := by unfold modCtx; split <;> rfl
@[simp] theorem modCtx_measures (s : State) (n : Nat) (f : Context → Context) : (modCtx s n f).measures = s.measures := by unfold modCtx; split <;> rfl
@[simp] theorem modCtx_epochLen (s : State) (n : Nat) (f : Context → Context) : (modCtx s n f).epochLen = s.epochLen := by unfold modCtx; split <;> rfl
@[simp] theorem modCtx_access (s : State) (n : Nat) (f : Context → Context) : (modCtx s n f).access = s.access := by unfold modCtx; split <;> rfl
@[simp] theorem modCtx_counted (s : State) (n : Nat) (f : Context → Context) : (modCtx s n f).counted = s.counted := by unfold modCtx; split <;> rfl
@[simp] theorem modCtx_promote (s : State) (n : Nat) (f : Context → Context) : (modCtx s n f).promote = s.promote := by unfold modCtx; split <;> rfl
@[simp] theorem modCtx_demote (s : State) (n : Nat) (f : Context → Context) : (modCtx s n f).demote = s.demote := by unfold modCtx; split <;> rfl
@[simp] theorem modCtx_promoted (s : State) (n : Nat) (f : Context → Context) : (modCtx s n f).promoted = s.promoted := by unfold modCtx; split <;> rfl
@[simp] theorem modCtx_lastPromoted (s : State) (n : Nat) (f : Context → Context) : (modCtx s n f).lastPromoted = s.lastPromoted := by unfold modCtx; split <;> rfl
@[simp] theorem modCtx_migrations (s : State) (n : Nat) (f : Context → Context) : (modCtx s n f).migrations = s.migrations := by unfold modCtx; split <;> rfl
@[simp] theorem modCtx_links (s : State) (n : Nat) (f : Context → Context) : (modCtx s n f).links = s.links := by unfold modCtx; split <;> rfl
@[simp] theorem modCtx_telemetry (s : State) (n : Nat) (f : Context → Context) : (modCtx s n f).telemetry = s.telemetry := by unfold modCtx; split <;> rfl
@[simp] theorem modCtx_msix (s : State) (n : Nat) (f : Context → Context) : (modCtx s n f).msix = s.msix := by unfold modCtx; split <;> rfl
@[simp] theorem modCtx_hostData (s : State) (n : Nat) (f : Context → Context) : (modCtx s n f).hostData = s.hostData := by unfold modCtx; split <;> rfl
@[simp] theorem modCtx_dies (s : State) (n : Nat) (f : Context → Context) : (modCtx s n f).dies = s.dies := by unfold modCtx; split <;> rfl
@[simp] theorem modCtx_tasks (s : State) (n : Nat) (f : Context → Context) : (modCtx s n f).tasks = s.tasks := by unfold modCtx; split <;> rfl
@[simp] theorem modCtx_cores (s : State) (n : Nat) (f : Context → Context) : (modCtx s n f).cores = s.cores := by unfold modCtx; split <;> rfl
@[simp] theorem modCtx_grids (s : State) (n : Nat) (f : Context → Context) : (modCtx s n f).grids = s.grids := by unfold modCtx; split <;> rfl
@[simp] theorem modCtx_teams (s : State) (n : Nat) (f : Context → Context) : (modCtx s n f).teams = s.teams := by unfold modCtx; split <;> rfl
@[simp] theorem modCtx_groups (s : State) (n : Nat) (f : Context → Context) : (modCtx s n f).groups = s.groups := by unfold modCtx; split <;> rfl
@[simp] theorem modCtx_ops (s : State) (n : Nat) (f : Context → Context) : (modCtx s n f).ops = s.ops := by unfold modCtx; split <;> rfl
@[simp] theorem modCtx_agenda (s : State) (n : Nat) (f : Context → Context) : (modCtx s n f).agenda = s.agenda := by unfold modCtx; split <;> rfl
@[simp] theorem modCtx_cur (s : State) (n : Nat) (f : Context → Context) : (modCtx s n f).cur = s.cur := by unfold modCtx; split <;> rfl
@[simp] theorem modCtx_tick (s : State) (n : Nat) (f : Context → Context) : (modCtx s n f).tick = s.tick := by unfold modCtx; split <;> rfl
@[simp] theorem modCtx_nextId (s : State) (n : Nat) (f : Context → Context) : (modCtx s n f).nextId = s.nextId := by unfold modCtx; split <;> rfl
theorem modCtx_only (s : State) (n : Nat) (f : Context → Context) : modCtx s n f = { s with contexts := (modCtx s n f).contexts } := by unfold modCtx; split <;> rfl

@[simp] theorem modCore_flash (s : State) (c : Nat) (f : Core → Core) : (modCore s c f).flash = s.flash := rfl
@[simp] theorem modCore_device (s : State) (c : Nat) (f : Core → Core) : (modCore s c f).device = s.device := rfl
@[simp] theorem modCore_aperture (s : State) (c : Nat) (f : Core → Core) : (modCore s c f).aperture = s.aperture := rfl
@[simp] theorem modCore_mailbox (s : State) (c : Nat) (f : Core → Core) : (modCore s c f).mailbox = s.mailbox := rfl
@[simp] theorem modCore_mem (s : State) (c : Nat) (f : Core → Core) : (modCore s c f).mem = s.mem := rfl
@[simp] theorem modCore_fe (s : State) (c : Nat) (f : Core → Core) : (modCore s c f).fe = s.fe := rfl
@[simp] theorem modCore_bad (s : State) (c : Nat) (f : Core → Core) : (modCore s c f).bad = s.bad := rfl
@[simp] theorem modCore_oldEntries (s : State) (c : Nat) (f : Core → Core) : (modCore s c f).oldEntries = s.oldEntries := rfl
@[simp] theorem modCore_past (s : State) (c : Nat) (f : Core → Core) : (modCore s c f).past = s.past := rfl
@[simp] theorem modCore_age (s : State) (c : Nat) (f : Core → Core) : (modCore s c f).age = s.age := rfl
@[simp] theorem modCore_sync (s : State) (c : Nat) (f : Core → Core) : (modCore s c f).sync = s.sync := rfl
@[simp] theorem modCore_queues (s : State) (c : Nat) (f : Core → Core) : (modCore s c f).queues = s.queues := rfl
@[simp] theorem modCore_rrNext (s : State) (c : Nat) (f : Core → Core) : (modCore s c f).rrNext = s.rrNext := rfl
@[simp] theorem modCore_snapshot (s : State) (c : Nat) (f : Core → Core) : (modCore s c f).snapshot = s.snapshot := rfl
@[simp] theorem modCore_measures (s : State) (c : Nat) (f : Core → Core) : (modCore s c f).measures = s.measures := rfl
@[simp] theorem modCore_epochLen (s : State) (c : Nat) (f : Core → Core) : (modCore s c f).epochLen = s.epochLen := rfl
@[simp] theorem modCore_access (s : State) (c : Nat) (f : Core → Core) : (modCore s c f).access = s.access := rfl
@[simp] theorem modCore_counted (s : State) (c : Nat) (f : Core → Core) : (modCore s c f).counted = s.counted := rfl
@[simp] theorem modCore_promote (s : State) (c : Nat) (f : Core → Core) : (modCore s c f).promote = s.promote := rfl
@[simp] theorem modCore_demote (s : State) (c : Nat) (f : Core → Core) : (modCore s c f).demote = s.demote := rfl
@[simp] theorem modCore_promoted (s : State) (c : Nat) (f : Core → Core) : (modCore s c f).promoted = s.promoted := rfl
@[simp] theorem modCore_lastPromoted (s : State) (c : Nat) (f : Core → Core) : (modCore s c f).lastPromoted = s.lastPromoted := rfl
@[simp] theorem modCore_migrations (s : State) (c : Nat) (f : Core → Core) : (modCore s c f).migrations = s.migrations := rfl
@[simp] theorem modCore_links (s : State) (c : Nat) (f : Core → Core) : (modCore s c f).links = s.links := rfl
@[simp] theorem modCore_telemetry (s : State) (c : Nat) (f : Core → Core) : (modCore s c f).telemetry = s.telemetry := rfl
@[simp] theorem modCore_msix (s : State) (c : Nat) (f : Core → Core) : (modCore s c f).msix = s.msix := rfl
@[simp] theorem modCore_hostData (s : State) (c : Nat) (f : Core → Core) : (modCore s c f).hostData = s.hostData := rfl
@[simp] theorem modCore_contexts (s : State) (c : Nat) (f : Core → Core) : (modCore s c f).contexts = s.contexts := rfl
@[simp] theorem modCore_dies (s : State) (c : Nat) (f : Core → Core) : (modCore s c f).dies = s.dies := rfl
@[simp] theorem modCore_tasks (s : State) (c : Nat) (f : Core → Core) : (modCore s c f).tasks = s.tasks := rfl
@[simp] theorem modCore_grids (s : State) (c : Nat) (f : Core → Core) : (modCore s c f).grids = s.grids := rfl
@[simp] theorem modCore_teams (s : State) (c : Nat) (f : Core → Core) : (modCore s c f).teams = s.teams := rfl
@[simp] theorem modCore_groups (s : State) (c : Nat) (f : Core → Core) : (modCore s c f).groups = s.groups := rfl
@[simp] theorem modCore_ops (s : State) (c : Nat) (f : Core → Core) : (modCore s c f).ops = s.ops := rfl
@[simp] theorem modCore_agenda (s : State) (c : Nat) (f : Core → Core) : (modCore s c f).agenda = s.agenda := rfl
@[simp] theorem modCore_cur (s : State) (c : Nat) (f : Core → Core) : (modCore s c f).cur = s.cur := rfl
@[simp] theorem modCore_tick (s : State) (c : Nat) (f : Core → Core) : (modCore s c f).tick = s.tick := rfl
@[simp] theorem modCore_nextId (s : State) (c : Nat) (f : Core → Core) : (modCore s c f).nextId = s.nextId := rfl
theorem modCore_only (s : State) (c : Nat) (f : Core → Core) : modCore s c f = { s with cores := (modCore s c f).cores } := rfl

@[simp] theorem modDie_flash (s : State) (k : Nat) (f : Die → Die) : (modDie s k f).flash = s.flash := rfl
@[simp] theorem modDie_device (s : State) (k : Nat) (f : Die → Die) : (modDie s k f).device = s.device := rfl
@[simp] theorem modDie_aperture (s : State) (k : Nat) (f : Die → Die) : (modDie s k f).aperture = s.aperture := rfl
@[simp] theorem modDie_mailbox (s : State) (k : Nat) (f : Die → Die) : (modDie s k f).mailbox = s.mailbox := rfl
@[simp] theorem modDie_mem (s : State) (k : Nat) (f : Die → Die) : (modDie s k f).mem = s.mem := rfl
@[simp] theorem modDie_fe (s : State) (k : Nat) (f : Die → Die) : (modDie s k f).fe = s.fe := rfl
@[simp] theorem modDie_bad (s : State) (k : Nat) (f : Die → Die) : (modDie s k f).bad = s.bad := rfl
@[simp] theorem modDie_oldEntries (s : State) (k : Nat) (f : Die → Die) : (modDie s k f).oldEntries = s.oldEntries := rfl
@[simp] theorem modDie_past (s : State) (k : Nat) (f : Die → Die) : (modDie s k f).past = s.past := rfl
@[simp] theorem modDie_age (s : State) (k : Nat) (f : Die → Die) : (modDie s k f).age = s.age := rfl
@[simp] theorem modDie_sync (s : State) (k : Nat) (f : Die → Die) : (modDie s k f).sync = s.sync := rfl
@[simp] theorem modDie_queues (s : State) (k : Nat) (f : Die → Die) : (modDie s k f).queues = s.queues := rfl
@[simp] theorem modDie_rrNext (s : State) (k : Nat) (f : Die → Die) : (modDie s k f).rrNext = s.rrNext := rfl
@[simp] theorem modDie_snapshot (s : State) (k : Nat) (f : Die → Die) : (modDie s k f).snapshot = s.snapshot := rfl
@[simp] theorem modDie_measures (s : State) (k : Nat) (f : Die → Die) : (modDie s k f).measures = s.measures := rfl
@[simp] theorem modDie_epochLen (s : State) (k : Nat) (f : Die → Die) : (modDie s k f).epochLen = s.epochLen := rfl
@[simp] theorem modDie_access (s : State) (k : Nat) (f : Die → Die) : (modDie s k f).access = s.access := rfl
@[simp] theorem modDie_counted (s : State) (k : Nat) (f : Die → Die) : (modDie s k f).counted = s.counted := rfl
@[simp] theorem modDie_promote (s : State) (k : Nat) (f : Die → Die) : (modDie s k f).promote = s.promote := rfl
@[simp] theorem modDie_demote (s : State) (k : Nat) (f : Die → Die) : (modDie s k f).demote = s.demote := rfl
@[simp] theorem modDie_promoted (s : State) (k : Nat) (f : Die → Die) : (modDie s k f).promoted = s.promoted := rfl
@[simp] theorem modDie_lastPromoted (s : State) (k : Nat) (f : Die → Die) : (modDie s k f).lastPromoted = s.lastPromoted := rfl
@[simp] theorem modDie_migrations (s : State) (k : Nat) (f : Die → Die) : (modDie s k f).migrations = s.migrations := rfl
@[simp] theorem modDie_links (s : State) (k : Nat) (f : Die → Die) : (modDie s k f).links = s.links := rfl
@[simp] theorem modDie_telemetry (s : State) (k : Nat) (f : Die → Die) : (modDie s k f).telemetry = s.telemetry := rfl
@[simp] theorem modDie_msix (s : State) (k : Nat) (f : Die → Die) : (modDie s k f).msix = s.msix := rfl
@[simp] theorem modDie_hostData (s : State) (k : Nat) (f : Die → Die) : (modDie s k f).hostData = s.hostData := rfl
@[simp] theorem modDie_contexts (s : State) (k : Nat) (f : Die → Die) : (modDie s k f).contexts = s.contexts := rfl
@[simp] theorem modDie_tasks (s : State) (k : Nat) (f : Die → Die) : (modDie s k f).tasks = s.tasks := rfl
@[simp] theorem modDie_cores (s : State) (k : Nat) (f : Die → Die) : (modDie s k f).cores = s.cores := rfl
@[simp] theorem modDie_grids (s : State) (k : Nat) (f : Die → Die) : (modDie s k f).grids = s.grids := rfl
@[simp] theorem modDie_teams (s : State) (k : Nat) (f : Die → Die) : (modDie s k f).teams = s.teams := rfl
@[simp] theorem modDie_groups (s : State) (k : Nat) (f : Die → Die) : (modDie s k f).groups = s.groups := rfl
@[simp] theorem modDie_ops (s : State) (k : Nat) (f : Die → Die) : (modDie s k f).ops = s.ops := rfl
@[simp] theorem modDie_agenda (s : State) (k : Nat) (f : Die → Die) : (modDie s k f).agenda = s.agenda := rfl
@[simp] theorem modDie_cur (s : State) (k : Nat) (f : Die → Die) : (modDie s k f).cur = s.cur := rfl
@[simp] theorem modDie_tick (s : State) (k : Nat) (f : Die → Die) : (modDie s k f).tick = s.tick := rfl
@[simp] theorem modDie_nextId (s : State) (k : Nat) (f : Die → Die) : (modDie s k f).nextId = s.nextId := rfl
theorem modDie_only (s : State) (k : Nat) (f : Die → Die) : modDie s k f = { s with dies := (modDie s k f).dies } := rfl

/-! ### Tables -/

theorem find_replace {α : Type} (key : α → Nat) (x : α) (l : List α) (n : Nat) :
    (l.map (fun y => if key y == key x then x else y)).find? (fun y => key y == n) =
      if n = key x then (l.find? (fun y => key y == n)).map (fun _ => x) else l.find? (fun y => key y == n) := by
  induction l with
  | nil => by_cases h : n = key x <;> simp [h]
  | cons y l ih =>
    by_cases hx : key y = key x
    · by_cases h : n = key x
      · subst h; simp [hx]
      · have h1 : ¬ key x = n := fun q => h q.symm
        have h2 : ¬ key y = n := fun q => h (by omega)
        simp [hx, h, h1] at ih ⊢
        exact ih
    · by_cases hn : key y = n
      · have h : ¬ n = key x := fun q => hx (by omega)
        simp [hn, h]
      · have hn' : (key y == n) = false := by simpa using hn
        have hx' : (key y == key x) = false := by simpa using hx
        simp only [List.map_cons, hx', Bool.false_eq_true, if_false, List.find?_cons, hn', ih]

theorem getGroup_setGroup (s : State) (x : Group) (n : Nat) :
    getGroup (setGroup s x) n = if n = x.id then (getGroup s n).map (fun _ => x) else getGroup s n := find_replace (α := Group) (·.id) x s.groups n

theorem getGroup_id {s : State} {n : Nat} {x : Group} (h : getGroup s n = some x) : x.id = n := by
  simpa using List.find?_some h

theorem getGroup_setGroup_self {s : State} {n : Nat} {x y : Group} (h : getGroup s n = some y) (hx : x.id = n) :
    getGroup (setGroup s x) n = some x := by simp [getGroup_setGroup, hx, h]

theorem getGroup_setGroup_other (s : State) {n : Nat} {x : Group} (hx : n ≠ x.id) : getGroup (setGroup s x) n = getGroup s n := by
  simp [getGroup_setGroup, hx]

theorem modGroup_of {s : State} {n : Nat} {x : Group} (f : Group → Group) (h : getGroup s n = some x) :
    modGroup s n f = setGroup s (f x) := by simp [modGroup, h]

theorem getGroup_modGroup (s : State) (n : Nat) (f : Group → Group) (hf : ∀ x, (f x).id = x.id) (k : Nat) :
    getGroup (modGroup s n f) k = if k = n then (getGroup s n).map f else getGroup s k := by
  cases h : getGroup s n with
  | none =>
    by_cases hk : k = n
    · subst hk; simp [modGroup, h]
    · simp [modGroup, h, hk]
  | some x =>
    have hx := getGroup_id h
    rw [modGroup_of f h, getGroup_setGroup, hf, hx]
    by_cases hk : k = n
    · subst hk; simp [h]
    · simp [hk]

theorem getTeam_setTeam (s : State) (x : Team) (n : Nat) :
    getTeam (setTeam s x) n = if n = x.id then (getTeam s n).map (fun _ => x) else getTeam s n := find_replace (α := Team) (·.id) x s.teams n

theorem getTeam_id {s : State} {n : Nat} {x : Team} (h : getTeam s n = some x) : x.id = n := by
  simpa using List.find?_some h

theorem getTeam_setTeam_self {s : State} {n : Nat} {x y : Team} (h : getTeam s n = some y) (hx : x.id = n) :
    getTeam (setTeam s x) n = some x := by simp [getTeam_setTeam, hx, h]

theorem getTeam_setTeam_other (s : State) {n : Nat} {x : Team} (hx : n ≠ x.id) : getTeam (setTeam s x) n = getTeam s n := by
  simp [getTeam_setTeam, hx]

theorem modTeam_of {s : State} {n : Nat} {x : Team} (f : Team → Team) (h : getTeam s n = some x) :
    modTeam s n f = setTeam s (f x) := by simp [modTeam, h]

theorem getTeam_modTeam (s : State) (n : Nat) (f : Team → Team) (hf : ∀ x, (f x).id = x.id) (k : Nat) :
    getTeam (modTeam s n f) k = if k = n then (getTeam s n).map f else getTeam s k := by
  cases h : getTeam s n with
  | none =>
    by_cases hk : k = n
    · subst hk; simp [modTeam, h]
    · simp [modTeam, h, hk]
  | some x =>
    have hx := getTeam_id h
    rw [modTeam_of f h, getTeam_setTeam, hf, hx]
    by_cases hk : k = n
    · subst hk; simp [h]
    · simp [hk]

theorem getGrid_setGrid (s : State) (x : Grid) (n : Nat) :
    getGrid (setGrid s x) n = if n = x.id then (getGrid s n).map (fun _ => x) else getGrid s n := find_replace (α := Grid) (·.id) x s.grids n

theorem getGrid_id {s : State} {n : Nat} {x : Grid} (h : getGrid s n = some x) : x.id = n := by
  simpa using List.find?_some h

theorem getGrid_setGrid_self {s : State} {n : Nat} {x y : Grid} (h : getGrid s n = some y) (hx : x.id = n) :
    getGrid (setGrid s x) n = some x := by simp [getGrid_setGrid, hx, h]

theorem getGrid_setGrid_other (s : State) {n : Nat} {x : Grid} (hx : n ≠ x.id) : getGrid (setGrid s x) n = getGrid s n := by
  simp [getGrid_setGrid, hx]

theorem modGrid_of {s : State} {n : Nat} {x : Grid} (f : Grid → Grid) (h : getGrid s n = some x) :
    modGrid s n f = setGrid s (f x) := by simp [modGrid, h]

theorem getGrid_modGrid (s : State) (n : Nat) (f : Grid → Grid) (hf : ∀ x, (f x).id = x.id) (k : Nat) :
    getGrid (modGrid s n f) k = if k = n then (getGrid s n).map f else getGrid s k := by
  cases h : getGrid s n with
  | none =>
    by_cases hk : k = n
    · subst hk; simp [modGrid, h]
    · simp [modGrid, h, hk]
  | some x =>
    have hx := getGrid_id h
    rw [modGrid_of f h, getGrid_setGrid, hf, hx]
    by_cases hk : k = n
    · subst hk; simp [h]
    · simp [hk]

theorem getCtx_setCtx (s : State) (x : Context) (n : Nat) :
    getCtx (setCtx s x) n = if n = x.num then (getCtx s n).map (fun _ => x) else getCtx s n := find_replace (α := Context) (·.num) x s.contexts n

theorem getCtx_num {s : State} {n : Nat} {x : Context} (h : getCtx s n = some x) : x.num = n := by
  simpa using List.find?_some h

theorem getCtx_setCtx_self {s : State} {n : Nat} {x y : Context} (h : getCtx s n = some y) (hx : x.num = n) :
    getCtx (setCtx s x) n = some x := by simp [getCtx_setCtx, hx, h]

theorem getCtx_setCtx_other (s : State) {n : Nat} {x : Context} (hx : n ≠ x.num) : getCtx (setCtx s x) n = getCtx s n := by
  simp [getCtx_setCtx, hx]

theorem modCtx_of {s : State} {n : Nat} {x : Context} (f : Context → Context) (h : getCtx s n = some x) :
    modCtx s n f = setCtx s (f x) := by simp [modCtx, h]

theorem getCtx_modCtx (s : State) (n : Nat) (f : Context → Context) (hf : ∀ x, (f x).num = x.num) (k : Nat) :
    getCtx (modCtx s n f) k = if k = n then (getCtx s n).map f else getCtx s k := by
  cases h : getCtx s n with
  | none =>
    by_cases hk : k = n
    · subst hk; simp [modCtx, h]
    · simp [modCtx, h, hk]
  | some x =>
    have hx := getCtx_num h
    rw [modCtx_of f h, getCtx_setCtx, hf, hx]
    by_cases hk : k = n
    · subst hk; simp [h]
    · simp [hk]

theorem getOp_setOp (s : State) (x : EngineOp) (n : Nat) :
    getOp (setOp s x) n = if n = x.id then (getOp s n).map (fun _ => x) else getOp s n := find_replace (α := EngineOp) (·.id) x s.ops n

theorem getOp_id {s : State} {n : Nat} {x : EngineOp} (h : getOp s n = some x) : x.id = n := by
  simpa using List.find?_some h

theorem getOp_setOp_self {s : State} {n : Nat} {x y : EngineOp} (h : getOp s n = some y) (hx : x.id = n) :
    getOp (setOp s x) n = some x := by simp [getOp_setOp, hx, h]

theorem getOp_setOp_other (s : State) {n : Nat} {x : EngineOp} (hx : n ≠ x.id) : getOp (setOp s x) n = getOp s n := by
  simp [getOp_setOp, hx]

theorem getDie_setDie (s : State) (k : Nat) (x : Die) (j : Nat) :
    getDie (setDie s k x) j = if j = k then x else getDie s j := getD_putAt ({} : Die) s.dies k x j

theorem getDie_modDie (s : State) (k : Nat) (f : Die → Die) (j : Nat) :
    getDie (modDie s k f) j = if j = k then f (getDie s k) else getDie s j := getDie_setDie _ _ _ _

theorem getCore_setCore (s : State) (c : Nat) (x : Core) (j : Nat) :
    getCore (setCore s c x) j = if j = c then x else getCore s j := by
  by_cases h : j = c
  · subst h; simp [getCore, setCore]
  · have h' : ¬ c = j := fun q => h q.symm
    have : ∀ l : List (Nat × Core), (l.filter (·.1 != c)).find? (·.1 == j) = l.find? (·.1 == j) := by
      intro l
      induction l with
      | nil => rfl
      | cons y l ih =>
        by_cases hy : y.1 = c
        · have hj : ¬ y.1 = j := by omega
          simp [hy, ih, h']
        · by_cases hj : y.1 = j
          · simp [hj, h]
          · have hj' : (y.1 == j) = false := by simpa using hj
            have hy' : (y.1 != c) = true := by simpa using hy
            simp only [List.filter_cons, hy', if_true, List.find?_cons, hj', ih]
    simp [getCore, setCore, h, h', this]

theorem getCore_modCore (s : State) (c : Nat) (f : Core → Core) (j : Nat) :
    getCore (modCore s c f) j = if j = c then f (getCore s c) else getCore s j := getCore_setCore _ _ _ _

end Sys2Proof.Machine
end

