-- ==== Sys2Proof/Laws/Issue.lean ====
section
/-! SUPPORT. What issuing a word does, once for every instruction: a clean issue runs the word's own work, a finished word
leaves its group in sequence, a stop is a fault or a wait. -/

namespace Sys2Proof.Machine

theorem setSlot_frame (e : Entry) (k : Nat) (m : Cells 64) :
    (setSlot e k m).word = e.word ∧ (setSlot e k m).addr = e.addr ∧ (setSlot e k m).active = e.active ∧
    (setSlot e k m).mode = e.mode ∧ (setSlot e k m).cond0 = e.cond0 ∧ (setSlot e k m).cond1 = e.cond1 ∧
    (setSlot e k m).vec = e.vec ∧ (setSlot e k m).tag = e.tag ∧ (setSlot e k m).lanesDone = e.lanesDone ∧
    (setSlot e k m).partials = e.partials ∧ (setSlot e k m).first = e.first ∧ (setSlot e k m).valid = e.valid ∧
    (setSlot e k m).faulting = e.faulting ∧ (setSlot e k m).whole = e.whole := by
  unfold setSlot; split
  · simp
  · split <;> simp

/-- What capturing leaves of an entry: only its operands and their flags change. -/
def SameHead (a b : Entry) : Prop :=
  a.word = b.word ∧ a.addr = b.addr ∧ a.active = b.active ∧ a.mode = b.mode ∧ a.cond0 = b.cond0 ∧ a.cond1 = b.cond1 ∧
  a.vec = b.vec ∧ a.tag = b.tag ∧ a.lanesDone = b.lanesDone ∧ a.partials = b.partials ∧ a.first = b.first ∧
  a.valid = b.valid ∧ a.faulting = b.faulting ∧ a.whole = b.whole

theorem SameHead.refl (a : Entry) : SameHead a a := by simp [SameHead]

theorem SameHead.trans {a b c : Entry} (h : SameHead a b) (k : SameHead b c) : SameHead a c := by
  unfold SameHead at *; simp_all

theorem sameHead_setSlot (e : Entry) (k : Nat) (m : Cells 64) : SameHead (setSlot e k m) e := setSlot_frame e k m

theorem sameHead_placeExtra (v : Bool) (e : Entry) (x : Place × Cells 64) : SameHead (placeExtra v e x) e := by
  unfold placeExtra; split <;> exact sameHead_setSlot _ _ _

theorem sameHead_foldl {α : Type} (f : Entry → α → Entry) (hf : ∀ e a, SameHead (f e a) e) (l : List α) (e : Entry) :
    SameHead (l.foldl f e) e := by
  induction l generalizing e with
  | nil => exact .refl e
  | cons a l ih => exact (ih (f e a)).trans (hf e a)

theorem sameHead_captureSlot (g : Group) (vec : Bool) (live : BitVec 3) (k : Nat) (rd : Bool) (na : Nat) (pair : Bool)
    (f : Option (Role × Opnd)) (e : Entry) : SameHead (captureSlot g vec live k rd na pair f e) e := by
  unfold captureSlot
  split
  · have h := sameHead_setSlot e k (capture g vec na pair ‹Opnd›)
    dsimp only
    split
    · split
      · exact .trans (by simp [SameHead]) h
      · exact h
    · exact h
  · exact .refl _

/-- Capturing operands changes only the operand slots of an entry. -/
theorem sameHead_captureAll (g : Group) (i : Instr) (p : Plan) (places : List Place) (live : BitVec 3) (e : Entry) :
    SameHead (captureAll g i p places live e) e := by
  have h0 := sameHead_captureSlot g p.vec live 0 p.readA p.naA p.pairA i.form.a e
  have h1 := (sameHead_captureSlot g p.vec live 1 p.readB p.naB p.pairB i.form.b _).trans h0
  have h2 := (sameHead_captureSlot g p.vec live 2 p.readD p.naD p.pairD i.form.d _).trans h1
  have h3 := (sameHead_foldl _ (fun e a => sameHead_placeExtra p.vec e (a.1, captureExtra g a.2))
    ((places.zip p.extra).filter (fun x => live.getLsbD x.1.slot)) _).trans h2
  exact SameHead.trans (by unfold SameHead; simp [captureAll]) h3

/-- The lanes that a word works on at issue: its plan's, or every lane of `em` for a word that does not act lane by lane (03
R59, 21 R345). -/
def issueLanes (x : Issue) (plan : Issue → Plan) : BitVec 64 :=
  let p := plan (freshIssue x.i x.s x.g x.e.word)
  if p.vec || p.byLane then p.active else emSet x.g

/-- What a word that is ready to issue is. -/
theorem readyIssue_facts {i : Instr} {s : State} {plan : Issue → Plan} {places : List Place} {x : Issue}
    (h : readyIssue i s plan places = some x) :
    x.s = s ∧ x.i = i ∧ x.fresh = true ∧ s.cur.bind (getGroup s) = some x.g ∧ getGroup s x.g.id = some x.g ∧ x.g.rq = [] ∧
    encode i = some x.e.word ∧
    SameHead x.e { (freshIssue i s x.g x.e.word).e with
      active := issueLanes x plan
      whole := issueLanes x plan
      cond0 := (plan (freshIssue i s x.g x.e.word)).cond0
      cond1 := (plan (freshIssue i s x.g x.e.word)).cond1
      vec := (plan (freshIssue i s x.g x.e.word)).vec } := by
  unfold readyIssue at h
  split at h
  · rename_i g w hg hw
    dsimp only at h
    split at h
    · rename_i hc
      simp only [Bool.and_eq_true] at hc
      have hx := Option.some.inj h
      have hG : x.g = g := by rw [← hx]; rfl
      have hS : x.s = s := by rw [← hx]; rfl
      have hI : x.i = i := by rw [← hx]; rfl
      have hW : x.e.word = w := by rw [← hx]; exact (sameHead_captureAll _ _ _ _ _ _).1
      obtain ⟨n, hn, hgn⟩ := Option.bind_eq_some_iff.1 hg
      have hid := getGroup_id hgn
      refine ⟨hS, hI, by rw [← hx]; rfl, by rw [hG]; exact hg, by rw [hG, hid]; exact hgn, ?_, by rw [hW]; exact hw, ?_⟩
      · rw [hG]; simpa using hc.1.1.1
      · unfold issueLanes
        rw [hS, hI, hG, hW, ← hx]
        exact sameHead_captureAll _ _ _ _ _ _
    · cases h
  · cases h

/-- A clean issue is a ready one of a group without an uncorrectable error in its registers. -/
theorem cleanIssue_iff {i : Instr} {s : State} {plan : Issue → Plan} {places : List Place} {x : Issue} :
    cleanIssue i s plan places = some x ↔ readyIssue i s plan places = some x ∧ x.g.badRegs = [] := by
  unfold cleanIssue
  cases h : readyIssue i s plan places with
  | none => simp
  | some y =>
    simp only
    split
    · simp only [Option.some.injEq]
      constructor
      · rintro rfl; exact ⟨rfl, ‹_›⟩
      · rintro ⟨rfl, -⟩; rfl
    · simp only [Option.some.injEq]
      constructor
      · intro h; cases h
      · rintro ⟨rfl, h⟩; contradiction

/-- What a clean issue is. -/
theorem cleanIssue_facts {i : Instr} {s : State} {plan : Issue → Plan} {places : List Place} {x : Issue}
    (h : cleanIssue i s plan places = some x) :
    x.s = s ∧ x.i = i ∧ x.fresh = true ∧ s.cur.bind (getGroup s) = some x.g ∧ getGroup s x.g.id = some x.g ∧ x.g.rq = [] ∧
    encode i = some x.e.word ∧
    SameHead x.e { (freshIssue i s x.g x.e.word).e with
      active := issueLanes x plan
      whole := issueLanes x plan
      cond0 := (plan (freshIssue i s x.g x.e.word)).cond0
      cond1 := (plan (freshIssue i s x.g x.e.word)).cond1
      vec := (plan (freshIssue i s x.g x.e.word)).vec } := readyIssue_facts (cleanIssue_iff.1 h).1

theorem replayAll_nil (s : State) (g : Group) : replayAll s g [] = .inl (s, g) := rfl

theorem sortNats_nil : sortNats [] = [] := rfl

theorem badRegister_none (g : Group) (p : Plan) (l : List Nat) (h : g.badRegs = []) : badRegister g p l = none := by
  simp [badRegister, badLaneOf, h]

theorem badLaneOf_none (g : Group) (p : Plan) (l : List Nat) (h : g.badRegs = []) : badLaneOf g p l = none := by
  simp [badLaneOf, h]

/-- Where a group's registers held no error, none is healed. -/
theorem healRegs_clean {g : Group} {p : Plan} {done : Nat → Bool} {s : State} (h : g.badRegs = []) :
    healRegs g p done s = s := by simp [healRegs, h]

/-- What the word's own work leaves, once its end has been seen to. -/
def ran (x : Issue) (body : Issue → Except Stop Done) : State :=
  match body x with
  | .ok d => finish x d
  | .error st => stopWord x st

/-- A clean issue runs the word's own work. -/
theorem runWord_clean {i : Instr} {s : State} {plan : Issue → Plan} {places : List Place} {x : Issue}
    (body : Issue → Except Stop Done) (h : cleanIssue i s plan places = some x) :
    runWord i s plan places body = .next (ran x body) := by
  obtain ⟨h, hbad⟩ := cleanIssue_iff.1 h
  unfold readyIssue at h
  split at h
  · rename_i g w hg hw
    dsimp only at h
    split at h
    · rename_i hc
      simp only [Bool.and_eq_true, Bool.not_eq_true', Option.isNone_iff_eq_none] at hc
      obtain ⟨⟨⟨hq, hchk⟩, hdrop⟩, hfro⟩ := hc
      have hx := Option.some.inj h
      have hq : g.rq = [] := by simpa using hq
      have hd : ∀ l : List Nat, l.any (isDropped g) = false → l.filter (isDropped g) = [] := by
        intro l hl
        simpa [List.filter_eq_nil_iff] using hl
      subst hx
      have hW := (sameHead_captureAll g i (plan (freshIssue i s g w)) ((plan (freshIssue i s g w)).placesOr places) 7
        { (freshIssue i s g w).e with
          active := if (plan (freshIssue i s g w)).vec || (plan (freshIssue i s g w)).byLane then
            (plan (freshIssue i s g w)).active else emSet g
          whole := if (plan (freshIssue i s g w)).vec || (plan (freshIssue i s g w)).byLane then
            (plan (freshIssue i s g w)).active else emSet g
          cond0 := (plan (freshIssue i s g w)).cond0, cond1 := (plan (freshIssue i s g w)).cond1
          vec := (plan (freshIssue i s g w)).vec }).1
      unfold runWord
      rw [hg, hw]
      simp only [hq]
      congr 1
      unfold runPlan ran
      simp only [freshIssue] at hchk hdrop hfro hbad hW ⊢
      simp only [if_true, hchk, hd _ hdrop, sortNats_nil, replayAll_nil, hfro, badRegister_none _ _ _ hbad, badLaneOf_none _ _ _ hbad, ite_self, healRegs_clean hbad]
      all_goals rfl
    · cases h
  · cases h

/-- A word that finishes in sequence leaves its group so. -/
theorem finish_ok {x : Issue} {s : State} {g : Group} (hf : x.fresh = true) (ha : x.e.addr = x.g.pc)
    (hg : getGroup s x.g.id = some g) (hq : g.rq = []) (hc : g.runCount = x.g.runCount) (hw : g.runWords = x.g.runWords) :
    finish x (.ok s) = setGroup s (sequenced x g) := by
  simp only [finish]
  rw [modGroup_of _ hg]
  have hr : runOver x.e (advance x g) = runEnds x := by
    simp [runOver, advance, hf, hq, runEnds, hc]
  rw [hr]
  cases h : runEnds x
  · simp [advance, hf, ha, sequenced, h, hc, hw]
  · cases hk : g.wait.any keepsSlot <;> simp [advance, hf, ha, sequenced, h, hk, endRun]

/-- A word that takes a transfer leaves its group so. -/
theorem finish_go {x : Issue} {s : State} {g : Group} (target : Nat) (hf : x.fresh = true)
    (hg : getGroup s x.g.id = some g) : finish x (.go s target) = setGroup s (transferred g target) := by
  simp only [finish]
  rw [modGroup_of _ hg]
  simp [advance, hf, transferred, endRun]

/-- The word's own fault, at a fresh word. -/
theorem stop_fault {x : Issue} {g : Group} (f : FaultInfo) (hf : x.fresh = true) (hg : getGroup x.s x.g.id = some g)
    (hs : g.stopped = false) :
    stopWord x (.flt f) = takeFault x.s
      { g with pc := x.e.addr + 4, runCount := g.runCount + 1, runWords := x.e.word :: g.runWords } f
      [{ x.e with faulting := true }] 0 x.e.addr (x.e.addr + 4) := by
  simp [stopWord, faultAt, hg, hf, hs]

end Sys2Proof.Machine
end

