-- ==== Sys2Proof/Laws/Memory.lean ====
section
/-! SUPPORT. What the shared memory operations do to physical memory: its bytes after each, that each keeps the canonical form,
and that what is stored at a location reads back. -/

namespace Sys2Proof.Machine

@[simp] theorem healPhys_mem (s : State) (a n : Nat) : (healPhys s a n).mem = s.mem := by
  unfold healPhys; split <;> rfl

@[simp] theorem settle_mem (s : State) (p : Nat → Bool) : (settle s p).mem = s.mem := by unfold settle; split <;> rfl

@[simp] theorem physSet_mem (s : State) (a n x : Nat) : (physSet s a n x).mem = bytesSet s.mem a n x := by simp [physSet]

@[simp] theorem physPut_mem (s : State) (a : Nat) (l : List Byte) : (physPut s a l).mem = bytesPut s.mem a l := by simp [physPut]

@[simp] theorem physFill_mem (s : State) (a n : Nat) (m : Cells 8) :
    (physFill s a n m).mem = cellSetAll (cellClear s.mem a n) (m.map (fun e => (a + e.1, e.2))) := by simp [physFill]

@[simp] theorem clearPad_mem (s : State) (a n : Nat) : (clearPad s a n).mem = cellClear s.mem a n := by simp [clearPad]

@[simp] theorem noteWrite_mem (s : State) (w : Writer) (l : Loc) (n : Nat) : (noteWrite s w l n).mem = s.mem := rfl

/-- A store at a location changes physical memory there, or not at all. -/
theorem locSet_mem (s : State) (l : Loc) (n x : Nat) :
    (locSet s l n x).mem = match l with | .team _ _ => s.mem | .phys a => bytesSet s.mem a n x := by
  cases l <;> simp [locSet]

@[simp] theorem storeBefore_mem (s : State) (w : Writer) (k : Nat) (l : Loc) (n x : Nat) :
    (storeBefore s w k l n x).mem = s.mem := by
  unfold storeBefore; split <;> rfl

/-! ### The canonical form -/

theorem wf_physSet {s : State} (a n x : Nat) (h : Memory.wf s.mem = true) : Memory.wf (physSet s a n x).mem = true := by
  rw [physSet_mem]; exact wf_bytesSet n a x h

theorem wf_physPut {s : State} (a : Nat) (l : List Byte) (h : Memory.wf s.mem = true) : Memory.wf (physPut s a l).mem = true := by
  rw [physPut_mem]; exact wf_bytesPut l a h

theorem wf_physFill {s : State} (a n : Nat) (m : Cells 8) (h : Memory.wf s.mem = true) :
    Memory.wf (physFill s a n m).mem = true := by
  rw [physFill_mem]; exact wf_cellSetAll _ (wf_cellClear a n h)

theorem wf_clearPad {s : State} (a n : Nat) (h : Memory.wf s.mem = true) : Memory.wf (clearPad s a n).mem = true := by
  rw [clearPad_mem]; exact wf_cellClear a n h

theorem wf_locSet {s : State} (l : Loc) (n x : Nat) (h : Memory.wf s.mem = true) : Memory.wf (locSet s l n x).mem = true := by
  rw [locSet_mem]; cases l with
  | team _ _ => exact h
  | phys a => exact wf_bytesSet n a x h

theorem wf_locStore {s : State} (w : Writer) (l : Loc) (n x : Nat) (h : Memory.wf s.mem = true) :
    Memory.wf (locStore s w l n x).mem = true := by
  unfold locStore
  split
  · exact wf_locSet l n x h
  · split
    · simpa using h
    · exact wf_locSet l n x h

theorem wf_nearWrite {s : State} (w : Who) (a n x : Nat) (h : Memory.wf s.mem = true) :
    Memory.wf (nearWrite s w a n x).mem = true := by
  unfold nearWrite; split
  · exact wf_locSet _ n x h
  · exact h

theorem wf_nearStore {s : State} (w : Who) (b : Writer) (a n x : Nat) (h : Memory.wf s.mem = true) :
    Memory.wf (nearStore s w b a n x).mem = true := by
  unfold nearStore; split
  · exact wf_locStore b _ n x h
  · exact h

/-! ### Reading back -/

/-- What is stored at a location that exists reads back. -/
theorem locGet_locSet_self {s : State} (l : Loc) (n x : Nat) (h : ∀ t o, l = .team t o → ∃ y, getTeam s t = some y) :
    locGet (locSet s l n x) l n = x % 256 ^ n := by
  cases l with
  | phys a => simp [locGet, locSet, bytesGet_bytesSet_self]
  | team t o =>
    obtain ⟨y, hy⟩ := h t o rfl
    let f (z : Team) : Team := { z with mem := bytesSet z.mem o n x, bad := z.bad.filter (fun p => !covers o n p 8) }
    have hs : getTeam (modTeam s t f) t = some (f y) := by
      rw [getTeam_modTeam s t f (fun _ => rfl), if_pos rfl, hy]; rfl
    show (match getTeam (modTeam s t f) t with | some x => bytesGet x.mem o n | none => 0) = _
    rw [hs]
    exact bytesGet_bytesSet_self n y.mem o x

end Sys2Proof.Machine
end

