-- ==== Sys2Proof/Laws/Order.lean ====
section
/-! SUPPORT. What the operations of ordering can do (24 R363 to R365): a release without a mask changes what its point carries, an
acquire the acquired writes of its group, and nothing else. -/

namespace Sys2Proof.Machine

/-! ### Points -/

@[simp] theorem replaceAt_flash (s : State) (p : Point) (l : List Nat) : (replaceAt s p l).flash = s.flash := rfl
@[simp] theorem replaceAt_device (s : State) (p : Point) (l : List Nat) : (replaceAt s p l).device = s.device := rfl
@[simp] theorem replaceAt_aperture (s : State) (p : Point) (l : List Nat) : (replaceAt s p l).aperture = s.aperture := rfl
@[simp] theorem replaceAt_mailbox (s : State) (p : Point) (l : List Nat) : (replaceAt s p l).mailbox = s.mailbox := rfl
@[simp] theorem replaceAt_mem (s : State) (p : Point) (l : List Nat) : (replaceAt s p l).mem = s.mem := rfl
@[simp] theorem replaceAt_fe (s : State) (p : Point) (l : List Nat) : (replaceAt s p l).fe = s.fe := rfl
@[simp] theorem replaceAt_bad (s : State) (p : Point) (l : List Nat) : (replaceAt s p l).bad = s.bad := rfl
@[simp] theorem replaceAt_oldEntries (s : State) (p : Point) (l : List Nat) : (replaceAt s p l).oldEntries = s.oldEntries := rfl
@[simp] theorem replaceAt_past (s : State) (p : Point) (l : List Nat) : (replaceAt s p l).past = s.past := rfl
@[simp] theorem replaceAt_age (s : State) (p : Point) (l : List Nat) : (replaceAt s p l).age = s.age := rfl
@[simp] theorem replaceAt_queues (s : State) (p : Point) (l : List Nat) : (replaceAt s p l).queues = s.queues := rfl
@[simp] theorem replaceAt_rrNext (s : State) (p : Point) (l : List Nat) : (replaceAt s p l).rrNext = s.rrNext := rfl
@[simp] theorem replaceAt_snapshot (s : State) (p : Point) (l : List Nat) : (replaceAt s p l).snapshot = s.snapshot := rfl
@[simp] theorem replaceAt_measures (s : State) (p : Point) (l : List Nat) : (replaceAt s p l).measures = s.measures := rfl
@[simp] theorem replaceAt_epochLen (s : State) (p : Point) (l : List Nat) : (replaceAt s p l).epochLen = s.epochLen := rfl
@[simp] theorem replaceAt_access (s : State) (p : Point) (l : List Nat) : (replaceAt s p l).access = s.access := rfl
@[simp] theorem replaceAt_counted (s : State) (p : Point) (l : List Nat) : (replaceAt s p l).counted = s.counted := rfl
@[simp] theorem replaceAt_promote (s : State) (p : Point) (l : List Nat) : (replaceAt s p l).promote = s.promote := rfl
@[simp] theorem replaceAt_demote (s : State) (p : Point) (l : List Nat) : (replaceAt s p l).demote = s.demote := rfl
@[simp] theorem replaceAt_promoted (s : State) (p : Point) (l : List Nat) : (replaceAt s p l).promoted = s.promoted := rfl
@[simp] theorem replaceAt_lastPromoted (s : State) (p : Point) (l : List Nat) : (replaceAt s p l).lastPromoted = s.lastPromoted := rfl
@[simp] theorem replaceAt_migrations (s : State) (p : Point) (l : List Nat) : (replaceAt s p l).migrations = s.migrations := rfl
@[simp] theorem replaceAt_links (s : State) (p : Point) (l : List Nat) : (replaceAt s p l).links = s.links := rfl
@[simp] theorem replaceAt_telemetry (s : State) (p : Point) (l : List Nat) : (replaceAt s p l).telemetry = s.telemetry := rfl
@[simp] theorem replaceAt_msix (s : State) (p : Point) (l : List Nat) : (replaceAt s p l).msix = s.msix := rfl
@[simp] theorem replaceAt_hostData (s : State) (p : Point) (l : List Nat) : (replaceAt s p l).hostData = s.hostData := rfl
@[simp] theorem replaceAt_contexts (s : State) (p : Point) (l : List Nat) : (replaceAt s p l).contexts = s.contexts := rfl
@[simp] theorem replaceAt_dies (s : State) (p : Point) (l : List Nat) : (replaceAt s p l).dies = s.dies := rfl
@[simp] theorem replaceAt_tasks (s : State) (p : Point) (l : List Nat) : (replaceAt s p l).tasks = s.tasks := rfl
@[simp] theorem replaceAt_cores (s : State) (p : Point) (l : List Nat) : (replaceAt s p l).cores = s.cores := rfl
@[simp] theorem replaceAt_grids (s : State) (p : Point) (l : List Nat) : (replaceAt s p l).grids = s.grids := rfl
@[simp] theorem replaceAt_teams (s : State) (p : Point) (l : List Nat) : (replaceAt s p l).teams = s.teams := rfl
@[simp] theorem replaceAt_groups (s : State) (p : Point) (l : List Nat) : (replaceAt s p l).groups = s.groups := rfl
@[simp] theorem replaceAt_ops (s : State) (p : Point) (l : List Nat) : (replaceAt s p l).ops = s.ops := rfl
@[simp] theorem replaceAt_agenda (s : State) (p : Point) (l : List Nat) : (replaceAt s p l).agenda = s.agenda := rfl
@[simp] theorem replaceAt_cur (s : State) (p : Point) (l : List Nat) : (replaceAt s p l).cur = s.cur := rfl
@[simp] theorem replaceAt_tick (s : State) (p : Point) (l : List Nat) : (replaceAt s p l).tick = s.tick := rfl
@[simp] theorem replaceAt_nextId (s : State) (p : Point) (l : List Nat) : (replaceAt s p l).nextId = s.nextId := rfl
theorem replaceAt_only (s : State) (p : Point) (l : List Nat) : replaceAt s p l = { s with sync := (replaceAt s p l).sync } := rfl

@[simp] theorem releaseAt_flash (s : State) (p : Point) (l : List Nat) : (releaseAt s p l).flash = s.flash := rfl
@[simp] theorem releaseAt_device (s : State) (p : Point) (l : List Nat) : (releaseAt s p l).device = s.device := rfl
@[simp] theorem releaseAt_aperture (s : State) (p : Point) (l : List Nat) : (releaseAt s p l).aperture = s.aperture := rfl
@[simp] theorem releaseAt_mailbox (s : State) (p : Point) (l : List Nat) : (releaseAt s p l).mailbox = s.mailbox := rfl
@[simp] theorem releaseAt_mem (s : State) (p : Point) (l : List Nat) : (releaseAt s p l).mem = s.mem := rfl
@[simp] theorem releaseAt_fe (s : State) (p : Point) (l : List Nat) : (releaseAt s p l).fe = s.fe := rfl
@[simp] theorem releaseAt_bad (s : State) (p : Point) (l : List Nat) : (releaseAt s p l).bad = s.bad := rfl
@[simp] theorem releaseAt_oldEntries (s : State) (p : Point) (l : List Nat) : (releaseAt s p l).oldEntries = s.oldEntries := rfl
@[simp] theorem releaseAt_past (s : State) (p : Point) (l : List Nat) : (releaseAt s p l).past = s.past := rfl
@[simp] theorem releaseAt_age (s : State) (p : Point) (l : List Nat) : (releaseAt s p l).age = s.age := rfl
@[simp] theorem releaseAt_queues (s : State) (p : Point) (l : List Nat) : (releaseAt s p l).queues = s.queues := rfl
@[simp] theorem releaseAt_rrNext (s : State) (p : Point) (l : List Nat) : (releaseAt s p l).rrNext = s.rrNext := rfl
@[simp] theorem releaseAt_snapshot (s : State) (p : Point) (l : List Nat) : (releaseAt s p l).snapshot = s.snapshot := rfl
@[simp] theorem releaseAt_measures (s : State) (p : Point) (l : List Nat) : (releaseAt s p l).measures = s.measures := rfl
@[simp] theorem releaseAt_epochLen (s : State) (p : Point) (l : List Nat) : (releaseAt s p l).epochLen = s.epochLen := rfl
@[simp] theorem releaseAt_access (s : State) (p : Point) (l : List Nat) : (releaseAt s p l).access = s.access := rfl
@[simp] theorem releaseAt_counted (s : State) (p : Point) (l : List Nat) : (releaseAt s p l).counted = s.counted := rfl
@[simp] theorem releaseAt_promote (s : State) (p : Point) (l : List Nat) : (releaseAt s p l).promote = s.promote := rfl
@[simp] theorem releaseAt_demote (s : State) (p : Point) (l : List Nat) : (releaseAt s p l).demote = s.demote := rfl
@[simp] theorem releaseAt_promoted (s : State) (p : Point) (l : List Nat) : (releaseAt s p l).promoted = s.promoted := rfl
@[simp] theorem releaseAt_lastPromoted (s : State) (p : Point) (l : List Nat) : (releaseAt s p l).lastPromoted = s.lastPromoted := rfl
@[simp] theorem releaseAt_migrations (s : State) (p : Point) (l : List Nat) : (releaseAt s p l).migrations = s.migrations := rfl
@[simp] theorem releaseAt_links (s : State) (p : Point) (l : List Nat) : (releaseAt s p l).links = s.links := rfl
@[simp] theorem releaseAt_telemetry (s : State) (p : Point) (l : List Nat) : (releaseAt s p l).telemetry = s.telemetry := rfl
@[simp] theorem releaseAt_msix (s : State) (p : Point) (l : List Nat) : (releaseAt s p l).msix = s.msix := rfl
@[simp] theorem releaseAt_hostData (s : State) (p : Point) (l : List Nat) : (releaseAt s p l).hostData = s.hostData := rfl
@[simp] theorem releaseAt_contexts (s : State) (p : Point) (l : List Nat) : (releaseAt s p l).contexts = s.contexts := rfl
@[simp] theorem releaseAt_dies (s : State) (p : Point) (l : List Nat) : (releaseAt s p l).dies = s.dies := rfl
@[simp] theorem releaseAt_tasks (s : State) (p : Point) (l : List Nat) : (releaseAt s p l).tasks = s.tasks := rfl
@[simp] theorem releaseAt_cores (s : State) (p : Point) (l : List Nat) : (releaseAt s p l).cores = s.cores := rfl
@[simp] theorem releaseAt_grids (s : State) (p : Point) (l : List Nat) : (releaseAt s p l).grids = s.grids := rfl
@[simp] theorem releaseAt_teams (s : State) (p : Point) (l : List Nat) : (releaseAt s p l).teams = s.teams := rfl
@[simp] theorem releaseAt_groups (s : State) (p : Point) (l : List Nat) : (releaseAt s p l).groups = s.groups := rfl
@[simp] theorem releaseAt_ops (s : State) (p : Point) (l : List Nat) : (releaseAt s p l).ops = s.ops := rfl
@[simp] theorem releaseAt_agenda (s : State) (p : Point) (l : List Nat) : (releaseAt s p l).agenda = s.agenda := rfl
@[simp] theorem releaseAt_cur (s : State) (p : Point) (l : List Nat) : (releaseAt s p l).cur = s.cur := rfl
@[simp] theorem releaseAt_tick (s : State) (p : Point) (l : List Nat) : (releaseAt s p l).tick = s.tick := rfl
@[simp] theorem releaseAt_nextId (s : State) (p : Point) (l : List Nat) : (releaseAt s p l).nextId = s.nextId := rfl
theorem releaseAt_only (s : State) (p : Point) (l : List Nat) : releaseAt s p l = { s with sync := (releaseAt s p l).sync } := rfl

@[simp] theorem mem_joinAges (a b : List Nat) (x : Nat) : x ∈ joinAges a b ↔ x ∈ a ∨ x ∈ b := by
  by_cases h : x ∈ a <;> simp [joinAges, h]

theorem find_without (p q : Point) (h : q ≠ p) (l : List Sync) :
    (l.filter (fun y => y.point != p)).find? (fun y => y.point == q) = l.find? (fun y => y.point == q) := by
  induction l with
  | nil => rfl
  | cons y l ih =>
    by_cases hy : y.point = p
    · have hq : ¬(y.point = q) := fun e => h (e.symm.trans hy)
      simpa [List.find?_cons, hy, show ¬(p = q) from fun e => h e.symm] using ih
    · by_cases hq : y.point = q <;> simp [List.find?_cons, hy, hq, ih]
      · simp [show ¬(q = p) from h]

/-- A point carries what was left there last. -/
theorem released_replaceAt (s : State) (p q : Point) (l : List Nat) :
    released (replaceAt s p l) q = if q = p then l else released s q := by
  by_cases h : q = p
  · subst h
    by_cases e : l = []
    · subst e
      have : (s.sync.filter (fun y => y.point != q)).find? (fun y => y.point == q) = none := by
        simp [List.find?_eq_none]
      simp [released, replaceAt, this]
    · simp [released, replaceAt, List.isEmpty_iff, e]
  · have hw := find_without p q h s.sync
    have hp : ¬(p = q) := fun e => h e.symm
    by_cases e : l = [] <;> simp [released, replaceAt, List.isEmpty_iff, e, h, hp, hw]

/-- A release beside others adds to what its point carries, and to no other's. -/
theorem mem_released_releaseAt (s : State) (p q : Point) (l : List Nat) (x : Nat) :
    x ∈ released (releaseAt s p l) q ↔ x ∈ released s q ∨ (q = p ∧ x ∈ l) := by
  by_cases h : q = p <;> simp [releaseAt, released_replaceAt, h]

/-! ### Acquiring -/

@[simp] theorem acquireAges_nil (s : State) (g : Nat) : acquireAges s g [] = s := rfl

/-- An acquire changes the table of groups alone. -/
theorem acquireAges_only (s : State) (g : Nat) (l : List Nat) :
    acquireAges s g l = { s with groups := (acquireAges s g l).groups } := by
  unfold acquireAges; split
  · rfl
  · exact modGroup_only s g _

@[simp] theorem acquireAges_mem (s : State) (g : Nat) (l : List Nat) : (acquireAges s g l).mem = s.mem := by
  rw [acquireAges_only]
@[simp] theorem acquireAges_past (s : State) (g : Nat) (l : List Nat) : (acquireAges s g l).past = s.past := by
  rw [acquireAges_only]

/-- The group that has acquired, with nothing else changed. -/
theorem getGroup_acquireAges {s : State} {n : Nat} {g : Group} (l : List Nat) (h : getGroup s n = some g) :
    getGroup (acquireAges s n l) n = some { g with acquired := if l = [] then g.acquired else acquiredToo g.acquired g.arms l } := by
  by_cases e : l = []
  · simpa [e] using h
  · simp only [acquireAges, if_neg e]
    rw [getGroup_modGroup s n (fun x : Group => { x with acquired := acquiredToo x.acquired x.arms l }) (fun _ => rfl),
      if_pos rfl, h]; rfl

/-! ### What every reader observes at once -/

/-- Settling changes the record of writes alone. -/
theorem settle_only (s : State) (p : Nat → Bool) : settle s p = { s with past := (settle s p).past } := by
  unfold settle; split <;> rfl

/-- A store that no reader can miss, over no write that is kept, is a plain write. -/
theorem locStore_alone {s : State} {w : Writer} (l : Loc) (n x : Nat) (h : missable s w = false)
    (hp : s.past.all (fun r => !r.meets l n) = true) : locStore s w l n x = locSet s l n x := by
  unfold locStore; rw [h, hp]; rfl

/-- A read where no write is kept gives the latest value. -/
theorem locSeen_settled {s : State} (v : View) (l : Loc) (n : Nat) (h : s.past = []) : locSeen s v l n = locGet s l n := by
  simp [locSeen, h]

end Sys2Proof.Machine
end

