-- ==== Sys2Proof/Laws/Write.lean ====
section
/-! SUPPORT. What writing a result does: a vector result and a scalar result (03 R54, R55, R59), the end of a recipe (08
R157), the charge of events (04 R83). -/

namespace Sys2Proof.Machine

/-! ### Vector registers -/

theorem vWrite_get (v : Cells 32) (r width : Nat) (pair : Bool) (f : Nat → Nat) (k i : Nat) (hi : i < 64) :
    (cellGet (vWrite v r width pair f) (k * 64 + i)).toNat =
      if i < width ∧ k = r then f i % 2 ^ 32
      else if i < width ∧ pair = true ∧ k = r + 1 then f i / 2 ^ 32 % 2 ^ 32
      else (cellGet v (k * 64 + i)).toNat := by
  have gen : ∀ (l : List Nat) (v : Cells 32), (∀ j ∈ l, j < 64) →
      (cellGet (l.foldl (fun v i => let v := vSet v r i (f i); if pair then vSet v (r + 1) i (f i / 2 ^ 32) else v) v)
        (k * 64 + i)).toNat =
      if i ∈ l ∧ k = r then f i % 2 ^ 32
      else if i ∈ l ∧ pair = true ∧ k = r + 1 then f i / 2 ^ 32 % 2 ^ 32
      else (cellGet v (k * 64 + i)).toNat := by
    intro l
    induction l with
    | nil => intro v _; simp
    | cons j l ih =>
      intro v hl
      have hj : j < 64 := hl j (by simp)
      rw [List.foldl_cons, ih _ (fun j h => hl j (by simp [h]))]
      have key : ∀ c, (k * 64 + i = c * 64 + j) ↔ (k = c ∧ i = j) := by intro c; omega
      by_cases hm : i ∈ l
      · by_cases hk : k = r
        · simp [hm, hk]
        · by_cases hk' : pair = true ∧ k = r + 1
          · simp [hm, hk'.1, hk'.2]
          · have hp : ¬ (pair = true ∧ k = r + 1) := hk'
            cases pair <;> simp_all [vSet, cellGet_cellSet]
      · by_cases hij : i = j
        · subst hij
          cases pair <;> by_cases hk : k = r <;> by_cases hk' : k = r + 1 <;> simp_all [vSet, cellGet_cellSet]
        · cases pair <;> simp [hm, hij, vSet, cellGet_cellSet, key]
  have h := gen (List.range (min width 64)) v (fun j h => by have := List.mem_range.1 h; omega)
  rw [vWrite, h]
  simp only [List.mem_range]
  have e : i < min width 64 ↔ i < width := by omega
  simp [e]

/-! ### Recipes and events -/

theorem dropSealRefs_only (s : State) (c : Nat) (l : List Nat) :
    dropSealRefs s c l = { s with contexts := (dropSealRefs s c l).contexts } := modCtx_only _ _ _

theorem endRefs_only (s : State) (g : Group) (c : Nat) : endRefs s g c = { s with contexts := (endRefs s g c).contexts } := by
  unfold endRefs; split
  · rfl
  · exact dropSealRefs_only _ _ _

@[simp] theorem endedRecipe_id (g : Group) (c : Nat) : (endedRecipe g c).id = g.id := by unfold endedRecipe; split <;> rfl

@[simp] theorem afterWrite_id (g : Group) (t : Bool) (r : Nat) (pair : Bool) : (afterWrite g t r pair).id = g.id := by
  unfold afterWrite; cases t <;> cases pair <;> simp <;> split <;> simp

theorem afterWriteState_only (s : State) (g : Group) (t : Bool) (r : Nat) (pair : Bool) :
    afterWriteState s g t r pair = { s with contexts := (afterWriteState s g t r pair).contexts } := by
  unfold afterWriteState
  cases t
  · cases pair
    · exact endRefs_only _ _ _
    · simp only [Bool.false_eq_true, if_false, if_true]
      rw [endRefs_only (endRefs s g r), endRefs_only s]
  · rfl

/-- A context but for the references that recipes hold to its seal entries. -/
def Context.noRefs (c : Context) : Context := { c with seals := c.seals.map (fun (e : Seal) => { e with refs := 0 }) }

theorem getCtx_dropSealRefs (s : State) (c : Nat) (l : List Nat) (k : Nat) :
    (getCtx (dropSealRefs s c l) k).map Context.noRefs = (getCtx s k).map Context.noRefs := by
  unfold dropSealRefs
  rw [getCtx_modCtx _ _ _ (by intro x; rfl)]
  split
  · rename_i h
    subst h
    cases getCtx s k <;> simp [Context.noRefs]
  · rfl

theorem getCtx_endRefs (s : State) (g : Group) (c k : Nat) :
    (getCtx (endRefs s g c) k).map Context.noRefs = (getCtx s k).map Context.noRefs := by
  unfold endRefs; split
  · rfl
  · exact getCtx_dropSealRefs _ _ _ _

theorem getCtx_afterWriteState (s : State) (g : Group) (t : Bool) (r : Nat) (pair : Bool) (k : Nat) :
    (getCtx (afterWriteState s g t r pair) k).map Context.noRefs = (getCtx s k).map Context.noRefs := by
  unfold afterWriteState
  cases t
  · cases pair
    · exact getCtx_endRefs _ _ _ _
    · exact (getCtx_endRefs _ _ _ _).trans (getCtx_endRefs _ _ _ _)
  · rfl

theorem charge_only (s : State) (n t : Nat) (e : Events) : charge s n t e = { s with grids := (charge s n t e).grids } := by
  unfold charge; split
  · rfl
  · exact modGrid_only _ _ _

theorem getGrid_charge (s : State) (n t : Nat) (e : Events) (k : Nat) :
    (getGrid (charge s n t e) k).map (fun g => { g with counts := [] }) =
      (getGrid s k).map (fun g => { g with counts := [] }) := by
  unfold charge; split
  · rfl
  · rw [getGrid_modGrid _ _ _ (by intro x; rfl)]
    split
    · rename_i h; subst h; cases getGrid s k <;> simp
    · rfl

theorem chargeGroup_only (s : State) (g : Group) (e : Events) :
    chargeGroup s g e = { s with grids := (chargeGroup s g e).grids } := by
  unfold chargeGroup; split
  · exact charge_only _ _ _ _
  · rfl

theorem getGrid_chargeGroup (s : State) (g : Group) (e : Events) (k : Nat) :
    (getGrid (chargeGroup s g e) k).map (fun g => { g with counts := [] }) =
      (getGrid s k).map (fun g => { g with counts := [] }) := by
  unfold chargeGroup; split
  · exact getGrid_charge _ _ _ _ _
  · rfl

theorem getGroup_of_groups {s t : State} (h : t.groups = s.groups) (k : Nat) : getGroup t k = getGroup s k := by
  simp [getGroup, h]

/-! ### A vector result -/

theorem pushLatch_fresh (l : Latch × Latch × Latch) (x : Latch) : pushLatch l 0 x = (x, l.1, l.2.1) := by
  obtain ⟨a, b, c⟩ := l
  cases a <;> cases b <;> cases c <;> simp [pushLatch]

/-- The lanes that a fresh vector result leaves in the latch and, with t = 0, in the register. -/
def vecLane (g : Group) (e : Entry) (t : Bool) (r : Nat) (pair : Bool) (lanes : BitVec 64) (f : Nat → Nat) (i : Nat) : Nat :=
  if lanes.getLsbD i then f i else if zeroFlag e.mode then 0 else oldVal g t r i pair

/-- The group and the state that a fresh vector result leaves. -/
theorem putVec_fresh {s : State} {g : Group} {e : Entry} (t : Bool) (r : Nat) (pair : Bool) (lanes : BitVec 64)
    (f : Nat → Nat) (htag : e.tag = 0) (hdone : e.lanesDone = 0) (hfirst : e.first = 0) :
    putVec s g e t r pair lanes f =
      setGroup (afterWriteState s g t r pair)
        { afterWrite g t r pair with
          v := if t then g.v else vWrite g.v r g.width pair
            (fun i => (cellGet (cellsOf 64 g.width (vecLane g e t r pair lanes f)) i).toNat)
          latch := (.full true (cellsOf 64 g.width (vecLane g e t r pair lanes f)), g.latch.1, g.latch.2.1) } := by
  have hv : (fun i => if lanes.getLsbD i then f i
      else if e.lanesDone.getLsbD i then (if t then (cellGet e.partials i).toNat else oldVal g t r i pair)
      else if zeroFlag e.mode && !(decide (i < e.first) && e.whole.getLsbD i) then 0 else oldVal g t r i pair) = vecLane g e t r pair lanes f := by
    funext i; simp [hdone, hfirst, vecLane]
  simp only [putVec, hv, htag, pushLatch_fresh]

/-- The scalar result of a fresh word. -/
theorem putScalar_fresh {s : State} {g : Group} {e : Entry} (t : Bool) (r x : Nat) (htag : e.tag = 0) :
    putScalar s g e t r x =
      setGroup s { g with
        s := if t then g.s else cellSet g.s r (BitVec.ofNat 64 x)
        latch := (.full false (cellsOf 64 1 (fun _ => x)), g.latch.1, g.latch.2.1) } := by
  cases t <;> simp [putScalar, htag, pushLatch_fresh]

end Sys2Proof.Machine
end

