-- ==== Sys2Proof/Tests/Slice0.lean ====
section
/-! SUPPORT. The model's own tests: ill-formed words that the checks refuse, words written out from the spec's encodings, one
small step for each shape of instruction, and for every statement with hypotheses a concrete state that meets them. -/

namespace Sys2Proof.Tests

-- one test after another: each holds a thread of its own while the kernel evaluates it
set_option Elab.async false

open Sys2Proof Sys2Proof.Machine

/-! ### Well-formedness: one ill-formed term for each check, beside a well-formed neighbour -/

theorem test_wf_roles : [Instr.add false false (.v 1) (.rsv 0xF9) .na, .add false false .na (.v 1) (.v 2),
    .add false false (.b 1) (.v 1) (.v 2), .redAdd false (.v 0) (.v 1), .redAdd false (.s 0) (.s 1), .redAdd false (.s 0) .na,
    .lidx false false (.s 3), .accw false (.v 3) (.v 4) 0, .accw false (.s 3) (.s 4) 0, .spld false false (.v 1) .na 0,
    .rtag false (.v 63) 1, .rtag false (.s 3) 1, .rtag false (.v 192) 1].all (fun i => !i.wf) = true := by decide

theorem test_wf_roles_good : [Instr.add false false (.v 1) (.s 2) .na, .add false false (.s 1) (.b 1) (.v 2),
    .redAdd false (.s 0) (.v 1), .redAdd false (.s 0) (.b 2), .lidx false false (.v 3), .accw false (.s 3) (.v 4) 0,
    .spld false false (.v 1) (.s 3) 0, .rtag false (.v 64) 1, .rtag false (.v 191) 4].all (fun i => i.wf) = true := by decide

theorem test_wf_fields : [Instr.cmp false 9 0 (.v 1) (.v 2), .dot false (.s 55) (.v 1) (.v 2), .ld false false (.v 1) (.v 3) (.s 1),
    .st false (.v 1) (.v 3) (.s 1), .ldfe (.v 1) (.v 3) 0, .stfe false (.v 1) (.v 3) (.s 1), .wfeFull (.v 3), .wfeEmpty (.v 3),
    .ldo false false (.v 1) (.v 2) 2 1, .ldo false false (.v 1) (.v 2) 1 0, .ldo false false (.v 1) (.v 3) 0 0,
    .sto false (.v 1) (.v 2) 1 1, .sto false (.v 1) (.v 2) 2 0, .sto false (.v 1) (.v 3) 0 0, .fence false 0 1, .fence false 1 0,
    .bra false 7 0 0, .bra false 6 1 0, .ift false 0 3 0, .jmp false (.v 3)].all (fun i => !i.wf) = true := by decide

theorem test_wf_fields_atomics : [Instr.aadd false false (.v 1) (.v 2) 0 1, .amin false false (.v 1) (.v 2) 3 0,
    .amax false false (.v 1) (.v 3) 0 0, .aand false false (.v 1) (.v 3) 0 0, .aor false false (.v 1) (.v 2) 0 1,
    .axor false false (.v 1) (.v 3) 0 0, .axch false false (.v 1) (.v 2) 1 0, .acas false false (.v 1) (.v 3) 0 0,
    .acas false false (.s 55) (.s 2) 0 0].all (fun i => !i.wf) = true := by decide

theorem test_wf_fields_units : [Instr.tlread false (.s 55) 0, .redAdd false (.s 55) (.v 1), .redMin false (.s 55) (.v 1),
    .redMax false (.s 55) (.v 1), .redAnd false (.s 55) (.v 1), .redOr false (.s 55) (.v 1), .redCnt false (.s 55) (.v 1),
    .matchLanes false (.v 1) (.v 2), .slotc 0 3 0 4, .slotc 0 2 1 4, .prune false 0 1 0, .prune false 0 1 5,
    .topkR false 15 0 0 0, .topkC false 15 0 0 0, .rqpush false (.v 1) (.v 2) 0, .rqpush false (.v 2) (.v 1) 0,
    .spcnt false (.s 55) 0, .texp false false (.v 1) (.v 3) 0, .tback false (.v 3) 0 0, .tback false (.s 3) 0 0,
    .trd false (.v 189) (.v 1) 0, .trd false (.s 53) (.s 1) 0, .bar (.v 3), .barArr false false (.s 1) (.v 3),
    .rtag false (.v 64) 0, .rtag false (.v 64) 5, .sealRange false false (.s 1) (.s 55), .item false (.v 2) (.v 3),
    .item false (.v 3) (.v 2), .gid false false (.s 1) 15, .csrr false false (.s 1) 5, .csrw false 0x12 (.s 1)].all
      (fun i => !i.wf) = true := by decide

/-! ### Decoding: words written out from the tables of 03 and of the instructions' own sections -/

/-- The word decodes to the instruction. -/
def reads (p : Nat × Instr) : Bool := (decode (BitVec.ofNat 32 p.1)).toOption == some p.2

/- The words below are the spec's own worked lines (the listings of 04 to 25), with the instruction that the line names. -/

theorem test_decode_arithmetic : [(0xE040FDFE, Instr.add false false (.v 64) (.b 0) (.b 1)), (0xE0C6C0C6, .add false false (.s 6) (.s 0) (.s 6)),
    (0x0C0B170D, .fma false false (.v 11) (.v 23) (.v 13)), (0x090001C5, .mul false true (.v 0) (.v 1) (.s 5)),
    (0x1C16DAD8, .div false false (.v 22) (.s 26) (.s 24)), (0x20D5D4C5, .and false false (.s 21) (.s 20) (.s 5)),
    (0x380504C2, .coal false false (.v 5) (.v 4) (.s 2)), (0x3C08C1C3, .cmp false 1 0 (.s 1) (.s 3)),
    (0x3C12CECF, .cmp false 2 2 (.s 14) (.s 15)), (0x4004C103, .sel false false (.v 4) (.s 1) (.v 3)),
    (0x4ACA0102, .dot true (.s 10) (.v 1) (.v 2)), (0x4C0B0103, .lrd false false (.v 11) (.v 1) (.v 3)),
    (0x70C8FFC0, .addi false false (.s 8) 0xFFC0), (0x68093FC0, .li false false (.v 9) 0x3FC0),
    (0x6CC18000, .lih false false (.s 1) 0x8000), (0x7A060510, .cvt true false (.v 6) (.v 5) 0x10),
    (0x74444400, .mode false 0x444400)].all reads = true := by decide +kernel

theorem test_decode_lanes : [(0xC4C40100, Instr.redAdd false (.s 4) (.v 1)), (0xC4C60105, .redCnt false (.s 6) (.v 1)),
    (0xC4020108, .scanAdd false false (.v 2) (.v 1)), (0xC4040110, .matchLanes false (.v 4) (.v 1)),
    (0xC4C80018, .voteT false false (.s 8) 0), (0xC4C9001A, .voteU false false (.s 9) 0), (0xC4090020, .lidx false false (.v 9)),
    (0xC40A0147, .bcast false false (.v 10) (.v 1) 7), (0xC802C100, .mov false false (.v 2) (.s 1)),
    (0xC8171601, .neg false false (.v 23) (.v 22)), (0xC8020403, .isna false 2 (.v 4)),
    (0xD8031170, .qand false 3 2 1), (0xD8040374, .qisU false 4 3), (0xDC000000, .nop false)].all reads = true := by decide +kernel

theorem test_decode_memory : [(0x500402C3, Instr.ld false false (.v 4) (.v 2) (.s 3)), (0x560402C3, .st true (.v 4) (.v 2) (.s 3)),
    (0x5A06CA01, .ldfe (.v 6) (.s 10) 1), (0x5C06CACB, .stfe false (.v 6) (.s 10) (.s 11)),
    (0x6004C642, .ldo false false (.v 4) (.s 6) 1 2), (0x6404C683, .sto false (.v 4) (.s 6) 2 3),
    (0xA00802C6, .aadd false false (.v 8) (.v 2) 3 6), (0xB8CAC242, .acas false false (.s 10) (.s 2) 1 2),
    (0x7E000086, .fence true 2 6), (0xD600CA91, .wfeEmpty (.s 10)), (0xD803C460, .shld false 3 (.s 4)),
    (0xD8E2C762, .shset false 14 2 (.s 7)), (0xD00A0012, .spadd false (.v 10) (.v 0) 2), (0xD00C0002, .spld false false (.v 12) (.v 0) 2),
    (0xD008000A, .spst false (.v 8) (.v 0) 2), (0xD0C40022, .spcnt false (.s 4) 2),
    (0xD20EC61A, .spit true (.v 14) (.s 6) 2)].all reads = true := by decide +kernel

theorem test_decode_engines : [(0xC0210608, Instr.copyGth false 2 1 0 6), (0xC0210000, .copyIn false 2 1 0), (0xC001690C, .copyMig false 1 3 9),
    (0xC0210001, .copyOut false 2 1 0), (0xC0342004, .copyRdAdd false 3 4 1), (0xC0564C40, .fetch false 5 6 2 12),
    (0xC2C80062, .tlread true (.s 8) 0), (0xC2000761, .tlwait 0 7), (0xCC630981, .topkC false 6 3 0 9),
    (0xCC422680, .topkR false 4 2 1 6), (0xCC0A0CA2, .rqpush false (.v 10) (.v 12) 2), (0xCEC5C4AA, .rqwait false (.s 5) (.s 4) 2),
    (0xD0C20040, .tnew false false (.s 2) 0), (0xD00A0048, .tdesc false false (.v 10) 0), (0xD0C2C450, .texp false false (.s 2) (.s 4) 0),
    (0xD00A0058, .tback false (.v 10) 0 0), (0xD001C360, .treuse false 1 (.s 3) 0), (0xD00C0A68, .trd false (.v 12) (.v 10) 0),
    (0xD0C5C670, .tgrow false false (.s 5) (.s 6) 0)].all reads = true := by decide +kernel

theorem test_decode_matrix : [(0xCE242200, Instr.slotc 2 1 0 0x22), (0xCE000100, .slotc 0 0 0 0x01), (0xCC01C304, .slotl false 0 1 (.s 3)),
    (0xCC25C605, .slott false 2 5 (.s 6)), (0xCC20C402, .slotw false 2 (.s 4)), (0xCC000001, .slotr false 0),
    (0xCC000208, .prune false 0 0 2), (0xCC030013, .accz false 1 1 3), (0xCC000010, .accz false 0 0 0),
    (0xCC010020, .mmaS false 0 1 0), (0xCC210027, .mmaX false 2 1 3), (0xCC010028, .mmaSp false 0 1 0 0),
    (0xCC010129, .mmaSp false 0 1 1 1), (0xCC463E32, .mmav false 4 6 1 7 1 2), (0xCC04C340, .accr false false (.v 4) (.s 3) 0),
    (0xCCC70444, .accw false (.s 7) (.v 4) 0)].all reads = true := by decide +kernel

theorem test_decode_control : [(0x8000001B, Instr.bra false 0 0 27), (0x8400000A, .call false 10), (0x88200002, .ift false 1 0 2),
    (0x9800F700, .jmp false (.s 55)), (0x9E000000, .exit true), (0xDA000028, .fuse), (0xDAC30029, .split (.s 3)),
    (0xDE000003, .kill), (0xDE000002, .rth), (0xDC000701, .trap false 7), (0xDCC40020, .csrr false false (.s 4) 0),
    (0xDC10C521, .csrw false 0x10 (.s 5)), (0xDC000030, .snap false), (0x8C000002, .els false 2), (0x90000002, .uarm false 2), (0x94000000, .endif false)].all reads = true := by decide +kernel

theorem test_decode_work : [(0xDA000100, Instr.xacq 1), (0xDA000001, .xrel true 0), (0xD8400302, .rtag false (.v 64) 3),
    (0xD8400004, .rfree false (.v 64)), (0xD8C6C305, .sealRange false false (.s 6) (.s 3)), (0xDA00C606, .unsealRange true (.s 6)),
    (0xD801C620, .launch false 1 (.s 6)), (0xD8020421, .item false (.v 2) (.v 4)), (0xD8C6C422, .task false false (.s 6) (.s 4)),
    (0xD8C60223, .depDec false (.s 6) (.v 2)), (0xDA000024, .yield), (0xD43244A0, .collArAdd false 3 2 2 4), (0xD40024B0, .psetReform false 1 4),
    (0xD4C8C4B1, .psetStatus false false (.s 8) (.s 4)), (0xD8C50425, .gid false false (.s 5) 4),
    (0xD6D40003, .gbar (.s 20))].all reads = true := by decide +kernel

/- Words written out here from the tables of R311, R129 and R155: bar s4, bar.arr s6, bar.wt s6, tlbind, and rdrop v65. -/
theorem test_decode_written : [(0xD600C400, Instr.bar (.s 4)), (0xD4C6C401, .barArr false false (.s 6) (.s 4)), (0xD600C602, .barWt (.s 6)),
    (0xC2C82360, .tlbind (.s 8) 1 3), (0xD8410003, .rdrop false (.v 65))].all reads = true := by decide +kernel

/-- Reserved codes, and fields that must be zero, decode to no instruction (03 R50, R62). -/
theorem test_decode_refuses : [0x00000000, 0xFC000000, 0xDC000100, 0xDE000102, 0xDD000000, 0xDC00007F].all
    (fun w => (decode (BitVec.ofNat 32 w)).toOption.isNone) = true := by decide +kernel

/-! ### Helpers: a device with one group of eight lanes, and small changes of it -/

/-- The context, the grid, the team and the group of eight lanes that the device below holds. -/
def ctx0 : Context :=
  { num := 0, root := 0x10000, save := 0x20000, faultRec := 0x40000, scratchSize := 0x100000, poolSize := 0x100000,
    scratch := [0x80000000000, 0x80040000000, 0x80080000000, 0x800C0000000],
    pool := [0x80000100000, 0x80040100000, 0x80080100000, 0x800C0100000] }
def grid1 : Grid := { id := 1, context := 0, record := bootRecord, depth := 0, queue := 0xFFFF, ring := 0, parent := none,
                      order := 1, total := 1, placed := true }
def team2 : Team := { id := 2, grid := 1, linear := 0, origin := 0, core := 0, groups := 1, width := 8, tiles := 4, memSize := 4096,
                      quota := 4096, prio := 0, live := [3], accs := List.replicate 4 {} }
def group3 : Group := { id := 3, team := 2, index := 0, width := 8, pc := 0x100000000, em := 0xFF, quota := 4096 }

/-- A ready device with a resident group, the current one, in a team with 4 KiB of memory, and a page of code. -/
def base : State :=
  { device := 1, cur := some 3, contexts := [ctx0], grids := [grid1], teams := [team2], groups := [group3], nextId := 4,
    mem := bootTables [] }

/-- The device with its group changed. -/
def st (f : Group → Group) : State := { base with groups := base.groups.map f }

/-- The group with scalars, with vector registers (the same value in each lane), and with another mode. -/
def withS (l : List (Nat × Nat)) (g : Group) : Group := { g with s := l.foldl (fun m x => cellSet m x.1 (BitVec.ofNat 64 x.2)) g.s }
def withV (l : List (Nat × (Nat → Nat))) (g : Group) : Group :=
  { g with v := l.foldl (fun m x => (List.range g.width).foldl (fun m i => cellSet m (x.1 * 64 + i) (BitVec.ofNat 32 (x.2 i))) m) g.v }
def withQ (l : List (Nat × BitVec 128)) (g : Group) : Group := { g with q := l.foldl (fun m x => cellSet m x.1 x.2) g.q }
def withMode (m : BitVec 25) (g : Group) : Group := { g with mode := m }
def modeI32 : BitVec 25 := 0x0A4000
def modeRaw : BitVec 25 := 0x344000

/-- The word's premise is met, with what else a statement assumes of the issue. -/
def met (i : Instr) (s : State) (plan : Issue → Plan) (places : List Place) (h : Issue → Bool := fun _ => true) : Bool :=
  match cleanIssue i s plan places with | some x => h x | none => false

/-- The next state of an instruction. -/
def after (i : Instr) (s : State) : Option State := match exec i s with | .next t => some t | _ => none

/-- The group after an instruction, and a lane or a scalar of it. -/
def groupAfter (i : Instr) (s : State) : Option Group := (after i s).bind (fun t => getGroup t 3)
def laneAfter (i : Instr) (s : State) (r k : Nat) : Option Nat := (groupAfter i s).map (fun g => vGet g r k)
def scalarAfter (i : Instr) (s : State) (r : Nat) : Option Nat := (groupAfter i s).map (fun g => sGet g r)

/-- Two f32 operands, two i32 ones, two raw ones, in v1 and v2. -/
def stF (a b : Nat) : State := st (withV [(1, fun _ => a), (2, fun _ => b)])
def stI (a b : Nat) : State := st (fun g => withMode modeI32 (withV [(1, fun _ => a), (2, fun _ => b)] g))
def stR (a b : Nat) : State := st (fun g => withMode modeRaw (withV [(1, fun _ => a), (2, fun _ => b)] g))

/-! ### Vector and scalar arithmetic -/

theorem test_met_elementwise_vector : [Instr.add false false (.v 3) (.v 1) (.v 2), .sub false false (.v 3) (.v 1) (.v 2),
    .mul false true (.v 3) (.v 1) (.s 2), .div true false (.v 3) (.v 1) (.v 2), .fma false false (.v 3) (.v 1) (.v 2),
    .fms false false (.v 3) (.v 1) (.v 2), .min false false (.v 3) (.v 1) .na, .max false false (.v 1) (.v 1) (.v 1),
    .li false false (.v 3) 5, .lih false false (.v 3) 5, .cvt false false (.v 3) (.v 1) 5,
    .mov false false (.v 3) (.s 1), .neg false false (.v 3) (.v 1), .abs false false (.v 3) (.v 1), .sqrt false false (.v 3) (.v 1),
    .rsqrt false false (.v 3) (.v 1), .recip false false (.v 3) (.v 1), .exp2 false false (.v 3) (.v 1), .log2 false false (.v 3) (.v 1),
    .sin false false (.v 3) (.v 1), .cos false false (.v 3) (.v 1), .tanh false false (.v 3) (.v 1), .sigm false false (.v 3) (.v 1),
    .floor false false (.v 3) (.v 1), .ceil false false (.v 3) (.v 1), .trunc false false (.v 3) (.v 1), .rint false false (.v 3) (.v 1),
    .frac false false (.v 3) (.v 1), .coal false false (.v 3) (.v 1) (.v 2)].all
      (fun i => isElem i && met i (stF 0x3F800000 0) planElem [] (fun x => x.e.vec)) = true := by decide +kernel

theorem test_met_elementwise_raw : [Instr.and false false (.v 3) (.v 1) (.v 2), .or false false (.v 3) (.v 1) (.v 2),
    .xor false false (.v 3) (.v 1) (.v 2), .shl false false (.v 3) (.v 1) (.v 2), .shr false false (.v 3) (.v 1) (.v 2),
    .sar false false (.v 3) (.v 1) (.v 2), .popc false false (.v 3) (.v 1), .clz false false (.v 3) (.v 1), .not false false (.v 3) (.v 1)].all
      (fun i => isElem i && met i (stR 0x3F800000 0) planElem [] (fun x => x.e.vec)) &&
    [Instr.mulhi false false (.v 3) (.v 1) (.v 2), .addi false false (.v 3) 5].all
      (fun i => isElem i && met i (stI 5 6) planElem [] (fun x => x.e.vec)) = true := by decide +kernel

theorem test_met_elementwise_scalar : [Instr.add false false (.s 3) (.s 1) (.s 2), .sub false true (.s 3) (.s 1) (.s 2),
    .mul false false (.s 3) (.s 1) (.s 2), .div false false (.s 3) (.s 1) (.s 2), .li false false (.s 3) 5, .lih false false (.s 3) 5,
    .addi false false (.s 3) 5, .mov false false (.s 3) (.s 1), .abs false false (.s 3) (.s 1), .min false false (.s 3) (.s 1) (.s 2)].all
      (fun i => isElem i && met i base planElem [] (fun x => !x.e.vec)) = true := by decide +kernel

/-- 1.5 + 2.25, 1.5 − 2.25, 1.5 × 2.25, 3 / 2, 1.5 × 2.25 + 0 at f32; by hand from the format of 02. -/
theorem test_float_arithmetic :
    laneAfter (.add false false (.v 3) (.v 1) (.v 2)) (stF 0x3FC00000 0x40100000) 3 7 = some 0x40700000 ∧
    laneAfter (.sub false false (.v 3) (.v 1) (.v 2)) (stF 0x3FC00000 0x40100000) 3 0 = some 0xBF400000 ∧
    laneAfter (.mul false false (.v 3) (.v 1) (.v 2)) (stF 0x3FC00000 0x40100000) 3 0 = some 0x40580000 ∧
    laneAfter (.div false false (.v 3) (.v 1) (.v 2)) (stF 0x40400000 0x40000000) 3 0 = some 0x3FC00000 ∧
    laneAfter (.fma false false (.v 3) (.v 1) (.v 2)) (stF 0x3FC00000 0x40100000) 3 0 = some 0x40580000 := by decide +kernel

/-- The roots, reciprocals and roundings of 4, 0.25, 2.5 and −2.5, exact at f32. -/
theorem test_float_unary :
    laneAfter (.sqrt false false (.v 3) (.v 1)) (stF 0x40800000 0) 3 0 = some 0x40000000 ∧
    laneAfter (.rsqrt false false (.v 3) (.v 1)) (stF 0x40800000 0) 3 0 = some 0x3F000000 ∧
    laneAfter (.recip false false (.v 3) (.v 1)) (stF 0x3E800000 0) 3 0 = some 0x40800000 ∧
    laneAfter (.floor false false (.v 3) (.v 1)) (stF 0xC0200000 0) 3 0 = some 0xC0400000 ∧
    laneAfter (.ceil false false (.v 3) (.v 1)) (stF 0xC0200000 0) 3 0 = some 0xC0000000 ∧
    laneAfter (.trunc false false (.v 3) (.v 1)) (stF 0xC0200000 0) 3 0 = some 0xC0000000 ∧
    laneAfter (.rint false false (.v 3) (.v 1)) (stF 0x40200000 0) 3 0 = some 0x40000000 ∧
    laneAfter (.neg false false (.v 3) (.v 1)) (stF 0x40200000 0) 3 0 = some 0xC0200000 ∧
    laneAfter (.abs false false (.v 3) (.v 1)) (stF 0xC0200000 0) 3 0 = some 0x40200000 := by decide +kernel

/-- The clamps of i32, truncated division, the absent code, an immediate (09 R171, 02 R24). -/
theorem test_integer_arithmetic :
    laneAfter (.add false false (.v 3) (.v 1) (.v 2)) (stI 0x7FFFFFFF 1) 3 0 = some 0x7FFFFFFF ∧
    laneAfter (.sub false false (.v 3) (.v 1) (.v 2)) (stI 0x80000001 5) 3 0 = some 0x80000001 ∧
    laneAfter (.mul false false (.v 3) (.v 1) (.v 2)) (stI 0x10000 0x10000) 3 0 = some 0x7FFFFFFF ∧
    laneAfter (.div false false (.v 3) (.v 1) (.v 2)) (stI 0xFFFFFFF9 2) 3 0 = some 0xFFFFFFFD ∧
    laneAfter (.add false false (.v 3) (.v 1) .na) (stI 7 1) 3 0 = some 0x80000000 ∧
    laneAfter (.coal false false (.v 3) (.v 1) (.v 2)) (stI 0x80000000 9) 3 0 = some 9 ∧
    laneAfter (.addi false false (.v 1) 0xFFFF) (stI 7 1) 1 0 = some 6 ∧
    laneAfter (.min false false (.v 3) (.v 1) (.v 2)) (stI 0xFFFFFFFF 1) 3 0 = some 0xFFFFFFFF ∧
    laneAfter (.max false false (.v 3) (.v 1) (.v 2)) (stI 0xFFFFFFFF 1) 3 0 = some 1 := by decide +kernel

theorem test_raw :
    laneAfter (.and false false (.v 3) (.v 1) (.v 2)) (stR 0xF0F0 0x3C3C) 3 0 = some 0x3030 ∧
    laneAfter (.or false false (.v 3) (.v 1) (.v 2)) (stR 0xF0F0 0x3C3C) 3 0 = some 0xFCFC ∧
    laneAfter (.xor false false (.v 3) (.v 1) (.v 2)) (stR 0xF0F0 0x3C3C) 3 0 = some 0xCCCC ∧
    laneAfter (.shl false false (.v 3) (.v 1) (.v 2)) (stR 0x80000001 32) 3 0 = some 0 ∧
    laneAfter (.shr false false (.v 3) (.v 1) (.v 2)) (stR 0x80000001 31) 3 0 = some 1 ∧
    laneAfter (.sar false false (.v 3) (.v 1) (.v 2)) (stR 0x80000001 4) 3 0 = some 0xF8000000 ∧
    laneAfter (.popc false false (.v 3) (.v 1)) (stR 0x80000001 4) 3 0 = some 2 ∧
    laneAfter (.clz false false (.v 3) (.v 1)) (stR 0x00010000 4) 3 0 = some 15 ∧
    laneAfter (.not false false (.v 3) (.v 1)) (stR 0xFFFFFFFE 4) 3 0 = some 1 := by decide +kernel

/-- A transient result leaves the register; an inactive lane is kept; a scalar word writes its scalar alone (03 R55, R59). -/
theorem test_destinations :
    laneAfter (.add false true (.v 3) (.v 1) (.v 2)) (stI 7 1) 3 0 = some 0 ∧
    laneAfter (.add false false (.v 1) (.v 1) (.v 2)) (st (fun g => withMode modeI32 (withV [(1, fun k => k), (2, fun _ => 1)]
      { g with em := 0xF0 }))) 1 3 = some 3 ∧
    laneAfter (.add false false (.v 1) (.v 1) (.v 2)) (st (fun g => withMode modeI32 (withV [(1, fun k => k), (2, fun _ => 1)]
      { g with em := 0xF0 }))) 1 4 = some 5 ∧
    scalarAfter (.add false false (.s 3) (.s 1) (.s 2)) (st (withS [(1, 40), (2, 2)])) 3 = some 42 := by decide +kernel

/-- A witness of IntegerArithmetic and of RawLogic: the widths and present operands, at the ends of the range. -/
theorem test_met_integer : (5 : Nat) < 2 ^ 8 ∧ (Ty.int true 8).present 0x81 = true ∧ (Ty.int true 8).present 0x7F = true ∧
    (Ty.int false 8).present 0xFE = true ∧ (Ty.int true 8).present 0x80 = false ∧ intOf (Ty.int true 8) 0x81 = -127 ∧
    intOf (Ty.int false 8) 0xFE = 254 := by decide

theorem test_met_counts : (getGrid base 1).isSome = true ∧
    ((getGrid (charge base 1 5 { sat := 2 }) 1).map (·.counts)).map List.length = some 1 ∧
    ((getGrid (charge base 1 0 { sat := 2 }) 1).map (·.counts)) = some [] := by decide +kernel

theorem test_met_conditions : met (.sel false false (.v 3) (.v 1) (.v 2)) (stF 1 2) planSel [] &&
    met (.mkna false false (.v 3) (.v 1)) (stF 1 2) planSel [] && met (.cmp false 2 1 (.v 1) (.v 2)) (stF 1 2) planElem [] &&
    met (.cmp false 2 1 (.s 1) (.s 2)) base planElem [] && met (.isna false 0 (.v 1)) base planElem [] &&
    met (.qand false 3 2 1) base (planCond 1 2) [] && met (.qor false 3 2 1) base (planCond 1 2) [] &&
    met (.qnot false 3 1) base (planCond 1 0) [] && met (.qisT false 3 1) base (planCond 1 0) [] &&
    met (.qisU false 3 1) base (planCond 1 0) [] && met (.qisF false 3 1) base (planCond 1 0) [] &&
    met (.qmov false 3 1) base (planCond 1 0) [] = true := by decide +kernel

/-- A condition of the group after a word. -/
def condAfter (i : Instr) (s : State) (q k : Nat) : Option Nat := (groupAfter i s).map (fun g => (condAt (cellGet g.q q) k).toNat)

/-- Kleene's tables: lanes 0, 1, 2 of q1 are unknown, false and true, those of q2 unknown (02 R40). -/
theorem test_conditions :
    let s := st (fun g => withQ [(0, 0x12), (1, 0x12), (2, 0x2A)] (withV [(1, fun _ => 0x3F800000), (2, fun k => k * 0x40000000)] g))
    let at_ (i : Instr) := [0, 1, 2].map (condAfter i s 3)
    [Instr.qand false 3 2 1, .qor false 3 2 1, .qnot false 3 1, .qisT false 3 1, .qisU false 3 1, .qisF false 3 1, .qmov false 3 1].map at_ =
      [[some 2, some 0, some 2], [some 2, some 2, some 1], [some 2, some 1, some 0], [some 0, some 0, some 1],
       [some 1, some 0, some 0], [some 0, some 1, some 0], [some 2, some 0, some 1]] := by decide +kernel

/-- A queued `add v3, v1, v2` whose operands are captured under the mode of i32; of its lanes 4 to 7, lane 4 is done (21 R349). -/
def queuedAdd : Entry :=
  { word := 0xE0030102, addr := 0x100000000, captured := 7, active := 0xF0, mode := modeI32, first := 5, vec := true
    slotA := [(4, 40), (5, 50), (6, 60), (7, 70)], slotB := [(4, 1), (5, 1), (6, 1), (7, 1)] }
def stQueued : State := st (fun g => withV [(3, fun k => k)] { g with pc := 0x100000004, rq := [queuedAdd] })

theorem test_met_elementwise_queued : (let i := Instr.add false false (.v 3) (.v 1) (.v 2)
    stQueued.groups.all (fun g =>
      let old : Issue := { s := stQueued, g := { g with mode := queuedAdd.mode }, i := i, e := queuedAdd.resumed, fresh := false }
      let p := planElem old
      encode i == some queuedAdd.word && (checkPlan g i queuedAdd.word p (p.reads i (p.placesOr []) 0) 0).isNone &&
        (frozenWrite g p).isNone && p.vec && decide (g.width ≤ 64))) = true := by decide +kernel

/-- The lanes from 5 on hold the captured sums, lane 4 and the inactive ones what they held. -/
theorem test_queued : [3, 4, 5, 7].map (laneAfter (.add false false (.v 3) (.v 1) (.v 2)) stQueued 3) = [some 3, some 4, some 51, some 71] ∧
    (groupAfter (.add false false (.v 3) (.v 1) (.v 2)) stQueued).map (fun g => (g.rq, g.pc)) = some ([], 0x100000004) := by decide +kernel

/-- Witnesses of the float clauses of IntegerArithmetic: 1.5 and −2.5 at f32, 17/16 halfway between two places of binary8p4 (code
0x2B), whose largest value is 224, and 2.5 and 300 rounded to i8. -/
theorem test_met_rounding : (Ty.ofCode 0x10).map (fun t => (t.isF8, valOf t false 0x3FC00000, valOf t false 0xC0200000)) =
      some (true, .fin false 12582912 8388608, .fin true 10485760 4194304) ∧
    (Ty.ofCode 0x2B).map (fun t => (t.isF8, t.prec, (deliver t (roundMode 0x204000) 0 (.fin false 17 16)).code,
      (deliver t (roundMode 0x204000) 0 (.fin false 300 1)).code)) = some (true, 4, 0x40, 0x7F) ∧
    (Ty.ofCode 1).map (fun t => (t.isInt, intOf t (deliver t (roundMode 0) 0 (.fin false 5 2)).code,
      intOf t (deliver t (roundMode 0) 0 (.fin false 300 1)).code)) = some (true, 2, 127) := by decide +kernel

/-- A group in the first arm of a conditional with a copy outstanding; one that has read from a release. -/
def stFence : State :=
  { st (fun g => { g with loose := [{ release := { group := 9, team := 2, mask := 3, arms := [], age := 5, acquired := [] } }] }) with
    age := 7, past := [{ age := 4, cls := .group, group := 9, op := 0, arms := [], loc := .team 2 0, old := [1], atomic := false, releases := [] }] }

theorem test_met_fence : met (.mode false modeI32) base planNone [] && met (.nop true) base planNo [] &&
    met (.fence false 2 4) { base with ops := [{ blankOp .copy 0 0 0 [] [] with group := 3 }] } planNo [] &&
    met (.fence false 2 8) { base with cores := [(0, { matrix := [{ team := 2, group := 3, slots := [0], tiles := [], access := true }] })] } planNo [] &&
    [(1 : BitVec 2), 2, 3].all (fun o => met (.fence false o 3) stFence planNo []) &&
    ((groupAfter (.fence false 1 3) stFence).map (·.acquired)) == some [{ age := 4, classes := 1 }] &&
    ((groupAfter (.fence false 2 3) stFence).map (fun g => g.fences.map (fun r => (r.mask, r.age)))) == some [(3, 7)] &&
    (((groupAfter (.fence false 2 4) { base with ops := [{ blankOp .copy 0 0 0 [] [] with group := 3 }] }).map (·.wait)) ==
      some (some .release)) = true := by decide +kernel

/-! ### Across the lanes -/

theorem test_met_lanes : [(Instr.bcast false false (.v 3) (.v 1) 7), .bcast false false (.v 3) (.v 1) 8, .scanAdd false false (.v 3) (.v 1),
      .scanAddx false false (.v 3) (.v 1), .scanMax false false (.v 3) (.v 1)].all (fun i => met i base planScan []) &&
    met (.lidx false false (.v 3)) base planLidx [] && met (.lrd false false (.v 3) (.v 1) (.v 2)) base planLrd [] &&
    met (.lrd false false (.s 3) (.v 1) (.s 2)) base planLrd [] &&
    [Instr.redCnt false (.s 3) (.v 1), .redAdd false (.s 3) (.v 1), .redMin false (.s 54) (.v 1), .redMax false (.s 3) (.v 1)].all
      (fun i => met i base planRed []) &&
    [Instr.redAnd false (.s 3) (.v 1), .redOr false (.s 3) (.v 1)].all (fun i => met i (stR 1 2) planRed []) &&
    met (.dot false (.s 3) (.v 1) (.v 2)) base planDot [] && met (.matchLanes false (.v 4) (.v 1)) base planMatch [] &&
    [Instr.voteT false false (.s 3) 1, .voteF false true (.s 3) 1, .voteU false false (.s 55) 1].all
      (fun i => met i base (planVote 1) []) = true := by decide +kernel

/-- Lane k of v1 holds k, but lane 2 nothing (i32). -/
def stLanes : State := st (fun g => withMode modeI32 (withV [(1, fun k => if k = 2 then 0x80000000 else k), (2, fun k => 7 - k)] g))

/-- By hand: 1 + 3 + … + 7 = 26 of seven kept lanes, their products with 7 − k, the running sums, the masks (10 R194 to R200). -/
theorem test_lanes :
    scalarAfter (.redAdd false (.s 3) (.v 1)) stLanes 3 = some 26 ∧ scalarAfter (.redAdd false (.s 3) (.v 1)) stLanes 4 = some 7 ∧
    scalarAfter (.redMax false (.s 3) (.v 1)) stLanes 3 = some 7 ∧ scalarAfter (.redMin false (.s 3) (.v 1)) stLanes 3 = some 0 ∧
    scalarAfter (.redCnt false (.s 3) (.v 1)) stLanes 4 = some 8 ∧ scalarAfter (.dot false (.s 3) (.v 1) (.v 2)) stLanes 3 = some 46 ∧
    laneAfter (.scanAdd false false (.v 3) (.v 1)) stLanes 3 4 = some 8 ∧ laneAfter (.scanAddx false false (.v 3) (.v 1)) stLanes 3 4 = some 4 ∧
    laneAfter (.scanMax false false (.v 3) (.v 1)) stLanes 3 2 = some 1 ∧ laneAfter (.bcast false false (.v 3) (.v 1) 5) stLanes 3 0 = some 5 ∧
    laneAfter (.bcast false false (.v 3) (.v 1) 8) stLanes 3 0 = some 0x80000000 ∧ laneAfter (.lidx false false (.v 3)) stLanes 3 6 = some 6 ∧
    laneAfter (.lrd false false (.v 3) (.v 1) (.v 2)) stLanes 3 0 = some 7 ∧ laneAfter (.matchLanes false (.v 4) (.v 1)) stLanes 4 3 = some 8 ∧
    laneAfter (.matchLanes false (.v 4) (.v 1)) stLanes 4 2 = some 0 := by decide +kernel

theorem test_votes : [Instr.voteT false false (.s 3) 1, .voteF false false (.s 3) 1, .voteU false false (.s 3) 1].map
    (fun i => scalarAfter i (st (withQ [(1, 0x0312)])) 3) = [some 4, some 0xEA, some 0x11] := by decide +kernel

/-! ### Near memory and shape registers -/

/-- The same lanes with addresses: v2 holds 64-bit addresses 0, 16, … (v3 the high halves), s1 the address 0x40, s2 nothing. -/
def stNear : State :=
  st (fun g => withS [(1, 0x40), (2, na64), (5, 0x1234)] (withV [(2, fun k => 16 * k), (4, fun k => 100 + k)] g))

/-- No near access of the word faults. -/
def nearFine (store : Bool) (n : Nat) (x : Issue) : Bool := (nearFaults x.s (whoOf x.s x.g) store n n ((touched x).map (·.2))).isNone

theorem test_met_near_loads : met (.ld false false (.v 6) (.v 2) (.s 6)) stNear (planNear true) [] (fun x => x.e.vec && nearFine false 4 x) &&
    met (.ld false false (.s 6) (.s 1) (.s 6)) stNear (planNear true) [] (fun x => !x.e.vec && nearFine false 8 x) &&
    met (.ldfe (.v 6) (.v 2) 1) (nearSetFe (nearSetFe (st (fun g => { g with em := 1 })) (whoOf base group3) 0 true) (whoOf base group3) 16 true)
      (planNear true) [] (fun x => nearFine false 4 x && (touched x).all (fun y => nearFe x.s (whoOf x.s x.g) y.2.toNat)) = true := by
  decide +kernel

theorem test_met_full_empty_waits : met (.wfeEmpty (.s 1)) stNear (planNear false) []
      (fun x => nearFine false 8 x && (touched x).all (fun y => nearFe x.s (whoOf x.s x.g) y.2.toNat == false)) &&
    met (.wfeFull (.s 1)) stNear (planNear false) []
      (fun x => nearFine false 8 x && (touched x).any (fun y => nearFe x.s (whoOf x.s x.g) y.2.toNat != true)) &&
    met (.wfeFull (.s 2)) stNear (planNear false) [] (fun x => (touched x).isEmpty) = true := by decide +kernel

theorem test_met_near_stores : met (.st false (.v 4) (.v 2) (.s 6)) stNear (planNear false) [] (fun x => nearFine true 4 x && (touched x).length == 8) &&
    met (.stfe false (.s 5) (.s 1) (.s 6)) stNear (planNear false) [] (fun x => nearFine true 8 x && (touched x).length == 1) = true := by
  decide +kernel

/-- Bytes of team memory after a word. -/
def teamByte (i : Instr) (s : State) (a n : Nat) : Option Nat := (after i s).bind (fun t => (getTeam t 2).map (fun m => bytesGet m.mem a n))

/-- A scalar store is little-endian, a lane's store stands at its address; a load gives the bytes, `na` without an address. -/
theorem test_near :
    teamByte (.st false (.s 5) (.s 1) (.s 6)) stNear 0x40 2 = some 0x1234 ∧ teamByte (.st false (.s 5) (.s 1) (.s 6)) stNear 0x40 1 = some 0x34 ∧
    teamByte (.st false (.v 4) (.v 2) (.s 6)) stNear 0x70 4 = some 107 ∧
    scalarAfter (.ld false false (.s 6) (.s 2) (.s 6)) stNear 6 = some na64 ∧
    scalarAfter (.ld false false (.s 6) (.s 1) (.s 7)) ((after (.st false (.s 5) (.s 1) (.s 7)) stNear).getD base) 6 = some 0x1234 ∧
    ((groupAfter (.wfeFull (.s 1)) stNear).map (·.wait)) = some (some .fullEmpty) ∧
    ((groupAfter (.wfeEmpty (.s 1)) stNear).map (·.wait)) = some none := by decide +kernel

theorem test_met_shapes : [(1 : Nat), 2].all (fun a => met (.shld false 3 (.s (Fin.ofNat 56 a))) stNear planA []) &&
    met (.shld false 3 (.s 1)) stNear planA [] (fun x => i64? (scalarA x) == some 0x40 && (nearFaults x.s (whoOf x.s x.g) false 64 64 [0x40]).isNone) &&
    met (.shst false 3 (.s 1)) stNear planA [] (fun x => i64? (scalarA x) == some 0x40 && (nearFaults x.s (whoOf x.s x.g) true 64 64 [0x40]).isNone) &&
    met (.shst false 3 (.s 2)) stNear planA [] (fun x => (i64? (scalarA x)).isNone) &&
    met (.shset false 10 3 (.s 5)) stNear planA [] = true := by decide +kernel

theorem test_shset_rank : (groupAfter (.shset false 10 3 (.s 5)) (st (withS [(5, 3)]))).map
    (fun g => recField (cellGet g.h 3) (shapeField 10).1 (shapeField 10).2) = some 2 := by decide +kernel

/-- A NaN and a subnormal as the reductions read them (10 R198, 02 R27, R35): a witness of the last clause of Reductions. -/
theorem test_met_reads : (let t := Ty.flt 8 23
    t.isF8 && decide (valOf t true 0x7FC12345 = .nan) && decide (valOf t true 0x80000001 = .fin true 0 1) &&
      asRead t { roundMode 0x204000 with flush := true } 0x7FC12345 == t.nanCode &&
      asRead t { roundMode 0x204000 with flush := true } 0x80000001 == 0x80000000) = true := by decide +kernel

/-- The first latch after a sum in lanes 4 to 7 alone holds the kept value of lane 3, or zero under the zero flag (03 R54, R59). -/
theorem test_latched : ([modeI32, modeI32 ||| 1].map (fun m =>
    (groupAfter (.add false false (.v 1) (.v 1) (.v 2)) (st (fun g => withMode m (withV [(1, fun k => k), (2, fun _ => 1)]
      { g with em := 0xF0 })))).map (fun g => match g.latch.1 with | .full true l => [(cellGet l 3).toNat, (cellGet l 4).toNat] | _ => []))) =
    [some [3, 5], some [0, 5]] := by decide +kernel

/-- The device above with an uncorrectable error in the word of team memory at 0x40. -/
def stNearBad : State := { stNear with teams := stNear.teams.map (fun t => { t with bad := [0x40] }) }

theorem test_met_near_errors : met (.ld false false (.s 6) (.s 1) (.s 6)) stNearBad (planNear true) [] (fun x =>
      nearFine false 8 x && (touched x).any (fun y => nearBad x.s (whoOf x.s x.g) false y.2.toNat 8)) &&
    met (.shld false 3 (.s 1)) stNearBad planA [] (fun x => nearBad x.s (whoOf x.s x.g) false 0x40 64) &&
    met (.ldfe (.v 6) (.v 2) 0) stNear (planNear true) [] (fun x => nearFine false 4 x &&
      (touched x).any (fun y => !nearFe x.s (whoOf x.s x.g) y.2.toNat)) = true := by decide +kernel

/-- Two writes of group 9 to the bytes at 0x40, of which the group knows the older one; and a store of the group's own in the
first arm of a conditional whose second arm it is in. -/
def stPast : State :=
  let w (age : Nat) (v : Byte) : Write :=
    { age := age, cls := .group, group := 9, op := 0, arms := [], loc := .team 2 0x40, old := List.replicate 8 v, atomic := false, releases := [] }
  { stNear with age := 9, past := [w 6 1, w 4 2], groups := stNear.groups.map (fun g => { g with acquired := [{ age := 4, classes := 1 }] }) }
def stArms : State :=
  { stPast with
    past := [{ age := 8, cls := .group, group := 3, op := 0, arms := [(0, 1)], loc := .team 2 0x40, old := List.replicate 8 0, atomic := false, releases := [] }]
    groups := stPast.groups.map (fun g => { g with arms := [(0, 2)] }) }

theorem test_met_near_order : stPast.groups.all (fun g => stPast.past.map (fun r => (groupView stPast g).knows r) == [false, true] &&
      (nearLoc stPast (whoOf stPast g) 0x40 8).isSome && apart g.arms g.arms == false) &&
    stArms.groups.all (fun g => apart g.arms g.arms == false && stArms.past.any (fun r => apart r.arms g.arms)) &&
    met (.st false (.v 4) (.v 2) (.s 6)) stPast (planNear false) [] (fun x => (touched x).length == 8 &&
      (List.range 8).all (fun j => (List.range 8).all (fun k => j == k || (List.range 4).all (fun i => match nearLoc x.s (whoOf x.s x.g) (16 * j) 4,
        nearLoc x.s (whoOf x.s x.g) (16 * k) 4 with | some l, some l0 => !(l.plus i).within l0 4 | _, _ => false)))) = true := by decide +kernel

/-- Two writes that a full granule released, of which one overlaps the bytes read (07 R149): `ldfe` acquires both, and, as it empties
the granule, leaves there what its group carries; `seal` acquires the writes to its range (08 R164). -/
def stSync : State :=
  { stPast with sync := [{ point := .granule (.team 2 0x40), ages := [6, 2] }], teams := stPast.teams.map (fun t => { t with memFe := [(4, 1)] }) }
theorem test_link_full : ((groupAfter (.ldfe (.s 5) (.s 1) 1) stSync).map (·.acquired)) = some [{ age := 6, classes := everyClass }, { age := 2, classes := everyClass }, { age := 4, classes := 1 }] ∧
    ((after (.ldfe (.s 5) (.s 1) 1) stSync).map (fun t => t.sync)) = some [{ point := .granule (.team 2 0x40), ages := [6, 4] }] := by
  decide +kernel

/-- A read that observes a write observes every earlier one to a byte of it (13 R262), also where its reader does not know of it. -/
theorem test_seen_writes : (let w (age o n : Nat) : Write :=
      { age := age, cls := .group, group := 9, op := 0, arms := [], loc := .team 2 o, old := List.replicate n 0, atomic := false, releases := [] }
    (seenWrites (fun r => r.age == 6) (.team 2 0) 8 [w 7 0 8, w 6 0 4, w 5 0 8, w 4 4 4]).map (·.age)) = [6, 5, 4] := by decide +kernel

/-- `stfe` sets the granule that it writes full, and no other. -/
theorem test_stfe : ((after (.stfe false (.s 5) (.s 1) (.s 6)) stNear).map (fun t => [nearFe t (whoOf base group3) 0x40, nearFe t (whoOf base group3) 0x50])) =
    some [true, false] := by decide +kernel

/-! ### Extended registers, recipes, seals -/

/-- The group holds unit 0. -/
def holds0 (g : Group) : Group := { g with held := 1, written := 1 }
/-- v64 is tagged with a recipe of one word, `mov v64, s1`. -/
def tagged0 (g : Group) : Group :=
  { holds0 g with tagged := 1, recipes := [{ index := 0, words := [0xC840C100], mode := 0x204000, em := 0xFF, target := 64, depth := false, seals := [] }] }

theorem test_met_units : met (.xacq 1) (st holds0) planNo [] (fun x => !x.g.held.getLsbD 1 && decide (0 < poolFree x.s 0) && !frameQueued x.s 0 x.g.id) &&
    met (.xacq 0) (st holds0) planNo [] (fun x => x.g.held.getLsbD 0) && met (.xrel true 0) (st holds0) planNo [] (fun x => x.g.held.getLsbD 0) &&
    met (.xrel true 1) (st holds0) planNo [] (fun x => !x.g.held.getLsbD 1) &&
    met (.xacq 1) { base with groups := group3 :: (List.range 31).map (fun k => { group3 with id := k + 10, held := 15, residency := k + 1 }) }
      planNo [] (fun x => poolFree x.s 0 == 0 && !x.g.held.getLsbD 1) = true := by decide +kernel

theorem test_units : ((groupAfter (.xacq 1) (st holds0)).map (·.held)) = some 3 ∧
    ((groupAfter (.xrel true 0) (st tagged0)).map (fun g => (g.held, g.dropped))) = some (0, 1) := by decide +kernel

/-- The run holds `mov v64, s1` before the word. -/
def ran (g : Group) : Group := { holds0 g with runWords := [0xC840C100], runCount := 1 }

theorem test_met_recipe : met (.rtag false (.v 64) 1) (st ran) planNo [] (fun x =>
      let ws := (x.g.runWords.take 1).reverse
      decide (1 ≤ x.g.runWords.length) && ws.all recipeOp && ws.zipIdx.all (fun y => recipeForm 64 x.g.mode (y.2 + 1 == 1) y.1 && recipeLatches y.2 y.1) &&
        ((ws.map (fun w => wordSources w x.g.mode)).flatten).all (recipeSource x.g 64) && modeField x.g.mode 11 3 != 6 &&
        !x.g.mode.getLsbD 8 && ws.map (recipeSeals x.s x.g) == [some []] && x.g.recipes.isEmpty) = true := by decide +kernel

theorem test_rtag : ((groupAfter (.rtag false (.v 64) 1) (st ran)).map (fun g => (g.tagged, g.recipes.map (·.target)))) = some (1, [64]) := by
  decide +kernel

theorem test_met_recipe_ends : met (.rdrop false (.v 64)) (st tagged0) planNo [] (fun x => !x.g.stopped && isTagged x.g 64) &&
    met (.rdrop false (.v 65)) (st tagged0) planNo [] (fun x => !isTagged x.g 65) &&
    met (.rfree false (.v 64)) (st tagged0) planNo [] (fun x => isTagged x.g 64 && !frozenBy x.g 64) &&
    met (.rfree false (.v 65)) (st tagged0) planNo [] (fun x => !isTagged x.g 65) &&
    met (.rfree false (.v 64)) (st (fun g => { tagged0 g with tagged := 3, recipes := (tagged0 g).recipes ++
      [{ index := 1, words := [0xC8414000], mode := 0x204000, em := 0xFF, target := 65, depth := true, seals := [] }] }))
      planNo [] (fun x => isTagged x.g 64 && frozenBy x.g 64) = true := by decide +kernel

/-- v64 is dropped with the recipe of `mov v64, s1`, or of `ld v64, s1, v2` from a word with an uncorrectable error. -/
def stDropped : State := st (fun g => withS [(1, 0x40)] { tagged0 g with dropped := 1 })
def stDroppedBad : State :=
  { st (fun g => withS [(1, 0x40)] { holds0 g with
      tagged := 1, dropped := 1
      recipes := [{ index := 5, words := [0x5040C102], mode := 0x204000, em := 1, target := 64, depth := false, seals := [] }] }) with
    teams := [{ team2 with bad := [0x40] }] }

theorem test_met_replay : [stDropped, stDroppedBad].map (fun s => s.groups.all (fun g =>
      let i := Instr.add false false (.v 3) (.v 64) (.v 1)
      let w : Word := (encode i).getD 0
      let p := planElem (freshIssue i s g w)
      let reads := p.reads i (p.placesOr []) 7
      isElem i && (encode i).isSome && (checkPlan g i w p reads 7).isNone && (frozenWrite g p).isNone && reads.contains 64 && isDropped g 64 &&
        reads.all (fun k => !isDropped g k || k == 64) && isHeld g 64 &&
        g.recipes.all (fun r => r.target == 64 && (recipeSources r).all (fun k => !isDropped g k)))) = [true, true] ∧
    (stDropped.groups ++ stDroppedBad.groups).map (fun g => match recipeResult stDroppedBad g 0x204000 1 [] ((g.recipes.map (·.words)).flatten) with
      | .inr l => some (cellGet l.vals 0).toNat | .inl f => some f.cause.toNat) = [some 0x40, some 0x50] := by decide +kernel

/-- The reader of a dropped register finds it rebuilt; a replay that faults is 0x09 with the inner cause and the recipe's number. -/
theorem test_replay : ((groupAfter (.add false false (.v 3) (.v 64) (.v 1)) { stDropped with groups := stDropped.groups.map (withMode modeI32) }).map
      (fun g => (vGet g 64 2, vGet g 3 2, g.dropped))) = some (0x40, 0x40, 0) ∧
    ((after (.add false false (.v 3) (.v 64) (.v 1)) stDroppedBad).map (fun t => (t.grids.map (·.cause), t.msix.contains 2))) =
      some ([0x09], true) := by decide +kernel

/-- `add v64, v1, v2` and `ld v64, s1, v2` as words of a recipe. -/
theorem test_met_recipe_words : (decode 0xE1400102).toOption = some (.add false true (.v 64) (.v 1) (.v 2)) ∧
    (decode 0x5140C102).toOption = some (.ld false true (.v 64) (.s 1) (.v 2)) ∧
    (modeType modeI32 true).map Ty.width = some 32 ∧
    (base.groups.map (fun g => match recipeWord base (withV [(1, fun k => k), (2, fun _ => 5)] g) modeI32 0xFF [] 0xE1400102 with
      | .inr l => (cellGet l.vals 7).toNat | .inl _ => 0)) = [12] := by decide +kernel

/-- One sealed line of team memory, entry 0, and what `seal` is asked for in s1 to s5. -/
def stSeal : State :=
  { st (withS [(1, 64), (2, 128), (3, na64), (5, 0)]) with
    contexts := [{ ctx0 with seals := [{ index := 0, start := 0, size := 64, team := 2, refs := 0 }] }] }

theorem test_met_seals : met (.sealRange false false (.s 6) (.s 1)) stSeal planSeal [.upper 0] (fun x =>
      scalarA x == 64 && (cellGet x.e.slotA 1).toNat == 128 && sealable x.s (whoOf x.s x.g) 64 128) &&
    met (.sealRange false false (.s 6) (.s 3)) stSeal planSeal [.upper 0] (fun x => scalarA x == na64) &&
    [2 ^ 63, 2 ^ 32, 2 ^ 63 - 1].all (fun n => met (.sealRange false false (.s 6) (.s 1)) { stSeal with groups := stSeal.groups.map (withS [(1, n)]) }
      planSeal [.upper 0] (fun x => scalarA x == n && (cellGet x.e.slotA 1).toNat == 128 && !x.g.stopped)) &&
    met (.unsealRange false (.s 3)) stSeal planA [] (fun x => scalarA x == na64) &&
    met (.unsealRange false (.s 5)) stSeal planA [] (fun x => scalarA x == 0) = true := by decide +kernel

theorem test_seals : scalarAfter (.sealRange false false (.s 6) (.s 1)) stSeal 6 = some 1 ∧
    ((after (.unsealRange false (.s 5)) stSeal).map (fun t => t.contexts.map (fun c => c.seals.length))) = some [0] := by decide +kernel

/-! ### Scoped accesses -/

/-- A scoped access of a scalar at main address 2^32 + 0x40, or lane by lane in team memory; the code page is writable. -/
def stScoped : State :=
  st (fun g => withMode modeI32 (withS [(2, 2 ^ 32 + 0x40), (4, 5), (5, 9)] (withV [(2, fun k => 16 * k), (4, fun k => k), (5, fun k => 10 + k)] g)))

/-- Nothing stops the scoped access before its lanes. -/
def scopedFine (op : ScopedOp) (x : Issue) : Bool :=
  (scopedFaults x.s (whoOf x.s x.g) op.perm (op != .ldo) ((typeOf x.g.mode x.e.vec).width / 8) (scopedLanes x)).isNone &&
    (scopedLanes x).all (fun y => (scopedPark x.s (whoOf x.s x.g) op.perm y.2).isNone) && !(scopedLanes x).isEmpty

theorem test_met_scoped_scalar : [(Instr.ldo false false (.s 6) (.s 2) 1 2, ScopedOp.ldo), (.sto false (.s 4) (.s 2) 2 2, .sto),
    (.aadd false false (.s 4) (.s 2) 3 2, .aadd), (.amin false false (.s 4) (.s 2) 0 0, .amin), (.amax false false (.s 4) (.s 2) 0 0, .amax),
    (.axch false false (.s 4) (.s 2) 0 0, .axch), (.acas false false (.s 4) (.s 2) 0 0, .acas)].all
      (fun p => met p.1 stScoped (planScoped p.2) [] (fun x => scopedFine p.2 x && !releaseWaits x.s x.g 2 &&
        (scopedLanes x).all (fun y => !scopedBad x.s (whoOf x.s x.g) p.2.perm y.2 8))) &&
    met (.sto false (.s 4) (.s 2) 2 4) { stScoped with ops := [{ blankOp .copy 0 0 0 [] [] with group := 3 }] } (planScoped .sto) []
      (fun x => (scopedFaults x.s (whoOf x.s x.g) .write true 8 (scopedLanes x)).isNone && releaseWaits x.s x.g 4) = true := by decide +kernel

theorem test_met_scoped_vector : [(Instr.ldo false false (.v 6) (.v 2) 0 0, ScopedOp.ldo), (.aand false false (.v 4) (.v 2) 0 0, .aand),
    (.aor false false (.v 4) (.v 2) 0 0, .aor), (.axor false false (.v 4) (.v 2) 0 0, .axor), (.sto false (.v 4) (.v 2) 0 0, .sto)].all
      (fun p => met p.1 { stScoped with groups := stScoped.groups.map (withMode modeRaw) } (planScoped p.2) [] (fun x => scopedFine p.2 x && x.e.vec)) = true := by
  decide +kernel

theorem test_met_scoped_lane : (scopedLoc stScoped (whoOf base group3) .write (2 ^ 32 + 0x40) 8).isSome = true ∧
    (scopedLoc stScoped (whoOf base group3) .read 16 4).isSome = true ∧ (Ty.int true 32).present 0x7FFFFFFF = true ∧
    (Ty.int true 32).present 0x80000000 = false := by decide +kernel

/-- Of the writes of group 9, one of its copy's and one of its own, a group of its team acquires what both masks name: witnesses of
the last clause of ScopedLaneEffect. -/
def stRelease : State :=
  let w (age : Nat) (cls : AccessClass) : Write :=
    { age := age, cls := cls, group := 9, op := 0, arms := [], loc := .team 2 0x40, old := [0], atomic := false, releases := [] }
  { base with age := 9, past := [w 5 .group, w 4 .copy] }
theorem test_met_acquire :
    let r : Release := { group := 9, team := 2, mask := 5, arms := [], age := 6, acquired := [] }
    stRelease.past.all (fun p => decide (p.age < r.age) && p.group == r.group && !apart p.arms r.arms) &&
    [(1 : BitVec 6), 4, 2].map (fun m => (acquireFrom stRelease 3 m [r]).groups.map (·.acquired)) == [[[{ age := 5, classes := 1 }]], [[{ age := 4, classes := 4 }]], [[]]] &&
    (acquireAges stRelease 3 [4]).groups.map (fun g => stRelease.past.map (fun p => (groupView stRelease g).knows p)) == [[false, true]] := by
  decide +kernel

/-- The bytes at 2^32 + 0x40, which lie at 0x200040, after a scalar store and a following sum; the old value comes back. -/
theorem test_scoped :
    ((after (.sto false (.s 4) (.s 2) 2 2) stScoped).map (fun t => bytesGet t.mem 0x200040 8)) = some 5 ∧
    ((after (.aadd false false (.s 5) (.s 2) 0 0) ((after (.sto false (.s 4) (.s 2) 0 0) stScoped).getD base)).map
      (fun t => (bytesGet t.mem 0x200040 8, (t.groups.map (fun g => sGet g 5))))) = some (14, [5]) ∧
    ((after (.acas false false (.s 4) (.s 2) 0 0) ((after (.sto false (.s 4) (.s 2) 0 0) stScoped).getD base)).map
      (fun t => bytesGet t.mem 0x200040 8)) = some 9 := by decide +kernel

/-! ### Control -/

theorem test_met_branches : met (.bra false 0 1 5) (st (withQ [(1, 1)])) (planQ 1) [] && met (.bra false 6 0 0x1FFFF) base (planQ 0) [] &&
    met (.bra false 5 1 5) (st (withQ [(1, 0x5555)])) (planQ 1) [] &&
    met (.call false 10) base (fun _ => { writes := [0xC0 + 55] }) [] && met (.jmp false (.s 1)) (st (withS [(1, 2 ^ 32 + 8)])) planUniA [] &&
    met (.jmp false (.s 1)) (st (withS [(1, na64)])) planUniA [] && met (.jmp false (.s 1)) (st (withS [(1, 12)])) planUniA [] &&
    met (.jmp false (.s 1)) (st (withS [(1, 2 ^ 32 + 2)])) planUniA [] &&
    met (.jmp false (.v 2)) (st (withV [(2, fun k => 4 * k), (3, fun _ => 1)])) planUniA [] (fun x => x.e.vec) = true := by decide +kernel

def pcAfter (i : Instr) (s : State) : Option Nat := (groupAfter i s).map (fun g => g.pc.toNat - 2 ^ 32)

theorem test_branches : pcAfter (.bra false 0 1 5) (st (withQ [(1, 1)])) = some 20 ∧ pcAfter (.bra false 0 1 5) base = some 4 ∧
    pcAfter (.call false 10) base = some 40 ∧ scalarAfter (.call false 10) base 55 = some (2 ^ 32 + 4) ∧
    pcAfter (.jmp false (.s 1)) (st (withS [(1, 2 ^ 32 + 8)])) = some 8 := by decide +kernel

/-- A stack entry of the park disposition: lanes 0 to 3 true, 4 and 5 false, 6 and 7 unknown. -/
def arms : State := (after (.ift false 1 0 9) (st (withQ [(1, 0xA055)]))).getD base

theorem test_met_arms : met (.ift false 1 0 9) (st (withQ [(1, 0xA055)])) (planQ 1) [] (fun x => !x.g.stopped && decide (x.g.stack.length < 16)) &&
    met (.ift false 1 1 9) (st (fun g => { g with stack := List.replicate 16 0 })) (planQ 1) [] (fun x => decide (16 ≤ x.g.stack.length)) &&
    [Instr.els false 3, .uarm false 3, .endif false].all (fun i => met i arms planNo [] (fun x => x.g.stack.length == 1) &&
      met i base planNo [] (fun x => x.g.stack.isEmpty)) = true := by decide +kernel

theorem test_arms : ((getGroup arms 3).map (·.em)) = some 0x0F ∧ ((groupAfter (.els false 3) arms).map (·.em)) = some 0x30 ∧
    ((groupAfter (.uarm false 3) arms).map (·.em)) = some 0xC0 ∧ ((groupAfter (.endif false) arms).map (fun g => (g.em, g.stack))) = some (0xFF, []) ∧
    pcAfter (.els false 3) ((after (.ift false 1 0 9) (st (withQ [(1, 0x5555)]))).getD base) = some 16 := by decide +kernel

/-- Two groups of eight lanes, halves of one another; the upper one waits in `fuse`. -/
def pair : State :=
  { base with
    groups := [withV [(1, fun k => k)] { group3 with sibling := 0x81 },
               withV [(1, fun k => 100 + k)] { group3 with id := 5, index := 1, residency := 1, sibling := 0xC0, em := 0x3, wait := some .fuse }]
    teams := [{ team2 with groups := 2, live := [3, 5] }], nextId := 6 }

/-- A group of sixteen lanes. -/
def wide : State := st (fun g => withV [(1, fun k => k)] { g with width := 16, em := 0xFFFF })

theorem test_met_ends : met (.exit true) base planCollective [] && met .kill base planNo [] = true := by decide +kernel

theorem test_ends : ((after (.exit true) pair).map (fun t => t.groups.map (·.id))) = some [5] ∧
    ((after .kill pair).map (fun t => t.groups.length)) = some 0 := by decide +kernel

theorem test_met_widths : met .fuse pair planFuse [] (fun x => x.g.recipes.isEmpty &&
      (match fusePartner x.s x.g with | some o => o.id != x.g.id && o.wait == some .fuse && topSibling o == some x.g.index | none => false)) &&
    met .fuse { pair with groups := pair.groups.map (fun g => { g with wait := none }) } planFuse [] (fun x =>
      match fusePartner x.s x.g with | some o => o.wait != some .fuse | none => false) &&
    met (.split (.s 3)) wide planSplit [] (fun x => x.g.recipes.isEmpty && freeIndex x.s 2 == some 1 && freeSlot x.s 0 == some 1 &&
      (placeSpills x.s 0 0 x.g.quota 1).isSome && decide (1 + bits4 x.g.held ≤ poolFree x.s 0) && !frameQueued x.s 0 3) = true := by decide +kernel

theorem test_widths : ((groupAfter .fuse pair).map (fun g => (g.width, g.em, vGet g 1 2, vGet g 1 10))) = some (16, 0x3FF, 2, 102) ∧
    ((after (.split (.s 3)) wide).map (fun t => t.groups.map (fun g => (g.width, vGet g 1 0, sGet g 3)))) = some [(8, 0, 0), (8, 8, 1)] := by
  decide +kernel

/-! ### Faults -/

/-- The grid names a handler at 2^32 + 0x400, and the group has room for a frame. -/
def stHandler : State :=
  { st (fun g => withS [(0, 77)] { g with quota := 0xA000, spillAt := 0x80000100000 }) with
    grids := [{ grid1 with record := (bootRecord.set 0x31 4).set 0x34 1 }] }

theorem test_met_handler : (getGroup stHandler 3).isSome && (stHandler.groups.all (canHandle stHandler)) &&
    !(canHandle base group3) && (getTeam base 2).isSome && (getGrid base 1).isSome && (getCtx base 0).isSome = true := by decide +kernel

/-- A fault enters the handler and is kept in the frame; without a handler the grid ends with status 1. -/
theorem test_faults :
    ((groupAfter (.trap false 0x5A) stHandler).map (fun g => (g.handler, g.pc.toNat, sGet g 1))) = some (true, 0x100000400, 0x60) ∧
    ((after (.trap false 0x5A) stHandler).map (fun t => [0, 0x20, 0x40].map (fun o => bytesGet t.mem (0x80000100000 + o) 8 % 256))) =
      some [0x60, 0x5A, 77] ∧
    ((after (.trap false 0x5A) base).map (fun t => t.groups.length :: bytesGet t.mem 0x40001 1 :: t.grids.map (fun g => g.status.toNat))) =
      some [0, 0x60, 1] := by decide +kernel

theorem test_met_elementwise_fault : let i := Instr.add false false (.v 3) (.b 0) (.v 1)
    (encode i).isSome && isElem i && (match encode i with
      | some w => issueFault i base group3 w planElem [] == some (fault 0x0C 0) | none => false) &&
    (match encode (.add false false (.v 3) (.rsv 0xF9) (.v 1)) with
      | some w => issueFault (.add false false (.v 3) (.rsv 0xF9) (.v 1)) base group3 w planElem [] == some (fault 0x01 w.toNat)
      | none => false) = true := by decide +kernel

/-- The same words where lane 2 of v1, or the scalar s1, holds an uncorrectable error; v3 is written, its errors with it. -/
def stBadReg : State := st (fun g => { g with badRegs := [(1, 2), (0xC1, 0), (3, 7)] })
theorem test_met_bad_registers : (readyIssue (.add false false (.v 3) (.v 1) (.v 2)) stBadReg planElem []).any (fun x => x.e.vec &&
      x.e.active.getLsbD 2 && !x.g.stopped) && (readyIssue (.add false false (.s 3) (.s 1) (.s 2)) stBadReg planElem []).any (fun x => !x.e.vec) &&
    ((after (.add false false (.v 3) (.v 1) (.v 2)) stBadReg).any (fun t => t.grids.map (·.cause) == [0x50] && t.msix.contains 2)) &&
    ((groupAfter (.add false false (.v 3) (.v 4) (.v 2)) stBadReg).map (·.badRegs) == some [(1, 2), (0xC1, 0)]) = true := by decide +kernel

/-- In the handler after a trap. -/
def handled : State := (after (.trap false 0x5A) stHandler).getD base

theorem test_met_return : met (.trap false 0x5A) base planNo [] &&
    met .rth handled planRth [] (fun x => x.g.handler && frameOk (spillOf x.s x.g) &&
      !physBad x.s false x.g.spillAt (0xA00 + 0x640 * 24)) &&
    met .rth { handled with mem := bytesPut handled.mem 0x80000100002 [0xFF] } planRth [] (fun x => !frameOk (spillOf x.s x.g) && !x.g.stopped) &&
    met .rth { handled with bad := [0x80000100020] } planRth [] (fun x => physBad x.s false x.g.spillAt 0xA00) &&
    !base.groups.any (·.handler) = true := by decide +kernel

theorem test_return : ((groupAfter .rth handled).map (fun g => [g.pc.toNat, sGet g 0, sGet g 1])) = some [0x100000004, 77, 0] := by
  decide +kernel

/-! ### Barriers, work, identity -/

/-- Barrier words and tokens in scalars: barrier 1 with counts 1 and 2, an illegal word, nothing; tokens of phases 0 and 1. -/
def stBar : State := st (withS [(1, 0x11), (2, 0x21), (3, 0x200), (4, na64), (5, 0x01), (6, 0x11)])

theorem test_met_barriers : [(1 : Nat), 2, 3].all (fun k => met (.barArr false false (.s 7) (.s (Fin.ofNat 56 k))) stBar planBar []
      (fun x => !x.e.vec && scalarA x != na64 && !x.g.stopped) && met (.bar (.s (Fin.ofNat 56 k))) stBar planBar [] (fun x => x.g.barToken.isNone)) &&
    [(4 : Nat), 5, 6].all (fun k => met (.barWt (.s (Fin.ofNat 56 k))) stBar planBarWt []) = true := by decide +kernel

theorem test_barriers : scalarAfter (.barArr false false (.s 7) (.s 1)) stBar 7 = some 1 ∧
    ((after (.barArr false false (.s 7) (.s 1)) stBar).map (fun t => (getBar t 2 1).phase)) = some 1 ∧
    ((groupAfter (.bar (.s 1)) stBar).map (·.wait)) = some none ∧ ((groupAfter (.bar (.s 2)) stBar).map (·.wait)) = some (some (.bar 1 0)) ∧
    ((after (.bar (.s 3)) stBar).map (fun t => t.grids.map (·.cause))) = some [0x41] ∧
    ((groupAfter (.barWt (.s 5)) stBar).map (·.wait)) = some (some (.bar 1 0)) ∧ ((groupAfter (.barWt (.s 6)) stBar).map (·.wait)) = some none := by
  decide +kernel

/-- The grid is a gang; and a team of two groups, of which one has not arrived. -/
def stGang : State := { base with grids := [{ grid1 with record := bootRecord.set 0x1F 1 }] }
def stGang2 : State := { pair with grids := stGang.grids }

theorem test_met_gbar : met (.gbar (.s 3)) base planGbar [] (fun x => !x.g.stopped) && met (.gbar (.s 3)) stGang planGbar [] &&
    met (.gbar (.s 3)) stGang2 planGbar [] && recGang (bootRecord.set 0x1F 1) && recPeers (bootRecord.set 0x1F 1) == 0xFFFF &&
    met (.gbar (.s 3)) { stGang2 with grids := stGang2.grids.map (fun g => { g with gbArrived := [3] }) } planGbar [] (fun x =>
      x.s.grids.all (fun g => g.gbArrived.contains x.g.id)) &&
    met (.gbar (.s 3)) { stGang with grids := stGang.grids.map (fun g => { g with gbBroken := some 0xFFFF0002 }) } planGbar [] = true := by
  decide +kernel

theorem test_gbar : scalarAfter (.gbar (.s 3)) stGang 3 = some 0xFFFF0000 ∧ ((groupAfter (.gbar (.s 3)) stGang2).map (·.wait)) = some (some (.gbar 0)) ∧
    ((after (.gbar (.s 3)) base).map (fun t => t.grids.map (·.cause))) = some [0x41] := by decide +kernel

theorem test_met_system : met (.gid false false (.s 3) 6) base planDst [] && met .yield base planNo [] &&
    [(0 : BitVec 8), 1, 2, 3, 4, 0x10, 0x11].all (fun n => met (.csrr false false (.s 3) n) base planDst []) &&
    met (.csrw false 0x10 (.s 5)) base (planCsrw 0x10) [] && met (.csrw false 0x10 (.s 4)) stBar (planCsrw 0x10) [] &&
    met (.snap false) base planNo [] (fun x => !x.s.snapshot.held) = true := by decide +kernel

theorem test_system : [(3 : BitVec 4), 4, 5, 6, 7, 8, 11].map (fun f => scalarAfter (.gid false false (.s 3) f) base 3) =
      [some 0, some 0, some 1, some 8, some 0, some 1, some 0] ∧
    scalarAfter (.csrr false false (.s 3) 1) base 3 = some 0x480 ∧
    ((after (.csrw false 0x10 (.s 5)) (st (withS [(5, 0xFFFF)]))).map (fun t => t.contexts.map (·.snapsel))) = some [0xFF03] ∧
    ((after (.snap false) base).map (fun t => t.snapshot.held)) = some true := by decide +kernel

/-- A launch record at 0x80 and a task record at 0x40 of team memory; the counter of the task is 2. -/
def taskRecord : List Byte := padTo 64 (pack [(2 ^ 32, 8), (7, 8), (2, 4), (1, 1), (0, 1), (0, 1), (0, 1), (0, 4), (0, 4)])
def stWork : State :=
  { st (withS [(1, 0x80), (2, 0x40), (4, na64), (5, 2 ^ 32 + 0x200), (6, 99)]) with
    teams := [{ team2 with mem := bytesPut (bytesPut [] 0x40 taskRecord) 0x80 bootRecord }] }

/-- A task-table entry of the context on die 0 with generation 1: its handle is 2^14. -/
def task0 : TaskEntry := { context := 0, die := 0, index := 0, gen := 1, inUse := true, grid := 1, record := taskRecord, counter := 2 }

theorem test_met_launch : met (.launch false 1 (.s 1)) stWork planA [] (fun x =>
      let r := leBytes 128 (nearRead x.s (whoOf x.s x.g) 0x80 128)
      i64? (scalarA x) == some 0x80 && (nearFaults x.s (whoOf x.s x.g) false 128 64 [0x80]).isNone && recordOk x.s 0 r true &&
        (getTl x.s 2 1).issued == 0 && ((gridOf x.s x.g).map (·.depth)) == some 0 && !nearBad x.s (whoOf x.s x.g) false 0x80 128) &&
    [0x80, 0xF8].all (fun a => met (.launch false 1 (.s 1)) { stWork with teams := stWork.teams.map (fun t => { t with bad := [a] }) } planA []
      (fun x => nearBad x.s (whoOf x.s x.g) false 0x80 128)) &&
    met (.launch false 1 (.s 4)) stWork planA [] (fun x => scalarA x == na64) = true := by decide +kernel

theorem test_met_task : met (.task false false (.s 3) (.s 2)) stWork planAD [] (fun x =>
      let r := leBytes 64 (nearRead x.s (whoOf x.s x.g) 0x40 64)
      i64? (scalarA x) == some 0x40 && (nearFaults x.s (whoOf x.s x.g) false 64 64 [0x40]).isNone && taskOk r &&
        ((addTask x.s 0 0 1 r).map (·.1)) == some (2 ^ 14)) &&
    met (.task false false (.s 3) (.s 2)) { stWork with teams := stWork.teams.map (fun t => { t with bad := [0x78] }) } planAD []
      (fun x => nearBad x.s (whoOf x.s x.g) false 0x40 64) &&
    met (.task false false (.s 3) (.s 4)) stWork planAD [] (fun x => scalarA x == na64) = true := by decide +kernel

/-- The lowest free entry between two that are used, and a full table: every entry of die 0 is used. -/
def taskAt (k : Nat) : TaskEntry := { context := 0, die := 0, index := k, gen := 0x3FFFF, inUse := true, grid := 1, record := taskRecord, counter := 2 }
theorem test_met_task_table : met (.task false false (.s 3) (.s 2)) { stWork with tasks := [taskAt 0, taskAt 2, { taskAt 1 with inUse := false }] }
      planAD [] (fun x => (addTask x.s 0 0 1 taskRecord).any (fun p => p.1 == 2 ^ 14 + 1 && p.2.tasks.length == 3)) &&
    met (.task false false (.s 3) (.s 2)) { stWork with tasks := (List.range 4096).map taskAt } planAD [] = true := by decide +kernel
theorem test_met_task_full : ∀ k, k < 4096 → ∃ z ∈ (List.range 4096).map taskAt, (z.context = 0 ∧ z.die = 0 ∧ z.index = k) ∧ z.inUse = true :=
  fun k h => ⟨taskAt k, List.mem_map.2 ⟨k, List.mem_range.2 h, rfl⟩, ⟨rfl, rfl, rfl⟩, rfl⟩

theorem test_work : ((after (.launch false 1 (.s 1)) stWork).map (fun t => (t.grids.map (·.depth), (getTl t 2 1).issued))) = some ([0, 1], 1) ∧
    scalarAfter (.task false false (.s 3) (.s 2)) stWork 3 = some 0x4000 ∧ scalarAfter (.task false false (.s 3) (.s 4)) stWork 3 = some 0xFFFFFFFF ∧
    ((after (.task false false (.s 3) (.s 2)) stWork).map (fun t => t.tasks.map (·.counter))) = some [2] := by decide +kernel

/-- Handles and amounts in v2 and v4: task 0 twice by 1, then nothing. -/
def stDep : State := { st (withV [(2, fun k => if k < 2 then 0x4000 else 0xFFFFFFFF), (4, fun _ => 1)]) with tasks := [task0] }

def fullQueue : ItemQueue := { grid := 1, target := 0x100000000, items := List.replicate 65536 { payload := 0, seed := 0 } }

theorem test_met_items : met (.item false (.s 6) (.s 5)) stWork planItem [] (fun x =>
      (itemLanes x).all (fun y => isMain y.2.1 && y.2.1 % 4 == 0) && itemsQueued (getDie x.s 0) + (itemLanes x).length == 1) &&
    met (.item false (.s 6) (.s 5)) { stWork with dies := [{ queues := [fullQueue] }, {}, {}, {}] } planItem [] (fun x => decide (65536 ≤ itemsQueued (getDie x.s 0))) &&
    [(5 : Nat), 2 ^ 32 + 2].all (fun n => met (.item false (.s 6) (.s 5)) { stWork with groups := stWork.groups.map (withS [(5, n)]) } planItem []
      (fun x => (itemLanes x).map (·.2.1) == [n] && !x.g.stopped)) &&
    met (.depDec false (.v 2) (.v 4)) stDep planDep [] (fun x => (actingLanes x).length == 8) &&
    met (.depDec false (.v 2) (.v 4)) { stDep with groups := stDep.groups.map (withV [(2, fun k => if k = 5 then 0x4001 else 0xFFFFFFFF)]) } planDep []
      (fun x => (match decTask x.s 0 (srcVal x.e x.i.form.d x.e.slotD (.raw 32) 5) 1 with | .bad => true | _ => false)) &&
    (match decTask stDep 0 0x4000 1 with | .done _ => true | _ => false) && (match decTask stDep 0 0x4001 1 with | .bad => true | _ => false) &&
    (match decTask stDep 0 0x8000 1 with | .bad => true | _ => false) && (match decTask stDep 0 0x4000 0 with | .skip => true | _ => false)
      = true := by decide +kernel

theorem test_items : ((after (.item false (.s 6) (.s 5)) stWork).map (fun t => itemsQueued (getDie t 0))) = some 1 ∧
    ((after (.item false (.s 6) (.s 5)) { stWork with groups := stWork.groups.map (fun g => { g with rng := [(0, 1)] }) }).map (fun t =>
      (getDie t 0).queues.map (fun q => (q.grid, q.target, q.items.map (fun y => (y.payload, y.seed))))) ) =
      some [(1, 0x100000200, [(99, 0xDBF1E996)])] ∧
    ((after (.depDec false (.v 2) (.v 4)) stDep).map (fun t => t.tasks.map (fun z => (z.counter, z.released)))) = some [(0, true)] := by
  decide +kernel

/-! ### Timelines and engines -/

/-- Timeline 0 has issued and completed 2, timeline 1 has issued 2 and completed 1 with a failure at 1. -/
def stTl : State :=
  let t1 : Timeline := { issued := 2, completed := 1, failure := some { number := 1, elem := 7, cause := 0x14 } }
  let tls : List Timeline := [{ issued := 2, completed := 2 }, t1] ++ List.replicate 6 ({} : Timeline)
  { st (withS [(1, 1), (2, 2), (3, na64), (4, 50), (5, 9)]) with teams := [{ team2 with tl := tls }] }

theorem test_met_timelines : met (.tlread false (.s 6) 1) stTl planTlread [] &&
    [((0 : BitVec 3), (3 : BitVec 5)), (0, 1), (0, 2), (1, 2), (1, 1)].all (fun p => met (.tlwait p.1 p.2) stTl (planOne p.2.toNat) scalarPlaces
      (fun x => !x.g.stopped)) &&
    [(0 : BitVec 3), 1].all (fun l => met (.tlbind (.s 4) l 5) stTl (planTlbind 5) scalarPlaces) = true := by decide +kernel

theorem test_timelines : scalarAfter (.tlread false (.s 6) 1) stTl 6 = some 1 ∧ scalarAfter (.tlread false (.s 6) 1) stTl 7 = some 2 ∧
    ((groupAfter (.tlwait 0 2) stTl).map (·.wait)) = some none ∧ ((groupAfter (.tlwait 1 2) stTl).map (·.wait)) = some (some (.timeline 1)) ∧
    ((after (.tlwait 1 1) stTl).map (fun t => t.grids.map (·.cause))) = some [0x14] ∧
    ((after (.tlbind (.s 4) 0 5) stTl).map (fun t => ((getTl t 2 0).issued, (getTl t 2 0).limit))) = some (9, 50) := by decide +kernel

/-- A record of rank 2: base, type, class and the extents, elements side by side. -/
def record (base type cls e0 e1 : Nat) : BitVec 512 :=
  BitVec.ofNat 512 (base + e0 * 2 ^ 64 + e1 * 2 ^ 96 + 1 * 2 ^ 192 + e0 * 2 ^ 240 + type * 2 ^ 384 + 1 * 2 ^ 392 + cls * 2 ^ 396 + 0xFFFFFFFF * 2 ^ 416)

/-- Records: h1 in main memory, h2 and h3 in team memory (f32), h4 sparse, h5 a run in main memory, h6 indexes (i32), of two by two;
h7 is 32 wide, h8 has rank 1. -/
def stRec : State :=
  st (fun g => withS [(6, 0x100), (7, 1), (8, 1), (9, 2)] { g with
    h := cellSet (cellSet (cellSet (cellSet (cellSet (cellSet [] 1 (record (2 ^ 32 + 0x1000) 16 0 2 2)) 2 (record 0x40 16 0 2 2)) 3 (record 0x80 16 0 2 2))
      4 (record (2 ^ 32 + 0x1000) 16 1 2 2)) 5 (record (2 ^ 32 + 0x1000) 16 3 2 2)) 6 (record 0xC0 5 0 2 2) |>
      fun m => cellSet (cellSet m 7 (record 0x200 16 0 32 2)) 8 (record 0x100 16 0 4 1 - BitVec.ofNat 512 (2 ^ 392)) })

/-- The premises of the engine instructions in one: records, list and timeline. -/
def copyMet (i : Instr) (d r n : Nat) : Bool :=
  met i stRec (planCopy d r n) scalarPlaces (fun x => (copyRecords (copySpec i) (Shape.of (hGet x.g r)) (Shape.of (hGet x.g d))).isNone &&
    (!(copySpec i).list || (listFault x.s x.g (scalarK x 0)).isNone) && (getTl x.s 2 0).issued == 0)

theorem test_met_copies : copyMet (.copyIn false 2 1 0) 2 1 0 && copyMet (.copyOut false 1 2 0) 1 2 0 && copyMet (.copyOutz false 5 2 0) 5 2 0 &&
    copyMet (.copyNn false 3 2 0) 3 2 0 && copyMet (.copyRdAdd false 3 2 0) 3 2 0 && copyMet (.copyRdMin false 3 2 0) 3 2 0 &&
    copyMet (.copyRdMax false 3 2 0) 3 2 0 && copyMet (.copyDns false 3 4 0) 3 4 0 && copyMet (.copyGth false 2 1 0 6) 2 1 6 &&
    copyMet (.copySct false 1 2 0 6) 1 2 6 && copyMet (.copyBlk false 7 1 0 6) 7 1 6 && copyMet (.fetchLst false 8 1 0 6) 8 1 6 &&
     copyMet (.copyMig false 1 0 7) 1 1 7 && copyMet (.fetch false 2 1 0 7) 2 1 7 = true := by
  decide +kernel

theorem test_met_select : [(Instr.topkR false 6 2 0 9), .topkC false 6 2 0 9].all (fun i =>
      met i { stRec with groups := stRec.groups.map (fun g => { g with h := cellSet g.h 7 (record 0x100 16 0 2 2) }) } (planTopk 6 2 9) scalarPlaces (fun x =>
        let hs := Shape.of (hGet x.g 2); let hi := Shape.of (hGet x.g 6); let hv := Shape.of (hGet x.g 7)
        [hs, hi, hv].all (fun h => h.valid && h.cls == 0 && h.rank == 2 && h.near) && !hs.ty.isRaw && hi.ty.isInt && !convertRefused hs.ty hv.ty &&
          decide (1 ≤ sGet x.g 9) && decide (sGet x.g 9 ≤ 64) && decide ((selectDims true hs).2 ≤ 65536)) &&
      met i { stRec with groups := stRec.groups.map (withS [(9, 0xFFFFFFFF)]) } (planTopk 6 2 9) scalarPlaces)
      = true := by decide +kernel

theorem test_engines : ((after (.copyIn false 2 1 0) stRec).map (fun t => t.ops.map (fun o => (o.kind, o.number, o.recs.length)))) = some [(.copy, 1, 2)] ∧
    ((after (.fetch false 2 1 0 7) stRec).map (fun t => t.ops.map (fun o => o.args.map (·.toNat)))) = some [[1, 1]] ∧
    ((after (.topkR false 6 2 0 9) stRec).map (fun t => t.ops.map (·.kind))) = some [.select] := by decide +kernel

/-! ### Collectives -/

/-- Peer set 5 of two members; s4 names it, s5 a status word, s6 a member list. -/
def stColl : State :=
  { st (fun g => withS [(4, 5), (5, 0x200), (6, 0x240)] { g with
      h := cellSet (cellSet (cellSet [] 1 (record 0x40 16 0 2 2)) 2 (record 0x80 16 0 2 2)) 3 (record 0xC0 16 0 2 1) }) with
    contexts := [{ ctx0 with peers := [{ set := 5, rank := 0, members := [1, 2], trap := false, timeout := 500000 }] }] }

theorem test_met_collectives : [(Instr.collArAdd false 2 1 0 4, 2, 1), (.collArMin false 2 1 0 4, 2, 1), (.collArMax false 2 1 0 4, 2, 1),
    (.collRsAdd false 3 1 0 4, 3, 1), (.collRsMin false 3 1 0 4, 3, 1), (.collRsMax false 3 1 0 4, 3, 1), (.collAg false 1 3 0 4, 1, 3),
    (.collA2a false 2 1 0 4, 2, 1)].all (fun y => met y.1 stColl (planColl y.2.1 y.2.2 4) scalarPlaces (fun x =>
      (collChecks x 0 (Shape.of (hGet x.g y.2.2)) (Shape.of (hGet x.g y.2.1))).isNone && ((definedSet x.s 0 5).map (fun p => p.state)) == some 1)) &&
    met (.psetReform false 0 4) stColl (planReform 4) scalarPlaces (fun x => (definedSet x.s 0 5).isSome &&
      (nearOperand x.s x.g 0x200).isNone && (nearOperand x.s x.g 0x240).isNone && (tlFull x.s 2 0).isNone) &&
    met (.psetStatus false false (.s 7) (.s 4)) stColl planAD [] (fun x => scalarA x == 5) = true := by decide +kernel

theorem test_collectives : ((after (.collArAdd false 2 1 0 4) stColl).map (fun t => t.ops.map (fun o => (o.kind, o.seq)))) = some [(.coll, 1)] ∧
    ((after (.psetReform false 0 4) stColl).map (fun t => (getSet t 0 5).map (fun p => p.state))) = some (some 3) ∧
    scalarAfter (.psetStatus false false (.s 7) (.s 5)) (st (withS [(5, na64)])) 7 = some na64 := by decide +kernel

/-! ### The matrix engine -/

/-- Names 0 and 1 dense i8, 2 N:M i8 with the pattern 2:4, 3 block-scaled; tile 0 of the integer kind; h1 near, h2 in main memory. -/
def stMat : State :=
  let name (k : Nat) (ty : BitVec 8) (l : BitVec 2) (side : Cells 8) : SlotName := { name := k, type := ty, layout := l, form := false, store := [], sidecar := side }
  { st (fun g => withS [(2, 0x40), (3, na64), (4, 3 + 5 * 2 ^ 32)] (withMode modeI32 { g with
      h := cellSet (cellSet [] 1 (record 0x40 1 0 2 2)) 2 (record (2 ^ 32 + 0x1000) 1 0 8 4) })) with
    teams := [{ team2 with slots := [name 0 1 0 [], name 1 1 0 [], name 2 1 2 [(0, 2)], name 3 0x22 1 []], accs := [{ kind := 8 }, {}, {}, {}] }] }

theorem test_met_slots : met (.slotc 4 0 0 1) stMat planMatrix [] (fun x => (getName x.s 2 4).isNone && decide (0 < slotsFree x.s 0) && !slotQueued x.s 0) &&
    met (.slotr false 0) stMat planMatrix [] (fun x => (getName x.s 2 0).isSome) &&
    met (.slotw false 2 (.s 3)) stMat planMatrix [] (fun x => scalarA x == na64) &&
    met (.slotw false 2 (.s 2)) stMat planMatrix [] (fun x => (getName x.s 2 2).any (fun n => n.layout != 0) &&
      i64? (scalarA x) == some 0x40 && (nearFaults x.s (whoOf x.s x.g) false 64 64 [0x40]).isNone) &&
    met (.prune false 0 0 2) stMat planMatrix [] && met (.prune false 2 0 1) stMat planMatrix [] (fun x =>
      (getName x.s 2 0).any (fun n => n.layout == 0 && n.ty.width == 8) && (getName x.s 2 2).any (fun n => n.layout == 2)) &&
    met (.slotc 4 0 0 1) { stMat with teams := stMat.teams ++ [{ team2 with id := 9, slots := (List.range 12).map (fun k => { name := k, type := 1, layout := 0, form := false }) }] }
      planMatrix [] (fun x => slotsFree x.s 0 == 0) = true := by decide +kernel

/-- With an absent origin no element is located, whatever the record: the premise of `slotl` and `slott` at name 0. -/
theorem test_met_slot_loads : [(Instr.slotl false 0 1 (.s 3)), .slott false 0 1 (.s 3)].all (fun i =>
      met i stMat planMatrix [] (fun x => (getName x.s 2 0).isSome && scalarA x == na64)) = true ∧
    ∀ trans : Bool, slotLoadFault stMat (whoOf stMat group3) (Shape.of (record 0x40 1 0 2 2))
      { name := 0, type := 1, layout := 0, form := false, store := [], sidecar := [] } trans 0 na64 = none := by
  refine ⟨by decide +kernel, fun trans => ?_⟩
  have h : (Shape.of (record 0x40 1 0 2 2)).locate [none, none] = none := by decide +kernel
  have e : ∀ r c, loadCoords trans na64 r c = [none, none] := fun r c => by simp [loadCoords, originPlus]
  have b : scaleBlocks (Shape.of (record 0x40 1 0 2 2)) { name := 0, type := 1, layout := 0, form := false, store := [], sidecar := [] } = [] := by
    decide +kernel
  have l : loadFault stMat (whoOf stMat group3) [] = none := by decide +kernel
  have n : ∀ m : List (Nat × Nat), m.filterMap (fun _ => (none : Option (Int × Nat))) = [] := fun m => by simp
  unfold slotLoadFault
  simp only [e, h, b, Option.map_none, n, List.filterMap_nil, List.append_nil, l]
  cases trans <;> decide +kernel

theorem test_met_products : met (.accz false 1 1 3) stMat planMatrix [] (fun x => (getTile x.s 2 3).isSome) &&
    [(Instr.mmaS false 0 1 0, false), (.mmaX false 0 1 0, false), (.mmaSp false 2 1 0 0, true), (.mmaSp false 2 1 1 0, true)].all (fun y =>
      met y.1 stMat planMatrix [] (fun x => (productFault x.s x.g (if y.2 then 2 else 0) 1 0 y.2).isNone && (getTile x.s 2 0).isSome)) &&
    met (.mmav false 0 2 1 7 1 0) stMat planMatrix [] (fun x => let h := Shape.of (hGet x.g 2)
      h.valid && h.rank == 2 && h.cls == 0 && decide (h.extAt 0 ≤ 128) && decide (h.extAt 1 ≤ 16384 / h.ty.width) && h.type == 1 && h.main &&
        (getName x.s 2 0).any (fun n => n.layout == 0 && n.type.toNat == 1 && kindCode n.ty == 8)) = true := by decide +kernel

/-- Behind an operation that has not had its effect, on name 0 and tile 0. -/
def stBlocked : State := { stMat with cores := [(0, { matrix := [{ team := 2, group := 3, slots := [0], tiles := [0], op := some 9 }] })] }

theorem test_met_blocked : [Instr.slotr false 0, .accz false 1 1 0, .mmaS false 0 1 0].all (fun i => met i stBlocked planMatrix [] (fun x =>
      matrixBlocked x.s x.g i && (match matrixEffect i x.s.age { x with s := projected x.s 0 } with | .inr _ => true | .inl _ => false))) &&
    met (.accz false 1 1 3) stBlocked planMatrix [] (fun x => !matrixBlocked x.s x.g (.accz false 1 1 3)) &&
    met (.slotw false 2 (.s 2)) { stMat with teams := stMat.teams.map (fun t => { t with bad := [0x78] }) } planMatrix []
      (fun x => nearBad x.s (whoOf x.s x.g) false 0x40 64) &&
    met (.slotc 0 0 0 1) stMat planMatrix [] (fun x => (getCore x.s 0).matrix.all (·.todo.isNone) && !x.g.stopped) = true := by decide +kernel

/-- A word behind another changes nothing yet: the name is still there, and the entry holds the word. -/
theorem test_blocked : ((after (.slotr false 0) stBlocked).map (fun t => ((getName t 2 0).isSome, (getCore t 0).matrix.map (·.todo.isSome)))) =
    some (true, [false, true]) := by decide +kernel

theorem test_met_tiles : met (.accr false false (.v 4) (.s 4) 0) stMat (planAccr 0) [] (fun x => (getTile x.s 2 0).isSome) &&
    met (.accw false (.s 4) (.v 4) 0) stMat (planAccw 0) [] (fun x => (getTile x.s 2 0).isSome) = true := by decide +kernel

/-- What `accw` writes at row 3 from column 5 on, `accr` reads back; `accz` sets the kind; a claimed name is in the team. -/
theorem test_matrix :
    let s := { stMat with groups := stMat.groups.map (withV [(4, fun k => 10 + k)]) }
    ((after (.accw false (.s 4) (.v 4) 0) s).bind (fun t => (getTile t 2 0).map (fun z => (cellGet z.vals (3 * 128 + 6)).toNat))) = some 11 ∧
    laneAfter (.accr false false (.v 5) (.s 4) 0) ((after (.accw false (.s 4) (.v 4) 0) s).getD base) 5 7 = some 17 ∧
    ((after (.accz false 0 1 3) stMat).bind (fun t => (getTile t 2 3).map (·.kind))) = some 9 ∧
    ((after (.slotc 4 0 0 1) stMat).map (fun t => t.teams.map (fun m => m.slots.length))) = some [5] ∧
    ((after (.mmav false 0 2 1 7 1 0) stMat).map (fun t => t.ops.map (·.kind))) = some [.mmav] := by decide +kernel

/-! ### Sparse regions -/

/-- A live empty region of f32 at 2^32 + 0x2000 with its pool behind it (05 R91), described by h2; coordinates in v1, values in v2,
two lanes active. -/
def stSparse : State :=
  { st (fun g => withS [(1, na64), (2, 5)] (withV [(1, fun k => 10 - k), (2, fun k => 0x3F800000 + k)] { g with
      em := 3
      h := cellSet [] 2 (record (2 ^ 32 + 0x2000) 16 1 100 1 - BitVec.ofNat 512 (2 ^ 392) + BitVec.ofNat 512 (7 * 2 ^ 448)) })) with
    mem := bytesPut (bootTables []) 0x202000 (pack [(2 ^ 32 + 0x4000, 8), (16, 4), (0, 4), (0xFFFFFFFF, 4), (0, 4), (0xFFFFFFFF, 4), (0, 2),
      (16, 1), (1, 1), (0, 8), (0, 8), (7, 2)]) }
/-- The region after two entries, the group ready again. -/
def stFilled : State :=
  match after (.spst false (.v 2) (.v 1) 2) stSparse with
  | some t => { t with groups := t.groups.map (fun g => { g with wait := none }) }
  | none => base

/-- The region of h2 opens at a state. -/
def regionOf (x : Issue) : Option Desc := match openRegion x.s 0 (Shape.of (hGet x.g 2)) none with | .inr d => d | .inl _ => none

def laneFine (x : Issue) : Bool :=
  (applyLanes (sparseLane x (Shape.of (hGet x.g 2)) (typeOf x.g.mode x.e.vec)) (actingLanes x) (markRegion x.s 0 (regionOf x))).2.2.isNone

theorem test_met_sparse : [Instr.spld false false (.v 3) (.v 1) 2, .spst false (.v 2) (.v 1) 2, .spadd false (.v 2) (.v 1) 2].all
    (fun i => met i stSparse (planSparse 2) [] (fun x => (regionOf x).any (fun y => y.ty == (Shape.of (hGet x.g 2)).type) && laneFine x)) = true := by
  decide +kernel

theorem test_met_sparse_counts : met (.spcnt false (.s 4) 2) stSparse (planSpcnt 2) [] (fun x => (regionOf x).isSome) &&
    met (.spgrow false false (.s 4) (.s 2) 2) stSparse (planSpgrow 2) [] (fun x => (regionOf x).any (fun y =>
      match writeDesc x.s 0 { y with cap := y.cap + 5 } with | .inr _ => true | .inl _ => false)) &&
    met (.spit false (.v 4) (.s 1) 2) stSparse (planSpit 2) [] (fun x => (regionOf x).any (fun y =>
      match nextEntries x.s 0 y none 2 with | .inr _ => true | .inl _ => false)) = true := by decide +kernel

/-- The region of a state as its descriptor stands, with the entries of its one leaf: the premises of the map law of SparseWords, with
an empty tree and with a leaf of two keys. -/
def lawMet (s : State) (es : List (Nat × Nat)) : Bool :=
  let d := 2 ^ 32 + 0x2000
  match readDesc s 0 d with
  | .inl _ => false
  | .inr dd =>
    let i := if dd.height = 0 then (if dd.free = noNode then dd.hwm else dd.free) else dd.root
    (if dd.height = 0 then es == [] else dd.height == 1 && (match readNode s 0 dd i with | .inr (.leaf _ _ l) => l == es | _ => false)) &&
      s.bad == [] && dd.va == d && (match idxPhys s 0 d .read, idxPhys s 0 (dd.nodeAt i) .read with
        | .inr p, .inr q => decide (p + 64 ≤ q) && (walkPath (entryWord s 0) d 4 0x10000 ++ walkPath (entryWord s 0) (dd.nodeAt i) 4 0x10000).all
            (fun a => (decide (a + 8 ≤ p) || decide (p + 64 ≤ a)) && (decide (a + 8 ≤ q) || decide (q + 256 ≤ a)))
        | _, _ => false) &&
      [9, 2 ^ 64 - 1].all (fun key => [0, 0x3F800000].all (fun val =>
        match storeKey s 0 dd (.flt 8 23) key val with
        | .inl _ => false
        | .inr t => match readDesc t 0 d with
          | .inl _ => false
          | .inr e => (match findKey t 0 e key with | .inr o => o == (if val = 0 then none else some val) | .inl _ => false)))

theorem test_met_sparse_law : lawMet stSparse [] && lawMet stFilled [(9, 0x3F800001), (10, 0x3F800000)] = true := by decide +kernel

/-- Regions that do not open: an error in the descriptor, and a type that is not the region's. -/
theorem test_met_sparse_stops : [({ stSparse with bad := [0x202000] }, 0x50), ({ stSparse with mem := bytesPut stSparse.mem 0x20201E [5] }, 0x02)].all
    (fun (p : State × Nat) => met (.spld false false (.v 3) (.v 1) 2) p.1 (planSparse 2) [] (fun x =>
      let h := Shape.of (hGet x.g 2)
      match openRegion x.s 0 h (some h.type) with | .inl (.flt c) => c == p.2 | _ => false)) = true := by decide +kernel

theorem test_sparse : scalarAfter (.spcnt false (.s 4) 2) stFilled 4 = some 2 ∧ laneAfter (.spld false false (.v 3) (.v 1) 2) stFilled 3 1 = some 0x3F800001 ∧
    laneAfter (.spit false (.v 4) (.s 1) 2) stFilled 4 0 = some 9 ∧ laneAfter (.spit false (.v 4) (.s 1) 2) stFilled 6 0 = some 0x3F800001 ∧
    scalarAfter (.spgrow false false (.s 4) (.s 2) 2) stSparse 4 = some 21 := by decide +kernel

/-! ### Search trees and routing -/

/-- A tree of eight nodes in scratchpad at 0x8000_0000, its root alone (12 R229 to R235); a record of two children at 0x40. -/
def stTree : State :=
  { st (withS [(0, 0x80000000), (1, na64), (2, 0), (4, 0x40), (5, 4), (6, 0), (7, 0x3F800000)]) with
    teams := [{ team2 with mem := bytesPut [] 0x40 (pack [(2, 4), (0, 4), (0x3F000000, 4), (11, 4), (0x3F000000, 4), (12, 4)]) }]
    mem := bytesPut (bytesPut (bootTables []) 0x80000000000 (pack [(0x80000040, 4), (8, 4), (0xFFFFFFFF, 4), (0, 4), (0, 4), (1, 4), (0x3F800000, 4),
      (0, 4), (0, 4), (0, 1), (1, 1), (0, 2), (1, 4)])) 0x80000000040 (pack [(0, 4), (0, 4), (0, 2), (0, 2), (0xFFFFFFFF, 4), (0xFFFFFFFF, 4)]) }
/-- The tree after the expansion of its root. -/
def stGrown : State :=
  match after (.texp false false (.s 2) (.s 4) 0) stTree with
  | some t => { t with groups := t.groups.map (fun g => withS [(2, 0), (3, 1)] { g with wait := none }) }
  | none => base

/-- The tree of a word passes. -/
def treeFine (made : Bool) (x : Issue) : Bool :=
  i64? (sGet x.g 0) == some 0x80000000 && (nearFaults x.s (whoOf x.s x.g) false 64 64 [0x80000000]).isNone &&
  ((treeAt x x.s 0x80000000).refused (whoOf x.s x.g) made).isNone

theorem test_met_luna : met (.tnew false false (.s 8) 0) stTree (planTree 0) [] (treeFine true) &&
    met (.tgrow false false (.s 8) (.s 5) 0) stTree (planTree 0) [] (fun x => treeFine false x &&
      (match (treeAt x x.s 0x80000000).tgrow 4 with | .inr r => (match r.1.commit with | .inr _ => true | .inl _ => false) | .inl _ => false)) &&
    met (.tdesc false false (.s 8) 0) stTree (planTdesc 0) [] (treeFine false) &&
    met (.tdesc false false (.v 8) 0) stGrown (planTdesc 0) [] (treeFine false) &&
    met (.texp false false (.s 2) (.s 4) 0) stTree (planTexp 0) [] (fun x => treeFine false x && (recordFaults x 0x80000000).isNone) &&
    met (.trd false (.s 8) (.s 2) 0) stGrown (planTrd 0) [] (fun x => treeFine false x && decide (srcVal x.e x.i.form.a x.e.slotA (.raw 32) 0 < 8)) &&
    met (.tnew false false (.s 8) 1) stTree (planTree 1) [] (fun x => (i64? (sGet x.g 1)).isNone) = true := by decide +kernel

theorem test_met_luna_timeline : met (.tback false (.s 6) 0 0) stGrown (planTback 0) [] (fun x => treeFine false x && (tlFull x.s 2 0).isNone) &&
    met (.treuse false 0 (.s 3) 0) stGrown (planTreuse 0) [] (fun x => treeFine false x &&
      (match (treeAt x x.s 0x80000000).treuse 1 with | .inr t => (match t.commit with | .inr _ => true | .inl _ => false) | .inl _ => false)) &&
    met (.tback false (.s 6) 0 1) stGrown (planTback 1) [] (fun x => (i64? (sGet x.g 1)).isNone) = true := by decide +kernel

/-- Trees that are refused: no valid form, and an error in the descriptor; the faults are 0x22 and 0x50. -/
theorem test_met_luna_refusals : met (.tdesc false false (.s 8) 0) { stTree with mem := bytesPut stTree.mem 0x80000000004 [0, 0, 0, 0] } (planTdesc 0) []
      (fun x => (treeAt x x.s 0x80000000).refused (whoOf x.s x.g) false == some (.flt 0x22)) &&
    met (.tnew false false (.s 8) 0) { stTree with bad := [0x80000000020] } (planTree 0) []
      (fun x => (treeAt x x.s 0x80000000).refused (whoOf x.s x.g) true == some .broken) = true := by decide +kernel

/-- The root's expansion gives node 1, with two children; a descent of the grown tree reaches a child; four nodes more. -/
theorem test_luna : scalarAfter (.texp false false (.s 2) (.s 4) 0) stTree 2 = some 1 ∧ scalarAfter (.tgrow false false (.s 8) (.s 5) 0) stTree 8 = some 12 ∧
    scalarAfter (.tdesc false false (.s 8) 0) stTree 8 = some 0 ∧ scalarAfter (.tdesc false false (.s 8) 0) stGrown 8 = some 1 ∧
    scalarAfter (.trd false (.s 8) (.s 2) 0) stGrown 10 = some 0x20000 ∧ scalarAfter (.tnew false false (.s 8) 0) stTree 8 = some 0 ∧
    ((after (.treuse false 0 (.s 3) 0) stGrown).map (fun t => t.ops.map (fun o => (o.kind, o.number)))) = some [(.luna, 1)] ∧
    (((after (.tback false (.s 6) 0 0) stGrown).bind (after (.lunaOperationComplete 4))).map (fun t =>
      (bytesGet t.mem 0x80000000040 4, (getTl t 2 0).completed))) = some (1, 1) := by decide +kernel

/-- A routing descriptor at 0x8000_1000 for four experts, one choice, batches of two tokens, already in use (18 R326), and logits at
0x8000_2000. -/
def routeBytes : List Byte :=
  pack [(4, 2), (1, 1), (0, 1), (0, 1), (0, 1), (1, 1), (0, 1), (2, 4), (4, 4), (0, 4), (0, 4), (0, 16), (1, 4), (0, 4), (0x80003000, 4)]
def stRoute : State :=
  { st (withS [(1, na64), (2, 0), (3, 0x80002000), (4, 0x80001000), (5, 1), (6, 0)]) with mem := bytesPut (bootTables []) 0x80000001000 routeBytes }
/-- The descriptor has failed with the cause 0x15. -/
def stRouteBad : State := { stRoute with mem := bytesPut stRoute.mem 0x80000001006 [2, 0x15] }

theorem test_met_routing : met (.rqpush false (.s 2) (.s 3) 4) stRoute (planRqpush 4) [] (fun x => !x.e.vec &&
      (routeFault x.s (whoOf x.s x.g) 0x80001000 [0x80002000]).isNone && (routeFailure x.s 0 0x80001000).isNone && (rqLanes x).length == 1) &&
    met (.rqpush false (.s 2) (.s 3) 1) stRoute (planRqpush 1) [] (fun x => (i64? (sGet x.g 1)).isNone) &&
    met (.rqpush false (.s 2) (.s 3) 4) stRouteBad (planRqpush 4) [] (fun x => routeFailure x.s 0 0x80001000 == some 0x15 &&
      (routeFault x.s (whoOf x.s x.g) 0x80001000 [0x80002000]).isNone) &&
    [(5 : Fin 56), 6].all (fun k => met (.rqwait false (.s 7) (.s k) 4) stRoute (planRqwait 4) [] (fun x =>
      (routeFault x.s (whoOf x.s x.g) 0x80001000 []).isNone && (routeFailure x.s 0 0x80001000).isNone)) &&
    met (.rqwait false (.s 7) (.s 5) 1) stRoute (planRqwait 1) [] = true := by decide +kernel

/-- One packet queued, a wait for batch 1 and none for batch 0. -/
def stPushed : State := (after (.rqpush false (.s 2) (.s 3) 4) stRoute).getD base
theorem test_routing : (stPushed.dies.map (fun d => d.packets.length)) = [1, 0, 0, 0] ∧
    ((groupAfter (.rqwait false (.s 7) (.s 5) 4) stRoute).map (·.wait)) = some (some .batch) ∧
    scalarAfter (.rqwait false (.s 7) (.s 6) 4) stRoute 7 = some 0 ∧ scalarAfter (.rqwait false (.s 7) (.s 6) 1) stRoute 7 = some na64 := by
  decide +kernel

/-! ### Waits -/

/-- The event turns a state into one that satisfies `h`. -/
def goes (i : Instr) (s : State) (h : State → Bool) : Bool := match exec i s with | .next t => h t | _ => false
/-- The group waits as said, and the event ends the wait, with the fault given if any. -/
def wakes (i : Instr) (s : State) (w : Wait) (c : Option (BitVec 8)) : Bool :=
  (getGroup s 3).any (fun g => g.wait == some w) &&
  goes i s (fun t => (getGroup t 3).any (fun g => g.wait.isNone && (g.pending.map (fun f => f.cause)) == c))
/-- A group with a wait; and a state after a word. -/
def waits (w : Wait) : State := st (fun g => { g with wait := some w })
def afterThe (i : Instr) (s : State) : State := (after i s).getD base
def headed (s : State) : Bool := s.groups.any (fun g => (headIssue s g).isSome)

theorem test_met_waits_plain : wakes (.sparseOperationAnswer 3) (waits (.sparse 0 1 2)) (.sparse 0 1 2) none && wakes (.lunaAnswer 3) (waits (.luna 0 1 2)) (.luna 0 1 2) none &&
    wakes (.taskTableRoom 3) (waits .taskRoom) .taskRoom none && [Wait.fullEmpty, .slotClaim, .fuse, .taskRoom, .packets, .batch, .bar 1 0].all (fun w =>
      wakes (.waitLimitExpiry 3) (waits w) w (some 0x30)) &&
    wakes (.waitLimitExpiry 3) { waits (.gbar 0) with grids := stGang.grids } (.gbar 0) (some 0x30) &&
    goes (.issuedWordFinished 3) (st (fun g => { g with unfinished := [[3]] })) (fun t => t.groups.all (fun g => g.unfinished.isEmpty)) = true := by
  decide +kernel

theorem test_met_waits_timeline :
    let a := afterThe (.tlwait 1 2) stTl
    let done (n : DWord) (s : State) : State := { s with teams := s.teams.map (fun t => { t with tl := t.tl.map (fun l => { l with completed := n }) }) }
    let b := afterThe (.tlbind (.s 4) 1 5) stTl
    headed a && wakes (.timelineWaitEnd 3) (done 2 a) (.timeline 1) none && wakes (.timelineLimitExpiry 3) a (.timeline 1) (some 0x30) &&
    headed b && wakes (.timelineWaitEnd 3) (done 2 b) (.timeline 1) none = true := by decide +kernel

theorem test_met_waits_memory :
    let a := afterThe (.wfeFull (.s 1)) stNear
    let b := afterThe (.item false (.s 6) (.s 5)) { stWork with dies := [{ queues := [fullQueue] }, {}, {}, {}] }
    let c := afterThe (.rqwait false (.s 7) (.s 5) 4) stRoute
    headed a && wakes (.fullEmptyWake 3) (nearSetFe a (whoOf base group3) 0x40 true) .fullEmpty none &&
    headed b && wakes (.itemQueueRoom 3) { b with dies := List.replicate 4 {} } .items none &&
    headed c && wakes (.batchWaitEnd 3) { c with mem := bytesSet c.mem 0x80000001010 4 1 } .batch none = true := by decide +kernel

/-- An answer frees the slot that the run held; a failed descriptor comes before the limit; a gang's limit stands still while a team
of it is saved, or all have arrived. -/
theorem test_met_waits_kinds :
    let c := afterThe (.rqwait false (.s 7) (.s 5) 4) stRoute
    let gang (f : Grid → Grid) (t : Team → Team) : State := { waits (.gbar 0) with grids := stGang.grids.map f, teams := base.teams.map t }
    goes (.lunaAnswer 3) (st (fun g => { g with wait := some (.luna 0 1 2), slot := some 1, runWords := [7] })) (fun t =>
      t.groups.all (fun g => g.slot.isNone && g.runWords.isEmpty && g.wait.isNone)) &&
    goes (.lunaAnswer 3) (st (fun g => { g with wait := some (.luna 0 1 2), slot := some 1, runCount := 2 })) (fun t => t.groups.all (fun g => g.slot == some 1)) &&
    wakes (.waitLimitExpiry 3) { c with mem := bytesPut c.mem 0x80000001006 [2, 0x15] } .batch (some 0x15) &&
    [gang (fun g => { g with gbArrived := [3] }) id, gang id (fun t => { t with saved := true })].all (fun s =>
      goes (.waitLimitExpiry 3) s (fun t => t == s)) = true := by decide +kernel

theorem test_met_waits_queues :
    let p : Packet := { context := 0, team := 0, desc := 0x80001000, bits := 0 }
    let a := afterThe (.rqpush false (.s 2) (.s 3) 4) { stRoute with dies := [{ packets := List.replicate 4096 p }, {}, {}, {}] }
    let b := afterThe (.fence false 2 4) (afterThe (.copyIn false 2 1 0) stRec)
    headed a && wakes (.packetQueueRoom 3) { a with dies := List.replicate 4 {} } .packets none &&
    headed b && wakes (.releaseWaitEnd 3) { b with ops := [] } .release none = true := by decide +kernel

/-! ### Cores and groups -/

theorem test_met_frames :
    let full := { base with groups := group3 :: (List.range 31).map (fun k => { group3 with id := k + 10, held := 15, residency := k + 1 }) }
    let asks (w : Wait) (s : State) : State := { s with groups := s.groups.map (fun g => if g.id = 3 then { g with wait := some w } else g) }
    poolFree base 0 != 0 && wakes (.frameGrant 0) (waits (.unit 1)) (.unit 1) none && wakes (.frameGrant 0) (waits (.replay 1)) (.replay 1) none &&
    wakes (.frameGrant 0) (waits .split) .split none && goes (.frameGrant 0) (waits .split) (fun t => t.agenda == [.run 3]) &&
    poolFree full 0 == 0 && wakes (.frameGrant 0) (asks (.replay 1) full) (.replay 1) none &&
    (let taken := (List.range 12).map (fun k => ({ name := k, type := 1, layout := 0, form := false } : SlotName))
     let c := afterThe (.slotc 4 0 0 1) { stMat with teams := stMat.teams ++ [{ team2 with id := 9, slots := taken }] }
     let free := { c with teams := c.teams.filter (fun t => t.id == 2) }
     wakes (.slotClaimGrant 0) free .slotClaim none && goes (.slotClaimGrant 0) free (fun t => t.agenda == [.run 3] && t.groups.all (·.granted))) = true := by decide +kernel

theorem test_met_starvation :
    let s := { base with groups := (group3 :: (List.range 15).map (fun k => { group3 with id := k + 10, held := 15, residency := k + 1 })).map
                           (fun g => { g with wait := some (.unit 0), serial := 20 - g.residency, held := 15 })
                         cores := [(0, { reserveFull := false })] }
    poolFree s 0 == 0 && (frameWaiters s 0).length == (coreGroups s 0).length && (frameWaiters s 0).all (fun h => h.id == 3 || decide (h.serial < 20)) &&
    wakes (.registerStarvation 0) s (.unit 0) (some 0x0A) = true := by decide +kernel

theorem test_met_arbitration : (base.groups.all (fun g => ready base g && decide (classOf base g < 4) && g.slot.isNone)) &&
    goes (.issueArbitration 0 1) base (fun t => t.groups.map (·.slot) == [some 1]) &&
    goes (.issueAging 3) base (fun t => t.groups.all (·.aged)) &&
    (let m : MatrixOp := { team := 2, group := 3, slots := [0], tiles := [] }
     let m2 : MatrixOp := { m with op := some 9 }
     let b := afterThe (.slotr false 0) stBlocked
     goes (.matrixOperationComplete 0) { base with cores := [(0, { matrix := [m] })] } (fun t => (getCore t 0).matrix.isEmpty) &&
     goes (.matrixOperationComplete 0) { base with cores := [(0, { matrix := [m2, m] })] } (fun t => (getCore t 0).matrix == [m2]) &&
     goes (.matrixOperationComplete 0) (modCore b 0 (fun c => { c with matrix := c.matrix.drop 1 })) (fun t => (getName t 2 0).isNone)) = true := by
  decide +kernel

theorem test_met_group_steps :
    let faulted (s : State) : State := { s with groups := s.groups.map (fun g => { g with pending := some (fault 0x30) }) }
    goes (.trapEntry 3) (faulted stHandler) (fun t => t.groups.all (·.handler)) &&
    goes (.faultEscalation 3) (faulted base) (fun t => t.grids.all (fun g => g.ended && g.cause == 0x30)) &&
    goes (.fuseRendezvous 3) { pair with groups := pair.groups.map (fun g => { g with wait := some .fuse }) } (fun t =>
      t.groups.map (fun g => (g.width, vGet g 1 9, g.em)) == [(16, 101, 0x3FF)]) &&
    goes (.barrierPhaseComplete 2 1) (setBar (waits (.bar 1 0)) 2 1 { phase := 1 }) (fun t => t.groups.all (fun g => g.wait.isNone)) &&
    goes (.gbarComplete 1) { waits (.gbar 0) with grids := stGang.grids.map (fun g => { g with gbArrived := [3] }) }
      (fun t => t.groups.all (fun g => g.wait.isNone) && t.grids.all (fun g => g.gbPhase == 1)) &&
    goes (.faultBufferGrant 0) { waits (.page [2 ^ 33] false [2 ^ 27, 2 ^ 27 + 1, 2 ^ 27 + 2] 0 3) with contexts := [] } (fun t =>
      t.dies.map (·.buffered) == [3, 0, 0, 0]) &&
    goes (.faultBufferGrant 2) { waits (.fetch (2 ^ 33) false 2) with contexts := [] } (fun t => t.dies.map (·.buffered) == [0, 0, 1, 0] &&
      t.groups.all (fun g => g.wait == some (.fetch (2 ^ 33) true 2))) = true := by
  decide +kernel

/-! ### Engines' operations, sets and Admirals -/

/-- The operation that a word has just issued, by its identifier (the first is 4), ends. -/
def ends (i : Instr) (s : State) : Bool := (getOp s 4).any (fun o => o.parked.isEmpty) && goes i s (fun t => (getOp t 4).isNone)

theorem test_met_operations : ends (.copyOperationComplete 4) (afterThe (.copyIn false 2 1 0) stRec) &&
    ends (.fetchOperationComplete 4) (afterThe (.fetch false 2 1 0 7) stRec) &&
    ends (.selectOperationComplete 4) (afterThe (.topkR false 6 2 0 8) stRec) &&
    ends (.lunaOperationComplete 4) (afterThe (.tback false (.s 6) 0 0) stGrown) &&
    goes (.copyOperationComplete 4) (afterThe (.copyMig false 1 0 7) stRec) (fun t => (getOp t 4).any (·.started)) &&
    goes (.copyOperationComplete 4) (afterThe (.copyOperationComplete 4) (afterThe (.copyMig false 1 0 7) stRec)) (fun t =>
      (getOp t 4).isNone || !t.migrations.isEmpty) && (let m := afterThe (.mmav false 0 2 1 7 1 0) stMat
     (getOp m 4).any (fun o => o.kind == .mmav && o.parked.isEmpty && !mmavBlocked m o)) &&
    (getOp (afterThe (.tback false (.s 6) 0 0) stGrown) 4).any (fun o => (lunaLanesOf o)[o.next]?.any (fun l => l.lane == 0)) = true := by
  decide +kernel

/-- A copy of elements 1 to 4 at main address 2^32 + 0x1000 (0x201000) moves them; an error at the last stops it there. -/
theorem test_copy :
    let s := afterThe (.copyIn false 2 1 0) { stRec with mem := bytesPut stRec.mem 0x201000 (pack [(1, 4), (2, 4), (3, 4), (4, 4)]) }
    ((after (.copyOperationComplete 4) s).map (fun t => [bytesGet (t.teams.getD 0 team2).mem 0x40 4, bytesGet (t.teams.getD 0 team2).mem 0x4C 4,
      (getTl t 2 0).completed.toNat])) = some [1, 4, 1] ∧
    ((after (.engineOperationFault 4 0x50 3) s).map (fun t => bytesGet (t.teams.getD 0 team2).mem 0x48 4 :: ((getTl t 2 0).failure.map
      (fun f => [f.elem.toNat, f.cause.toNat])).getD [])) = some [3, 3, 0x50] := by decide +kernel

/-- A source on a page that is not mapped: the copy parks on it, with an entry for each of its lines. -/
theorem test_met_parking :
    let s := afterThe (.copyIn false 2 1 0) { stRec with groups := stRec.groups.map (fun g => { g with h := cellSet g.h 1 (record (2 ^ 33) 16 0 2 2) }) }
    goes (.copyOperationComplete 4) s (fun t => t.ops.map (fun o => (o.parked, o.lines)) == [([2 ^ 33], [2 ^ 27])] && t.dies.map (·.buffered) == [1, 0, 0, 0])
      = true := by decide +kernel

/-- A gang of peer set 255 whose every group here has arrived. -/
def stGbarWaits : State :=
  { waits (.gbar 0) with grids := [{ grid1 with record := (bootRecord.set 0x1F 1).set 0x2D 0, gbArrived := [3] }] }

/-- Both members' messages for the set: four elements of 1.0. -/
def message : List Byte := pack [(0x3F800000, 4), (0x3F800000, 4), (0x3F800000, 4), (0x3F800000, 4)]

/- What a timeout and a lost member leave of a collective's destination is free (log 10), so only their premises are evaluated. -/
theorem test_met_sets :
    let s := afterThe (.collArAdd false 2 1 0 4) { stColl with teams := [{ team2 with mem := bytesPut [] 0x40 message }] }
    let r := afterThe (.psetReform false 0 4) { stColl with teams := [{ team2 with mem := bytesPut [] 0x240 (pack [(1, 4), (0, 4), (1, 4)]) }] }
    (getOp s 4).any (fun o => o.parked.isEmpty && o.kind == .coll) && (getSet s 0 5).any (fun p => p.state == 1 && p.epoch == 0) &&
    let h : List Byte := match s.ops with | o :: _ => collHeader o.word (Shape.of (record 0x40 16 0 2 2)) (Shape.of (record 0x80 16 0 2 2)) (engMode o.mode) | [] => []
    h.length == 20 && goes (.collectiveComplete 4 [[], h ++ message]) s (fun t => (getOp t 4).isNone && bytesGet (t.teams.getD 0 team2).mem 0x80 4 == 0x40000000 &&
      bytesGet (t.teams.getD 0 team2).mem 0x200 8 == 0x1FFFF0000) &&
    [([[], hostAbort], 3), ([[], (7 :: h.drop 1) ++ message], 2)].all (fun (y : List (List Byte) × Nat) =>
      (match s.ops with | o :: _ => o.parked.isEmpty | [] => false) && decide (y.1.length = 2 ∧ (y.2 = 3 ↔ hostAbort ∈ y.1))) &&
    goes (.collectiveComplete 4 [[], h ++ message]) { s with contexts := s.contexts.map (fun c => { c with peers := c.peers.map (fun p => { p with epoch := 1 }) }) }
      (fun t => (getOp t 4).isNone) &&
    goes (.psetReformComplete ⟨4, [[]]⟩) r (fun t => (getSet t 0 5).any (fun p => p.state == 1 && p.epoch == 1 && p.members == [1])) &&
    (getSet r 0 5).any (fun p => p.state == 3) && (setOps s 0 5).map (·.kind) == [.coll] &&
    stGbarWaits.grids.all (fun g => gbarWaits stGbarWaits g) && (getOp stGbarWaits 1).isNone &&
    (getSet s 0 5).any (fun p => p.state != 2 && p.state != 0 && decide (1 < p.members.length)) = true := by
  decide +kernel

theorem test_met_admiral :
    let two := afterThe (.admiralPacket 0) (afterThe (.rqpush false (.s 2) (.s 3) 4) { afterThe (.admiralPacket 0) stPushed with
      groups := stPushed.groups.map (withS [(2, 1)]) })
    (stPushed.dies.headD {}).packets.all (fun p => !heldPacket stPushed p) && !routeSealed stPushed 0 0x80001000 &&
    goes (.admiralPacket 0) stPushed (fun t => routeField t 0 0x80001000 0x14 4 == 1 && (t.dies.headD {}).packets.isEmpty) &&
    goes (.admiralPacket 0) { stPushed with mem := bytesPut stPushed.mem 0x80000001006 [2, 0x15] } (fun t => (t.dies.headD {}).packets.isEmpty) &&
    goes (.admiralPacket 0) { stPushed with contexts := [{ ctx0 with seals := [{ index := 0, start := 0x80001000, size := 64, team := 2, refs := 0 }] }] }
      (fun t => routeFailure t 0 0x80001000 == some 0x13) &&
    goes (.admiralPacket 0) (afterThe (.rqpush false (.s 2) (.s 3) 4) { stRoute with groups := stRoute.groups.map (withS [(2, 7)]) })
      (fun t => routeField t 0 0x80001000 0x24 4 == 1) &&
    routeBad { stPushed with bad := [0x80000001000] } 0 0x80001000 && (fullBatch two 0).isSome && !customBatch two 0 &&
    routeBad { two with bad := [0x80000001000] } 0 0x80001000 && goes (.batchRouting ⟨0, 64⟩) two (fun t => routeField t 0 0x80001000 0x10 4 == 1 && routeField t 0 0x80001000 0x14 4 == 0) &&
    goes (.routingProgramTimeout 0) { two with mem := bytesSet two.mem 0x80000001004 1 1 } (fun t => routeFailure t 0 0x80001000 == some 0x15) = true := by
  decide +kernel

/-! ### Work -/

/-- A queue of four records at 0x300000 with one legal record, and one that is all zeros. -/
def stQueue : State :=
  { base with queues := [{ q := 0, context := 0, base := 0x300000, k := 2, tail := 1 }], mem := bytesPut base.mem 0x300000 bootRecord }
def stQueueBad : State := { stQueue with mem := base.mem }
/-- A grid whose one team waits on die 0; as a gang; a released task; an item group of two. -/
def stTicket : State := { base with grids := [{ grid1 with tickets := [{ next := 0, stop := 1 }, ⟨0, 0⟩, ⟨0, 0⟩, ⟨0, 0⟩] }], teams := [], groups := [], cur := none }
def stGangWaits : State := { base with grids := [{ grid1 with record := bootRecord.set 0x1F 1, placed := false, target := [0, 1] }], teams := [], groups := [], cur := none }
def stGangShared : State := { stGangWaits with grids := [{ grid1 with record := (bootRecord.set 0x1F 1).set 0x2D 0, placed := false, target := [0, 1] }],
                                               contexts := [{ ctx0 with peers := [{ set := 255, rank := 0, members := [1], trap := false, timeout := 500000 }] }] }
def stTask : State := { base with tasks := [{ task0 with counter := 0, released := true }] }
def items2 : List Item := [{ payload := 0x500000007, seed := 9 }, { payload := 8, seed := 10 }]
def stItems : State := { base with dies := [{ formed := [{ grid := 1, target := 0x100000200, items := items2, order := 2 }] }, {}, {}, {}] }

theorem test_met_dispatch : nextQueue stQueue == some 0 && recordOk stQueue 0 (headRecord stQueue (stQueue.queues.headD { q := 0, context := 0, base := 0, k := 2 })) false &&
    goes (.launchRecordDispatch 0) stQueue (fun t => t.grids.length == 2 && t.queues.map (·.head) == [1]) &&
    goes (.launchRecordDispatch 0) stQueueBad (fun t => t.grids.map (·.status) == [0, 4]) = true := by decide +kernel

theorem test_met_placements : nextWork stTicket 0 == some (.ticket 1) && goes (.teamPlacement 0) stTicket (fun t => t.teams.length == 1 && t.groups.length == 1) &&
    nextWork stTask 0 == some (.task 0 0 0) && goes (.taskPlacement 0) stTask (fun t => t.teams.map (·.origin) == [0, 1] && t.groups.map (fun g => sGet g 0) == [0, 7]) &&
    nextWork stItems 0 == some (.items 0 0) && goes (.itemGroupPlacement 0) stItems (fun t => t.groups.map (fun g => (g.em, vGet g 0 0, vGet g 1 0)) ==
      [(0xFF, 0, 0), (3, 7, 5)]) && base.teams.all (fun t => decide (t.id < base.nextId)) = true := by decide +kernel

/-- A core of die 1 takes the highest ticket of die 0, the nearest die that has one; and its own, the lowest (16 R295). -/
theorem test_met_tickets : stTicket.grids.all (fun g => (takeTicket { g with tickets := [⟨0, 3⟩, ⟨0, 0⟩, ⟨0, 0⟩, ⟨0, 0⟩] } 1).any (fun y => y.1 == 2 &&
      y.2.tickets == [⟨0, 2⟩, ⟨0, 0⟩, ⟨0, 0⟩, ⟨0, 0⟩]) && (takeTicket { g with tickets := [⟨0, 3⟩, ⟨5, 7⟩, ⟨0, 0⟩, ⟨0, 0⟩] } 1).any (fun y => y.1 == 5)) = true := by
  decide +kernel

theorem test_met_gangs : nextWork stGangWaits 0 == some (.gang 1) && goes (.gangPlacement 1) stGangWaits (fun t => t.teams.length == 1 && t.grids.all (·.placed)) &&
    recPeers ((bootRecord.set 0x1F 1).set 0x2D 0) == 255 &&
    goes (.gangPlacement 1) stGangShared (fun t => t.grids.map (fun g => (g.reserved, g.placed)) == [(true, false)] && t.groups.all (·.stopped)) &&
    goes (.gangLaunchCommit 1) (afterThe (.gangPlacement 1) stGangShared) (fun t => t.grids.map (fun g => (g.reserved, g.placed)) == [(false, true)] &&
      t.groups.map (·.stopped) == [false]) &&
    goes (.gangLaunchAbort 1) (afterThe (.gangPlacement 1) stGangShared) (fun t => t.teams.isEmpty && t.groups.isEmpty) &&
    goes (.gangLaunchAbort 1) stGangShared (fun t => t.grids.map (fun g => (g.status, g.cause)) == [(2, 0x32)]) = true := by decide +kernel

theorem test_met_item_groups :
    let q (n : Nat) : ItemQueue := { grid := 1, target := 0x100000200, items := List.replicate n { payload := 1, seed := 1 } }
    goes (.itemGroupForm 0 0) { base with dies := [{ queues := [q 65] }, {}, {}, {}] } (fun t => (getDie t 0).formed.map (fun y => y.items.length) == [64] &&
      itemsQueued { getDie t 0 with formed := [] } == 1) &&
    goes (.itemWaitExpiry 0 0) { base with dies := [{ queues := [q 2] }, {}, {}, {}] } (fun t => (getDie t 0).formed.map (fun y => y.items.length) == [2] &&
      (getDie t 0).queues.isEmpty) = true := by decide +kernel

/-- The team has no group left; the grid has nothing left. -/
def stEmpty : State := { base with teams := [{ team2 with live := [] }], groups := [], cur := none }
def stGone : State := { stEmpty with teams := [], grids := [{ grid1 with retired := 1, counts := [(7, 3)] }] }

theorem test_met_ends_of_work : goes (.teamFree 2) stEmpty (fun t => t.teams.isEmpty && t.grids.map (·.retired) == [1]) &&
    stGone.grids.all (fun g => g.parked.isNone && gridDone stGone g && (retirePage stGone g).isNone &&
      (match doneAt stGone g with | .inr l => l.length == 16 | .inl _ => false)) &&
    goes (.gridRetirement 1) stGone (fun t => t.grids.isEmpty && bytesGet t.mem 0x300008 8 == 1) = true := by decide +kernel

/-- A saved team whose image of 64 bytes lies at 0x400000, with its digest; and a drained team that may be saved. -/
def stSaved : State :=
  let m := bytesSet (bootTables []) 0x400000 8 0x1234
  { base with
    mem := bytesPut m 0x400040 (imageDigest m 0x400000 0x40), groups := [], cur := none
    teams := [{ team2 with saved := true, draining := true, imageAt := 0x400000, imageLen := 0x40, savedGroups := [{ group3 with stopped := true }] }] }
def stDrained : State := { st (fun g => { g with stopped := true }) with teams := [{ team2 with draining := true }] }

/-- The completion address is no multiple of 16: the record is lost. Counts of one record, each but a zero one added. -/
theorem test_met_lost : (let s := { stGone with grids := stGone.grids.map (fun g => { g with record := g.record.set 0x40 8 }) }
    s.grids.all (fun g => (retirePage s g).isNone && gridDone s g && (match doneAt s g with | .inl (.flt c) => c == 0x12 | _ => false)) &&
    goes (.gridRetirement 1) s (fun t => bytesGet t.mem 0x24040 8 == 1 && bytesGet t.mem 0x24048 8 == 0xFFFF && t.msix.contains 3)) = true := by
  decide +kernel
theorem test_met_record : (List.range 48).Nodup ∧ peekAt (addRecord [(8, 5)] (List.range 48) [0, 3]) ((List.range 48).drop 8 |>.take 8) = 8 := by
  decide +kernel

theorem test_met_save : stDrained.teams.all (fun t => t.draining && !t.saved && !t.live.isEmpty) &&
    stDrained.groups.all (fun g => g.wait.isNone && g.unfinished.isEmpty) && stDrained.ops.isEmpty && (getCore stDrained 0).matrix.isEmpty = true := by
  decide +kernel

theorem test_met_resume : stSaved.teams.all (fun t => resumable stSaved t 5 && imageOk stSaved.mem t) = true := by decide +kernel

/-! ### The host -/

/-- A command taken up, with its context and operands. -/
def commands (code : BitVec 8) (ops : List Nat) (s : State := base) : State :=
  let o (k : Nat) : DWord := BitVec.ofNat 64 (ops.getD k 0)
  { s with mailbox := { code := code, context := 0, op0 := o 0, op1 := o 1, op2 := o 2, op3 := o 3, go := true } }
/-- The command completes with a status and a result. -/
def completes (i : Instr) (s : State) (status result : Nat) : Bool :=
  s.mailbox.go && s.device != 0 && goes i s (fun t => !t.mailbox.go && t.mailbox.status.toNat == status && t.mailbox.result.toNat == result)

def pads (o : Nat) : List Nat := (List.range 4).map (fun k => 0x80000000000 + k * 2 ^ 30 + o)
def stCreate : State := commands 0x01 [0x50000, 0x60000, 0x1000 + 0x1000 * 2 ^ 32, 0x80000]

theorem test_met_create : createOk stCreate && (getCtx stCreate 7).isNone && placementOk stCreate (pads 0x400000) (pads 0x500000) 0x1000 0x1000 &&
    completes (.createContext 7 (pads 0x400000) (pads 0x500000)) stCreate 0 7 && completes (.createContext 7 [] []) stCreate 2 0 &&
    completes (.createContext 7 [] []) (commands 0x01 [1]) 1 0 = true := by decide +kernel

theorem test_met_destroy : completes .destroyContext { commands 0x02 [] with contexts := [] } 1 0 &&
    goes .destroyContext (commands 0x02 []) (fun t => t.mailbox.begun && t.grids.all (·.ended)) &&
    (let s := { commands 0x02 [] with grids := [], teams := [], groups := [] }
     completes .destroyContext { s with mailbox := { s.mailbox with begun := true } } 0 0) = true := by decide +kernel

theorem test_met_commands : completes .invalidate (commands 0x03 []) 0 0 && completes .invalidate { commands 0x03 [] with contexts := [] } 1 0 &&
    completes .releaseSnapshot (commands 0x0C []) 0 0 && completes .epochLength (commands 0x0B [100]) 0 0 && completes .epochLength (commands 0x0B [99]) 1 0 &&
    completes .configureQueue (commands 0x0A [3, 0x300000, 2]) 0 0 && completes .configureQueue (commands 0x0A [64, 0x300000, 2]) 1 0 &&
    completes .killGrid (commands 0x08 [0xFFFF, 0]) 0 0 && completes .killGrid (commands 0x08 [5, 0]) 1 0 &&
    completes .preEmpt (commands 0x05 [513]) 1 0 && completes .returnCores (commands 0x06 [1]) 1 0 &&
    completes .returnCores { commands 0x06 [1] with cores := [(4, { takenFrom := [(0, 1)] })] } 0 0 && completes .definePeerSet (commands 0x07 [64, 0x300000]) 1 0 &&
    completes .attest (commands 0x0D [2 ^ 60, 0]) 1 0 && completes .loadRoutingProgram (commands 0x09 [4]) 1 0 &&
    deviceBytes 0x300000 4 && !deviceBytes (2 ^ 60) 4 && completes (.reProvision true) (commands 0x0E [2 ^ 60, 4]) 1 0 = true := by
  decide +kernel

/-- More commands with operands in range; a drained context's die list is a permutation. -/
theorem test_met_commands_more : completes .invalidate (commands 0x03 [2 ^ 32, 65536] { base with oldEntries := [(0, 0x13000, 0x5)] }) 0 0 &&
    completes .configureQueue (commands 0x0A [0, 0x300000, 12]) 0 0 && completes .epochLength (commands 0x0B [100000]) 0 0 &&
    completes .configureQueue (commands 0x0A [0, 0x300000, 13]) 1 0 && completes .epochLength (commands 0x0B [100001]) 1 0 &&
    completes .returnCores { commands 0x06 [2] with cores := [(4, { takenFrom := [(0, 1)] })] } 1 0 &&
    deviceBytes 0x300000 (512 * 1024) && deviceBytes 0x400000 32 && decide (ctx0.remap.Perm [0, 1, 2, 3]) && decide ((teamsOn base 0 0).length ≤ 8) = true := by
  decide +kernel

/-- A member list in memory that names this package, whatever its route identifier is: the operands of DEFINE_PEER_SET are in range. -/
theorem test_met_define : ∃ m : Memory, bytesGet m 0x300000 4 = 1 ∧ bytesGet m 0x300004 4 = 0 ∧ deviceBytes 0x300000 12 = true ∧
    Config.routeId 0 ∈ (List.range 1).map (fun k => BitVec.ofNat 32 (bytesGet m (0x300000 + 8 + 4 * k) 4)) :=
  ⟨bytesSet (bytesSet [] 0x300000 8 1) 0x300008 4 (Config.routeId 0).toNat,
   (bytesGet_bytesSet_other 4 _ _ _ _ _ (by omega)).trans (by decide), (bytesGet_bytesSet_other 4 _ _ _ _ _ (by omega)).trans (by decide),
   by decide, by simp [bytesGet_bytesSet_self, Nat.mod_eq_of_lt (Config.routeId 0).isLt]⟩

theorem test_met_set_full_empty : completes .setFullEmpty (commands 0x0F [0x80000000000, 32, 1]) 0 0 &&
    goes .setFullEmpty (commands 0x0F [0x80000000000, 32, 1]) (fun t => t.fe.length == 2) &&
    completes .setFullEmpty (commands 0x0F [0x80000000008, 32, 1]) 1 0 && completes .setFullEmpty (commands 0x0F [0, 32, 1]) 1 0 &&
    completes .setFullEmpty (commands 0x0F [0x80000000000, 32, 2]) 1 0 = true := by decide +kernel

/-- A group waits to fetch from the page at 2^33; its request stands in the table of the save area. -/
def stParked : State :=
  { st (fun g => { g with wait := some (.fetch (2 ^ 33) true 0), serial := 1 }) with
    mailbox := { code := 0x04, go := true }, mem := bytesSet (bytesSet base.mem 0x20000 8 (2 ^ 33)) 0x20008 4 1 }

/-- Two groups with words in their queues, an operation and a grid wait for that page; the group of the smaller serial is the second. -/
def stParkedAll : State :=
  let w : Wait := .page [2 ^ 33] true [2 ^ 27] 0 0
  { stParked with
    groups := [{ group3 with wait := some w, serial := 7, rq := [queuedAdd] }, { group3 with id := 5, wait := some w, serial := 4, rq := [queuedAdd] }]
    ops := [{ blankOp .copy 0 0 0 [] [] with id := 9, team := 2, group := 3, parked := [2 ^ 33] }]
    grids := [{ grid1 with parked := some (2 ^ 33) }] }

theorem test_met_page_answer_all : [0, 1].all (fun n =>
    goes .pageAnswer { stParkedAll with mailbox := { stParkedAll.mailbox with op1 := BitVec.ofNat 64 n } } (fun t =>
      t.groups.map (fun g => (g.wait.isNone, g.pending.isSome)) == [(true, n == 1), (true, n == 1)] &&
      t.ops.map (fun o => (o.parked, o.failed)) == [([], if n = 1 then [2 ^ 33] else [])] && t.grids.all (·.parked.isNone))) &&
    goes .pageAnswer stParkedAll (fun t => t.agenda.contains (.run 3) && t.agenda.contains (.run 5) &&
      decide (t.agenda.idxOf (.run 5) < t.agenda.idxOf (.run 3)) && t.agenda.contains (.event (.copyOperationComplete 9))) &&
    (stParkedAll.groups.map (·.id)).Nodup = true := by decide +kernel

theorem test_met_page_answer : requestAt stParked.mem 0x20000 0 == some (2 ^ 33) && stParked.groups.all (fun g => g.wait.any (·.awaits (2 ^ 33))) &&
    goes .pageAnswer stParked (fun t => t.groups.all (fun g => g.wait.isNone && g.pending.isNone) && t.mailbox.status == 0) &&
    goes .pageAnswer { stParked with mailbox := { stParked.mailbox with op1 := 1 } } (fun t => t.groups.all (fun g => g.pending.isSome)) = true := by
  decide +kernel

theorem test_met_pre_empt :
    goes .preEmpt (commands 0x05 [1]) (fun t => t.mailbox.begun && t.teams.all (·.draining) && (getCore t 0).takenFrom.length == 1) &&
    (let s := commands 0x05 [1] { stDrained with teams := stDrained.teams.map (fun t => { t with saved := true }) }
     completes .preEmpt { s with mailbox := { s.mailbox with begun := true, images := 1 } } 0 1) = true := by decide +kernel

theorem test_met_doorbell : goes (.doorbell 0 3) stQueue (fun t => t.queues.map (·.tail) == [3]) &&
    goes (.doorbell 0 0) stQueue (fun t => t.queues.map (·.tail) == [1] && t.telemetry.doorbells == 1) &&
    goes (.apertureBaseWrite 0xFFFFFFFFFFFFFFFF) base (fun t => t.aperture == 0xFFFFFFFFF0000) &&
    goes (.snapshotTrigger 1) base (fun t => t.snapshot.held && t.snapshot.source == 2) = true := by decide +kernel

theorem test_met_registers : goes (.registerWrite 0x1000 0x70005) base (fun t => t.mailbox.code == 5 && t.mailbox.context == 7) &&
    goes (.registerWrite 0x1020 9) base (fun t => t.mailbox.op3 == 9) &&
    goes (.registerWrite 0x103C 1) { base with mailbox := { code := 3 } } (fun t => t.mailbox.go) &&
    goes (.registerWrite 0x1038 0x100000000) { base with mailbox := { code := 0x10 } } (fun t => !t.mailbox.go && t.mailbox.status == 1) &&
    goes (.registerWrite 0x103C 1) { base with mailbox := { code := 3, go := true } } (fun t => t.mailbox.status == 3) &&
    goes (.registerWrite 0x103C 1) State.reset (fun t => !t.mailbox.go && t.mailbox.status == 3) = true := by decide +kernel

theorem test_met_aperture : goes (.hostBar2Write 0x300000 [1, 2, 3]) base (fun t => bytesGet t.mem 0x300000 3 == 0x30201 && t.telemetry.dropped == 0) &&
    goes (.hostBar2Read 0x300000 2) (afterThe (.hostBar2Write 0x300000 [1, 2, 3]) base) (fun t => t.hostData == [1, 2]) &&
    goes (.hostBar2Read 0 2) { base with aperture := 0x8F000000000 } (fun t => t.hostData == [0xFF, 0xFF]) &&
    goes (.hostBar2Write 0 [1]) { base with aperture := 0x8F000000000 } (fun t => t.telemetry.dropped == 1) &&
    goes (.deviceReset) { base with flash := some [1] } (fun t => t == { State.reset with flash := some [1] }) = true := by decide +kernel

/-- The bytes of BAR0: the state, the base, a mailbox operand and a running command; nothing while the device boots. -/
theorem test_bar0 : [leNat (bar0Read base 8 1), leNat (bar0Read { base with aperture := 0x20000 } 0x10 8),
      leNat (bar0Read { base with mailbox := { code := 7, go := true, op1 := 9 } } 0x1010 8),
      leNat (bar0Read { base with mailbox := { code := 7, go := true, op1 := 9 } } 0x1038 8), leNat (bar0Read State.reset 0x1000 8),
      leNat (bar0Read base 0x20018 4)] = [1, 0x20000, 9, 2 ^ 32, 0, 544] := by decide +kernel

theorem test_met_bar2_errors : physBad { base with bad := [0x300000] } false 0x300000 1 && !physBad { base with bad := [0x300000] } false 0x300040 1 &&
    goes (.hostBar2Write 0x300000 (List.replicate 64 1)) { base with bad := [0x300000] } (fun t => t.bad == []) &&
    goes (.hostBar2Write 0x13000 [0x5D]) base (fun t => t.oldEntries == [(0, 0x13000, 0x20007D)]) &&
    (coreGroups base 0).find? (·.residency == 0) == some group3 && !base.snapshot.held = true := by decide +kernel

/-! ### Beneath the work -/
/-! A page of the second tier, counted 9 times, in context 0 and one of HBM, counted once, in context 1, each behind tables of its own:
a witness of the promotion and demotion clauses of BeneathTheWork. What a table of 512 entries lists is read off its one entry. -/
def stEpoch : State :=
  { base with
    contexts := [ctx0, { ctx0 with num := 1, root := 0x50000 }]
    mem := [(0x10000, 1), (0x10002, 2), (0x20000, 1), (0x20002, 3), (0x30020, 1), (0x30022, 4), (0x40000, 0x5D), (0x40005, 1), (0x40007, 4),
      (0x50000, 1), (0x50002, 6), (0x60000, 1), (0x60002, 7), (0x70020, 1), (0x70022, 8), (0x80000, 0x5D), (0x80002, 0x40)]
    access := [(0x400000 / 65536, 1), (0x10000000000 / 65536, 9)], promote := 8, demote := 4 }

theorem flatten_none {α : Type} (f : Nat → List α) : ∀ n, (∀ j, j < n → f j = []) → ((List.range n).map f).flatten = []
  | 0, _ => rfl
  | n + 1, h => by
    rw [List.range_succ, List.map_append, List.flatten_append, flatten_none f n (fun j hj => h j (by omega))]
    simp [h n (by omega)]

theorem flatten_one {α : Type} (f : Nat → List α) (k : Nat) : ∀ n, k < n → (∀ j, j < n → j ≠ k → f j = []) →
    ((List.range n).map f).flatten = f k
  | 0, h, _ => by omega
  | n + 1, h, h0 => by
    rw [List.range_succ, List.map_append, List.flatten_append]
    by_cases hk : k = n
    · subst hk
      rw [flatten_none f k (fun j hj => h0 j (by omega) (by omega))]
      simp
    · rw [flatten_one f k n (by omega) (fun j hj hjk => h0 j (by omega) hjk)]
      simp [h0 n (by omega) (by omega)]

theorem bytesGet_absent (m : Cells 8) : ∀ n a, (∀ e ∈ m, e.1 < a ∨ a + n ≤ e.1) → bytesGet m a n = 0
  | 0, _, _ => rfl
  | n + 1, a, h => by
    have c : ∀ l : Cells 8, (∀ e ∈ l, e.1 ≠ a) → cellGet l a = 0 := by
      intro l
      induction l with
      | nil => intro _; rfl
      | cons e l ih =>
        intro hl
        have := hl e (by simp)
        simp only [cellGet, this, ↓reduceIte]
        exact ih (fun e he => hl e (by simp [he]))
    have hz := c m (fun e he => by have := h e he; omega)
    simp [bytesGet, hz, bytesGet_absent m n (a + 1) (fun e he => by have := h e he; omega)]

theorem tablePages_inner (m : Memory) (ctx l tbl va k e : Nat) (hk : k < 512)
    (h : ∀ j, j < 512 → j ≠ k → ∀ e ∈ m, e.1 < tbl + 8 * j ∨ tbl + 8 * j + 8 ≤ e.1)
    (he : bytesGet m (tbl + 8 * k) 8 = e) (h2 : e % 2 = 1) (ht : tableOk e false = true) :
    tablePages m ctx (l + 2) tbl va = tablePages m ctx (l + 1) (e / 2 ^ 8 % 2 ^ 44 * 2 ^ 8) (va + k * 2 ^ (21 + 9 * (l + 1))) := by
  refine (flatten_one _ k 512 hk (fun j hj hjk => by simp [bytesGet_absent m 8 _ (h j hj hjk)])).trans ?_
  simp only [he, h2, ht]
  simp

theorem tablePages_leaf (m : Memory) (ctx tbl va k e p t : Nat) (hk : k < 512)
    (h : ∀ j, j < 512 → j ≠ k → ∀ e ∈ m, e.1 < tbl + 8 * j ∨ tbl + 8 * j + 8 ≤ e.1)
    (he : bytesGet m (tbl + 8 * k) 8 = e) (h2 : e % 2 = 1) (h7 : e / 2 ^ 7 % 2 = 0)
    (hp : ∀ a at_, pageEntry a (2 ^ 21) at_ e = .page p (2 ^ 21) at_ t) :
    tablePages m ctx 1 tbl va = [{ context := ctx, va := va + k * 2 ^ 21, size := 2 ^ 21, entry := e, entryAt := tbl + 8 * k }] := by
  refine (flatten_one _ k 512 hk (fun j hj hjk => by simp [bytesGet_absent m 8 _ (h j hj hjk)])).trans ?_
  simp only [he, h2, h7, hp]
  simp

/-- The pages of a context whose tables stand at a, at b, at c and at d, with one entry each: a page at d's. -/
theorem pages_path (m : Memory) (ctx a b c d e p t : Nat)
    (far : [(a, 0), (b, 0), (c, 4), (d, 0)].all (fun y => m.all (fun z => decide (z.1 < y.1) || decide (y.1 + 4096 ≤ z.1) ||
      (decide (y.1 + 8 * y.2 ≤ z.1) && decide (z.1 < y.1 + 8 * y.2 + 8)))) = true)
    (path : [(a, b), (b, c), (c + 32, d)].all (fun y => bytesGet m y.1 8 == y.2 + 1 && tableOk (y.2 + 1) false &&
      (y.2 + 1) / 2 ^ 8 % 2 ^ 44 * 2 ^ 8 == y.2 && (y.2 + 1) % 2 == 1) = true)
    (he : bytesGet m d 8 = e) (h2 : e % 2 = 1) (h7 : e / 2 ^ 7 % 2 = 0)
    (hp : ∀ x at_, pageEntry x (2 ^ 21) at_ e = .page p (2 ^ 21) at_ t) :
    tablePages m ctx 4 a 0 = [{ context := ctx, va := 2 ^ 32, size := 2 ^ 21, entry := e, entryAt := d }] := by
  have one (tbl k : Nat) (h : m.all (fun z => decide (z.1 < tbl) || decide (tbl + 4096 ≤ z.1) ||
      (decide (tbl + 8 * k ≤ z.1) && decide (z.1 < tbl + 8 * k + 8))) = true) :
      ∀ j, j < 512 → j ≠ k → ∀ e ∈ m, e.1 < tbl + 8 * j ∨ tbl + 8 * j + 8 ≤ e.1 := by
    intro j hj hjk e he
    have := List.all_eq_true.1 h e he
    simp only [Bool.or_eq_true, Bool.and_eq_true, decide_eq_true_eq] at this
    omega
  simp only [List.all_cons, List.all_nil, Bool.and_true, Bool.and_eq_true, beq_iff_eq] at far path
  obtain ⟨fa, fb, fc, fd⟩ := far
  obtain ⟨⟨⟨⟨ra, ta⟩, na⟩, oa⟩, ⟨⟨⟨rb, tb⟩, nb⟩, ob⟩, ⟨⟨rc, tc⟩, nc⟩, oc⟩ := path
  rw [tablePages_inner m ctx 2 a 0 0 (b + 1) (by omega) (one a 0 fa) ra oa ta, na,
    tablePages_inner m ctx 1 b _ 0 (c + 1) (by omega) (one b 0 fb) rb ob tb, nb,
    tablePages_inner m ctx 0 c _ 4 (d + 1) (by omega) (one c 4 fc) rc oc tc, nc,
    tablePages_leaf m ctx d _ 0 e p t (by omega) (one d 0 fd) he h2 h7 hp]
  simp

/-- The two pages, and the counts by which the one may be promoted and the other demoted. -/
theorem test_met_epoch : mappedPages stEpoch =
      [{ context := 0, va := 2 ^ 32, size := 2 ^ 21, entry := 0x1000000005D + 2 ^ 58, entryAt := 0x40000 },
       { context := 1, va := 2 ^ 32, size := 2 ^ 21, entry := 0x40005D, entryAt := 0x80000 }] ∧
    (mappedPages stEpoch).map (fun p => (p.pinned, p.tier, p.count stEpoch)) = [(false, 1, 9), (false, 0, 1)] ∧
    stEpoch.promote = 8 ∧ stEpoch.demote = 4 ∧ Cells.wf stEpoch.access = true := by
  have h : mappedPages stEpoch = [{ context := 0, va := 2 ^ 32, size := 2 ^ 21, entry := 0x1000000005D + 2 ^ 58, entryAt := 0x40000 },
       { context := 1, va := 2 ^ 32, size := 2 ^ 21, entry := 0x40005D, entryAt := 0x80000 }] := by
    unfold mappedPages
    rw [show stEpoch.contexts = [ctx0, { ctx0 with num := 1, root := 0x50000 }] from rfl, List.map_cons, List.map_cons, List.map_nil,
      show ctx0.root.toNat = 0x10000 from rfl, show (0x50000 : DWord).toNat = 0x50000 from rfl,
      pages_path stEpoch.mem ctx0.num 0x10000 0x20000 0x30000 0x40000 (0x1000000005D + 2 ^ 58) 0x10000000000 (0x1000000005D + 2 ^ 58) (by decide)
        (by decide) (by decide) (by decide) (by decide) (fun _ _ => rfl),
      pages_path stEpoch.mem 1 0x50000 0x60000 0x70000 0x80000 0x40005D 0x400000 0x40005D (by decide) (by decide) (by decide) (by decide)
        (by decide) (fun _ _ => rfl)]
    decide
  rw [h]
  decide +kernel


theorem test_met_beneath :
    let m : Migration := { page := 2 ^ 32, context := 0, size := 32, entryAt := 0x13000, old := 0x20007D, dest := 0x500000, op := none }
    goes .epochEnd { base with contexts := [], access := [(32, 5)] } (fun t => t.access == [(32, 2)]) &&
    goes (.migrationComplete (2 ^ 32)) { base with migrations := [m], mem := bytesSet base.mem 0x200010 1 0x77 } (fun t =>
      bytesGet t.mem 0x500010 1 == 0x77 && t.migrations.isEmpty && bytesGet t.mem 0x13000 8 % 2 ^ 52 == 0x50007D) &&
    goes (.migrationComplete (2 ^ 32)) { base with migrations := [{ m with old := 0 }] } (fun t => t.mem == base.mem && t.migrations.isEmpty) && Memory.wf base.mem = true := by
  decide +kernel

theorem test_met_links : goes (.flitRetry ⟨3, false⟩) base (fun t => t.links.map (·.failed) == (List.replicate 36 0).set 3 1) &&
    goes (.linkOutOfService 3) { base with links := base.links.set 3 { failed := 16 } } (fun t => (t.links.map (·.down)).getD 3 false) &&
    goes (.linkReturnToService 3) { base with links := base.links.set 3 { failed := 16, down := true } } (fun t => t.links.map (·.recals) == (List.replicate 36 0).set 3 1) &&
    goes (.linkRecalibration 3) base (fun t => t.links.map (·.recals) == (List.replicate 36 0).set 3 1) &&
    goes (.hopTimeout 1) base (fun t => t.telemetry.hops == 1) && goes .patrolScrub base (fun t => t.telemetry.scrubs == 1) &&
    goes .telemetryTick base (fun t => t.telemetry.ticks == 1) && [Instr.voltageDroop 3, .powerLimit 3, .thermalStretch 3].all (fun i =>
      goes i base (fun t => (getCore t 3).stretch == 1)) &&
    goes (.logicSoftError (.phys 0x300021)) base (fun t => t.bad == [0x300020]) && goes (.logicSoftError (.team 2 4095)) base (fun t => t.teams.map (·.bad) == [[4088]]) &&
    [(191, 7), (192, 0), (247, 0)].all (fun p => goes (.logicSoftError (.reg 3 p.1 p.2)) base (fun t => t.groups.map (·.badRegs) == [[p]])) &&
    goes (.logicSoftError (.logic [0])) (waits (.sparse 0 1 2)) (fun t => t.msix == [2] && t.groups.all (fun g => g.pending.isSome)) &&
    goes .thermalShutdown base (fun t => t.groups.isEmpty && t.grids.map (·.status) == [3]) = true := by decide +kernel

/-! ### A step -/

/-- The word that `withFetchWord` places is fetched and run: `li s3, 0x12` from reset. -/
theorem test_step_runs : (match step (State.reset.withFetchWord 32 0x68C30012) with | .next t => t.groups.map (fun g => sGet g 3) | _ => []) = [0x12] := by
  decide +kernel

/-- The premises of StepRunsDecoded: a turn of a running group at a word that decodes; one that does not; a queued word; a turn. -/
theorem test_met_step_runs : (let s := State.reset.withFetchWord 32 0x68C30012
    match s.agenda with
    | [.run n] => (getGroup s n).any (fun g => runnable s g && g.rq.isEmpty && !scoreboardHolds s g (.li false false (.s 3) 0x12) &&
        mainAcc s (whoOf s g).ctx g.pc.toNat .execute == .ok 0x200000 && bytesList s.mem 0x200000 4 == [0x12, 0x00, 0xC3, 0x68])
    | _ => false) = true := by decide +kernel

/-- The other cases of a fetch: a word with an error, a page that is not mapped, an address that is none of code; a word that the
scoreboard holds. -/
theorem test_met_step_stops : (let s := State.reset.withFetchWord 32 0x68C30012
    s.groups.all (fun g => physBad { s with bad := [0x200000] } false 0x200000 4 && runnable { s with bad := [0x200000] } g &&
      mainAcc s (whoOf s g).ctx (2 ^ 33) .execute == .park (2 ^ 33) && mainAcc s (whoOf s g).ctx 0x100 .execute == .flt 0x15 &&
      scoreboardHolds s { g with unfinished := [[0xC3]] } (.li false false (.s 3) 0x12) &&
      runnable s { g with unfinished := [[0xC3]] })) = true := by decide +kernel

theorem test_met_step_words : (match decodeBytes [0x12, 0x00, 0xC3, 0x68] with | some (.ok i, []) => i == .li false false (.s 3) 0x12 | _ => false) = true ∧
    (match decodeBytes [0, 0, 0, 0] with | some (.error _, []) => true | _ => false) = true ∧ (chosenTurn base).isSome = true := by decide +kernel

theorem test_met_step_queued : (afterThe (.tlwait 1 2) stTl).groups.all (fun g => g.rq.map (fun e => (decode e.word).toOption) == [some (.tlwait 1 2)]) = true := by
  decide +kernel

/-- The premise of EncodeDecode, in both directions; and MemInv of a state that has run. -/
theorem test_met_encode : encode (.add true false (.v 5) (.v 6) (.s 3)) = some 0xE20506C3 ∧ (decode 0xE20506C3).toOption = some (.add true false (.v 5) (.v 6) (.s 3)) ∧
    encode .deviceReset = none ∧ Memory.wf (State.reset.withFetchWord 32 0x68C30012).mem = true ∧
    (match step (State.reset.withFetchWord 32 0x68C30012) with | .next t => Memory.wf t.mem | _ => false) = true := by decide +kernel


/-! ### Values (09 R173, R179 to R181, 02 R39) -/

/-- One element of a word on operands x and y, with the old destination z: the code, and the events in the order of 04 R83. -/
def elem (i : Instr) (t : Ty) (rm : Nat) (sat : Bool) (x y z : Nat) : Option (Nat × List Nat) :=
  (laneOp i t ⟨rm, sat, false⟩ 5 x y z).map (fun r => (r.code, r.events.toList))

/-- At f32 1 + 1.5 × −2.5 and 1.5 × −2.5 − 1; 0 × ∞; at .b8p3s the negative of the missing magnitude, nearest-even with and without
saturation (09 R179's own example); at i8 the clamped sum, the high half and the negative of an unsigned value. -/
theorem test_element_values :
    let t : Ty := .flt 8 23
    let b : Ty := .b8 3 true false
    let i8 : Ty := .int true 8
    [elem (.fma false false (.v 3) (.v 1) (.v 2)) t 0 false 0x3FC00000 0xC0200000 0x3F800000, elem (.fms false false (.v 3) (.v 1) (.v 2)) t 0 false 0x3FC00000 0xC0200000 0x3F800000,
      elem (.neg false false (.v 3) (.v 1)) b 0 false 0x7F 0 0, elem (.neg false false (.v 3) (.v 1)) b 0 true 0x7F 0 0,
      elem (.mulhi false false (.v 3) (.v 1) (.v 2)) i8 0 false 0x81 0x7F 0].map (·.map (·.1)) = [some 0xC0300000, some 0xC0980000, some 0x80, some 0xFE, some 0xC0] ∧
    (laneOp (.neg false false (.v 3) (.v 1)) b ⟨0, true, false⟩ 5 0x7F 0 0).map (·.events) = some { sat := 1 } ∧
    (laneOp (.fma false false (.v 3) (.v 1) (.v 2)) t ⟨0, false, false⟩ 5 0 0x7F800000 0).map (fun r => (r.code, r.events)) = some (0x7FC00000, { nan := 1 }) ∧
    (laneOp (.fma false false (.v 3) (.v 1) (.v 2)) i8 ⟨0, false, false⟩ 5 100 2 100).map (fun r => (r.code, r.events)) = some (127, { sat := 1 }) ∧
    (laneOp (.neg false false (.v 3) (.v 1)) (.int false 8) ⟨0, false, false⟩ 5 3 0 0).map (fun r => (r.code, r.events)) = some (0, { sat := 1 }) := by
  decide +kernel

/-- The premises of ElementValues: a NaN, an infinity, a number and a zero at f32 and a binary8 type; −0 is the lesser of the zeros. -/
theorem test_met_element_values :
    (Ty.ofCode 0x10).map (fun t => (t.isF8, [0x7FC00001, 0xFF800000, 0x3FC00000, 0x80000000, 0xFFFFFFFF].map (valOf t false))) =
      some (true, [.nan, .inf true, .fin false 12582912 8388608, .fin true 0 713623846352979940529142984724747568191373312, .na]) ∧
    (Ty.ofCode 0x37).isNone = true ∧ (Ty.ofCode 0x32).map (fun t => (t.isUB8, valOf t false 0xFF, t.na)) = some (true, .nan, 0xFE) ∧
    [Instr.min false false (.v 3) (.v 1) (.v 2), .max false false (.v 3) (.v 1) (.v 2)].map (fun i =>
      (laneOp i (.flt 8 23) ⟨0, false, false⟩ 5 0 0x80000000 0).map (·.code)) = [some 0x80000000, some 0] ∧
    (Ty.int true 8).present 0x80 = false ∧ (Ty.e8m0).na = 0 := by decide +kernel

/-- Special values of 09 R180's table, exact roots and powers, integral values, and conversions into e8m0 with a tie (02 R39). -/
theorem test_function_values :
    let t : Ty := .flt 8 23
    let one (i : Instr) (x : Nat) : Option Nat := (laneOp i t ⟨0, false, false⟩ 5 x 0 0).map (·.code)
    [one (.sqrt false false (.v 3) (.v 1)) 0x40800000, one (.rsqrt false false (.v 3) (.v 1)) 0x40800000, one (.recip false false (.v 3) (.v 1)) 0x80000000,
      one (.exp2 false false (.v 3) (.v 1)) 0x40400000, one (.log2 false false (.v 3) (.v 1)) 0x41000000, one (.tanh false false (.v 3) (.v 1)) 0xFF800000,
      one (.sin false false (.v 3) (.v 1)) 0x7F800000, one (.floor false false (.v 3) (.v 1)) 0xBF000000, one (.ceil false false (.v 3) (.v 1)) 0xBF000000,
      one (.frac false false (.v 3) (.v 1)) 0xBFC00000, one (.rint false false (.v 3) (.v 1)) 0x40200000] =
    [some 0x40000000, some 0x3F000000, some 0xFF800000, some 0x41000000, some 0x40400000, some 0xBF800000, some 0x7FC00000, some 0xBF800000,
      some 0x80000000, some 0xBF000000, some 0x40000000] ∧
    [0x40400000, 0x3FC00000, 0x00000001, 0x80000000, 0x7F7FFFFF].map (fun x =>
      (laneOp (.cvt false false (.v 3) (.v 1) 0x10) .e8m0 ⟨0, false, false⟩ 5 x 0 0).map (fun r => (r.code, r.events))) =
    [some (0x80, {}), some (0x80, {}), some (1, { flush := 1 }), some (0xFF, { nan := 1 }), some (0xFF, { nan := 1 })] := by decide +kernel

/-- The premises of FunctionValues: values of each kind; a value whose integral is beyond the format, and one whose fraction is not. -/
theorem test_met_function_values :
    (Ty.ofCode 0x10).map (fun t => (t.isFlt, t.isRaw, [0x41000000, 0x3E000000, 0xC1000000, 0xFF800000, 0].map (valOf t false))) =
      some (true, false, [.fin false (2 ^ 23) (2 ^ 20), .fin false (2 ^ 23) (2 ^ 26), .fin true (2 ^ 23) (2 ^ 20), .inf true, .fin false 0 (2 ^ 149)]) ∧
    (Ty.ofCode 0x2C).map (fun t => (t.isF8, valOf t false 0xFD, decide (gridUnits t.prec (t.maxMag true) < 15 * 2 ^ t.unitBits))) =
      some (true, .fin true 29 2, true) := by decide +kernel

/-! ### More premises: the matrix engine, cores, engines and sets -/

/-- A load of class 2 into the block-scaled slot, with an absent origin: every scale is 0x7F. -/
theorem test_met_slot_scales :
    let h := Shape.of (record 0x40 0x22 2 64 64)
    met (.slotl false 3 1 (.s 3)) { stMat with groups := stMat.groups.map (fun g => { g with h := cellSet g.h 1 (record 0x40 0x22 2 64 64) }) }
      planMatrix [] (fun x => scalarA x == na64 && (getName x.s 2 3).any (fun n => n.layout == 1)) = true ∧ h.cls = 2 ∧
    slotLoadFault stMat (whoOf stMat group3) h { name := 3, type := 0x22, layout := 1, form := false, store := [], sidecar := [] } false 3 na64 = none := by
  refine ⟨by decide +kernel, by decide +kernel, ?_⟩
  have h : (Shape.of (record 0x40 0x22 2 64 64)).locate [none, none] = none := by decide +kernel
  have e : ∀ r c, loadCoords false na64 r c = [none, none] := fun r c => by simp [loadCoords, originPlus]
  have l : loadFault stMat (whoOf stMat group3) [] = none := by decide +kernel
  have n : ∀ m : List (Nat × Nat), m.filterMap (fun _ => (none : Option (Int × Nat))) = [] := fun m => by simp
  unfold slotLoadFault scaleAddr
  simp only [e, h, Option.map_none, n, List.append_nil, l]
  decide +kernel

theorem test_met_accr_behind : met (.accr false false (.v 4) (.s 4) 0) stBlocked (planAccr 0) [] (fun x => matrixBlocked x.s x.g x.i) &&
    ((after (.accr false false (.v 4) (.s 4) 0) stBlocked).any (fun t => t.groups.all (fun g => g.latch.1 == .pending true (32 + stBlocked.nextId)) &&
      (getCore t 0).matrix.map (·.todo.isSome) == [false, true])) = true := by decide +kernel

/-- The exact product of two elements at the bounds of the clause: it survives the float kind unchanged. -/
theorem test_met_exact_products : [(1, -1066), (2 ^ 45 - 1, 978)].map (fun y =>
      valOf (.flt 11 44) false (deliver (.flt 11 44) ⟨0, false, false⟩ 0 (.scaled true y.1 y.2)).code) =
    [.fin true 1 (2 ^ 1066), .fin true ((2 ^ 45 - 1) * 2 ^ 978) 1] ∧
    macEntry (.int true 56) true 7 [(.fin false 3 1, .fin true 2 1), (.na, .fin false 1 1), (.fin false 1 1, .fin false 1 1)] = (2 ^ 55, { absent := 1 }) := by
  decide +kernel

/-- An operation that has met an error and whose group is gone leaves the engine; a group with one takes its fault with its words
first in its queue; of one that is being drained the words join its queue. -/
theorem test_met_matrix_errors :
    let e : Entry := queuedAdd
    let m : MatrixOp := { team := 2, group := 3, slots := [0], tiles := [], todo := some (e, group3), failed := some (fault 0x50) }
    let s (f : Group → Group) (n : Nat) : State := { stHandler with groups := stHandler.groups.map f, cores := [(0, { matrix := [{ m with group := n }] })] }
    goes (.matrixOperationComplete 0) (s id 77) (fun t => (getCore t 0).matrix.isEmpty) &&
    goes (.trapEntry 3) (s (fun g => { g with pending := some (fault 0x50) }) 3) (fun t => (getCore t 0).matrix.isEmpty && t.groups.all (·.handler)) &&
    goes (.matrixOperationComplete 0) (s (fun g => { g with pending := some (fault 0x50), stopped := true }) 3) (fun t =>
      (getCore t 0).matrix.isEmpty && t.groups.map (fun g => g.rq.map (·.faulting)) == [[true]]) = true := by decide +kernel

/-- An operation that asks for entries is granted them before a group that parked later; a full buffer makes it ask. -/
theorem test_met_entries :
    let s := afterThe (.copyIn false 2 1 0) { stRec with groups := stRec.groups.map (fun g => { g with h := cellSet g.h 1 (record (2 ^ 33) 16 0 2 2) }) }
    let full := { s with dies := [{ buffered := 4096 }, {}, {}, {}] }
    let asking := afterThe (.copyOperationComplete 4) full
    let later := { asking with dies := List.replicate 4 {}, groups := asking.groups.map (fun g => { g with wait := some (.fetch (2 ^ 33) false 0), serial := 2 ^ 40 }) }
    asking.ops.map (fun o => (o.parked, o.asks)) == [([], some ([2 ^ 33], [2 ^ 27]))] &&
    goes (.faultBufferGrant 0) later (fun t => t.ops.map (fun o => (o.parked, o.asks.isSome)) == [([2 ^ 33], false)] && t.groups.map (·.wait) == later.groups.map (·.wait))
      = true := by decide +kernel

/-- A `copy.mig` of one element to a tier that is none; one that has started and has no move left ends. -/
theorem test_met_moves :
    let other := afterThe (.copyMig false 1 0 9) stRec
    let one := afterThe (.copyMig false 1 0 8) { stRec with groups := stRec.groups.map (fun g => { g with h := cellSet g.h 1 (record (2 ^ 32 + 0x1000) 16 0 1 1) }) }
    (getOp other 4).any (fun o => (runMig other o none).run.s == other && o.args.getD 0 0 == 2) &&
    (getOp one 4).any (fun o => (Shape.of (o.recs.getD 1 0)).count == 1 && (o.args.getD 0 0 == 1) &&
      (match elemAt one (opEng o) (Shape.of (o.recs.getD 1 0)) 0 with | .inr (some a, _) => decide (2 ^ 32 ≤ a) | _ => false)) &&
    goes (.copyOperationComplete 4) { other with ops := other.ops.map (fun o => { o with started := true }) } (fun t => (getOp t 4).isNone) = true := by
  decide +kernel

/-- A collective on a set that a later one, an earlier one, a reform or a new epoch has changed. -/
theorem test_met_broken_sets :
    let s := afterThe (.collArAdd false 2 1 0 4) { stColl with teams := [{ team2 with mem := bytesPut [] 0x40 message }] }
    let set (f : PeerSet → PeerSet) : State := { s with contexts := s.contexts.map (fun c => { c with peers := c.peers.map f }) }
    (setOps s 0 5).map (fun o => (o.kind, o.seq.toNat)) == [(.coll, 1)] &&
    goes (.transactionTimeout 4) (set (fun p => { p with state := 3 })) (fun t => (getOp t 4).isNone) &&
    [set (fun p => { p with state := 2, status := BitVec.ofNat 64 (3 * 2 ^ 32 + 0xFFFF0001) }), set (fun p => { p with state := 2, status := 0xFFFF0001 }),
      set (fun p => { p with state := 3 })].all (fun t => (getOp t 4).any (fun o => o.parked.isEmpty && o.asks.isNone)) = true := by decide +kernel

/-- A queued move of a page with a value kept for it; words in the queue of an index unit that has an error; no word in one part. -/
theorem test_met_kept_entries :
    let m : Migration := { page := 2 ^ 32, context := 0, size := 32, entryAt := 0x13000, old := 0x20007D, dest := 0x500000, op := none }
    goes (.migrationComplete (2 ^ 32)) { base with migrations := [m], oldEntries := [(0, 0x13000, 0x20005D), (1, 0x13000, 0x20005D)] } (fun t =>
      t.oldEntries.map (fun o => o.2.2.toNat / 2 ^ 8 % 2 ^ 44 * 2 ^ 8) == [0x500000, 0x200000]) &&
    goes (.logicSoftError (.index 0)) (waits (.sparse 0 1 2)) (fun t => t.msix == [2] && t.groups.all (fun g => g.pending.isSome)) &&
    goes (.logicSoftError (.index 1)) (waits (.sparse 0 1 2)) (fun t => t.groups.all (fun g => g.pending.isNone)) &&
    (waits (.sparse 0 1 2)).groups.all (fun g => leAt (region (waits (.sparse 0 1 2)) none 0) (64 + 64 * g.residency + 48) 8 == 2) = true := by
  decide +kernel

/-- A gang's member with no team of it has work to do at once (16 R297). -/
theorem test_met_empty_share : stGangShared.grids.all (fun g => gangNextWork stGangShared { g with total := 0 }) = true := by decide +kernel

end Sys2Proof.Tests
end

section
/-! SUPPORT. How a clean word ends, once for all of them: in sequence with its group as its own work left it, with a vector
result (03 R54, R55, R59), with one scalar result, or with two (10 R191). -/

namespace Sys2Proof.Machine

/-! ### Sets of lanes -/

theorem testBit_sum_two_pow (p : Nat → Bool) (n k : Nat) :
    ((List.range n).foldl (fun m i => if p i then m + 2 ^ i else m) 0).testBit k = (decide (k < n) && p k) ∧
      (List.range n).foldl (fun m i => if p i then m + 2 ^ i else m) 0 < 2 ^ n := by
  induction n with
  | zero => simp
  | succ n ih =>
    obtain ⟨hbit, hlt⟩ := ih
    rw [List.range_succ, List.foldl_append, List.foldl_cons, List.foldl_nil]
    generalize (List.range n).foldl (fun m i => if p i then m + 2 ^ i else m) 0 = m at hbit hlt ⊢
    have hpow : 2 ^ (n + 1) = 2 ^ n + 2 ^ n := by omega
    cases hp : p n
    · refine ⟨?_, by simp; omega⟩
      by_cases hk : k = n
      · subst hk; simp [hbit, hp]
      · have hiff : k < n + 1 ↔ k < n := by omega
        simp [hbit, hiff]
    · refine ⟨?_, by simp; omega⟩
      simp only [if_true, Nat.add_comm m]
      rcases Nat.lt_trichotomy k n with hk | hk | hk
      · rw [Nat.testBit_two_pow_add_gt hk, hbit]; simp [hk, Nat.lt_succ_of_lt hk]
      · subst hk; rw [Nat.testBit_two_pow_add_eq, hbit]; simp [hp]
      · have hno : 2 ^ n + m < 2 ^ k := calc
          2 ^ n + m < 2 ^ (n + 1) := by omega
          _ ≤ 2 ^ k := Nat.pow_le_pow_right (by omega) hk
        rw [Nat.testBit_lt_two_pow hno]
        have : ¬k < n + 1 := by omega
        simp [this]

/-- A lane is in a set exactly when it is below the width and meets the predicate. -/
theorem getLsbD_laneSet (width : Nat) (p : Nat → Bool) {k : Nat} (hk : k < 64) :
    (laneSet width p).getLsbD k = (decide (k < width) && p k) := by
  rw [laneSet, BitVec.getLsbD_ofNat, (testBit_sum_two_pow p width k).1]
  simp [hk]

/-! ### The group that a word leaves -/

theorem setGroup_setGroup (s : State) {x y : Group} (h : x.id = y.id) : setGroup (setGroup s x) y = setGroup s y := by
  unfold setGroup
  rw [List.map_map]
  congr 2
  funext z
  by_cases hz : z.id = y.id <;> simp [h, hz]

@[simp] theorem sequenced_id (x : Issue) (g : Group) : (sequenced x g).id = g.id := by
  unfold sequenced; split
  · split <;> rfl
  · rfl

theorem endedRecipe_run (g : Group) (c : Nat) :
    (endedRecipe g c).rq = g.rq ∧ (endedRecipe g c).runCount = g.runCount ∧ (endedRecipe g c).runWords = g.runWords := by
  unfold endedRecipe; split <;> exact ⟨rfl, rfl, rfl⟩

/-- Ending the recipes of the registers written leaves the queue and the run of the group alone. -/
theorem afterWrite_run (g : Group) (t : Bool) (r : Nat) (pair : Bool) :
    (afterWrite g t r pair).rq = g.rq ∧ (afterWrite g t r pair).runCount = g.runCount ∧
      (afterWrite g t r pair).runWords = g.runWords := by
  obtain ⟨hq, hc, hw⟩ := endedRecipe_run g r
  obtain ⟨hq', hc', hw'⟩ := endedRecipe_run (endedRecipe g r) (r + 1)
  unfold afterWrite
  cases t
  · cases pair
    · by_cases hr : isExt r = true <;> simp [hr, hq, hc, hw]
    · by_cases hr : isExt r = true <;> simp [hr, hq, hc, hw, hq', hc', hw']
  · exact ⟨rfl, rfl, rfl⟩

theorem getGroup_afterWriteState (s : State) (g : Group) (t : Bool) (r : Nat) (pair : Bool) (k : Nat) :
    getGroup (afterWriteState s g t r pair) k = getGroup s k :=
  getGroup_of_groups (by rw [afterWriteState_only]) k

section
variable {i : Instr} {s : State} {plan : Issue → Plan} {places : List Place} {x : Issue}

/-- The entry of a fresh word before its own work: at the group's place and mode, nothing of it done, no latch awaited. -/
theorem cleanIssue_entry (h : cleanIssue i s plan places = some x) :
    x.e.addr = x.g.pc ∧ x.e.mode = x.g.mode ∧ x.e.tag = 0 ∧ x.e.lanesDone = 0 ∧ x.e.first = 0 ∧
      x.e.active = issueLanes x plan ∧ x.e.cond0 = (plan (freshIssue i s x.g x.e.word)).cond0 := by
  obtain ⟨-, -, -, -, -, -, -, -, haddr, hact, hmode, hcond, -, -, htag, hdone, -, hfirst, -⟩ := cleanIssue_facts h
  exact ⟨haddr, hmode, htag, hdone, hfirst, hact, hcond⟩

theorem firstSome_eq_none {α β : Type} {f : α → Option β} {l : List α} (h : firstSome f l = none) : ∀ a ∈ l, f a = none := by
  induction l with
  | nil => simp
  | cons a l ih =>
    unfold firstSome at h
    split at h
    · cases h
    · rename_i ha
      simpa [ha] using ih h

/-- A word that meets no cause of 03 R63 reaches every register that it writes, unless that one is dropped and read too. -/
theorem badWrite_of_checkPlan {g : Group} {w : Word} {p : Plan} {reads : List Nat} {live : BitVec 3}
    (h : checkPlan g i w p reads live = none) {c : Nat} (hc : c ∈ p.writes) : badWrite g reads c = none := by
  have after : checkPlan.afterType g p reads = none := by
    unfold checkPlan at h
    split at h
    · cases h
    · dsimp only at h
      split at h
      · cases h
      · split at h
        · split at h
          · cases h
          · exact h
        · exact h
  unfold checkPlan.afterType at after
  split at after
  · cases after
  · split at after
    · cases after
    · exact firstSome_eq_none ‹_› c hc

/-- A clean word reaches every register that it writes (08 R153). -/
theorem cleanIssue_keeps (h : cleanIssue i s plan places = some x) {c : Nat}
    (hc : c ∈ (plan (freshIssue i s x.g x.e.word)).writes) : keeps x.g false c := by
  obtain ⟨-, -, -, hcur, -, -, hword, -⟩ := cleanIssue_facts h
  have hr := (cleanIssue_iff.1 h).1
  unfold readyIssue at hr
  rw [hcur, hword] at hr
  dsimp only at hr
  split at hr
  · rename_i hok
    simp only [Bool.and_eq_true, Option.isNone_iff_eq_none, Bool.not_eq_true', List.any_eq_false] at hok
    obtain ⟨⟨⟨-, hcheck⟩, hdrop⟩, -⟩ := hok
    have hw := badWrite_of_checkPlan hcheck hc
    intro hext
    refine ⟨?_, fun _ => rfl⟩
    cases hheld : isHeld x.g c with
    | true => rfl
    | false =>
      exfalso
      simp only [badWrite, hext, hheld, Bool.not_false, Bool.true_and, ite_eq_right_iff, reduceCtorEq, imp_false,
        Bool.not_eq_true', Bool.not_eq_false, Bool.and_eq_true, List.contains_iff_mem] at hw
      exact hdrop c hw.1 hw.2
  · cases hr

/-- A clean word whose own work changes its group to `g` in a state `s0`, and not the group's place in its run, ends in
sequence. -/
theorem runWord_ok {s0 : State} {g g0 : Group} (body : Issue → Except Stop Done) (h : cleanIssue i s plan places = some x)
    (hb : body x = .ok (.ok (setGroup s0 g))) (hs : getGroup s0 x.g.id = some g0) (hid : g.id = x.g.id)
    (hrun : g.rq = x.g.rq ∧ g.runCount = x.g.runCount ∧ g.runWords = x.g.runWords) :
    runWord i s plan places body = .next (setGroup s0 (sequenced x g)) := by
  obtain ⟨-, -, hfresh, -, -, hq, -⟩ := cleanIssue_facts h
  obtain ⟨hrq, hcount, hwords⟩ := hrun
  have hg : getGroup (setGroup s0 g) x.g.id = some g := getGroup_setGroup_self hs hid
  rw [runWord_clean body h, ran, hb]
  simp only
  rw [finish_ok hfresh (cleanIssue_entry h).1 hg (hrq.trans hq) hcount hwords, setGroup_setGroup _ (by simp)]

end

/-! ### Vector results -/

theorem keptLane_lt (g : Group) (r i : Nat) : keptLane g r i < 2 ^ 32 := by
  unfold keptLane; split
  · decide
  · exact (cellGet g.v (r * 64 + i)).isLt

/-- A lane that a word does not write keeps its register's value, where the word reaches the register. -/
theorem oldHalf_of_keeps {g : Group} {t : Bool} {r : Nat} (h : keeps g t r) (i : Nat) : oldHalf g t r i = keptLane g r i := by
  unfold oldHalf keptLane
  by_cases hext : isExt r = true
  · obtain ⟨hheld, hdrop⟩ := h hext
    by_cases hd : isDropped g r = true
    · simp [hheld, hd, hdrop hd]
    · simp [hheld, hd]
  · have hd : isDropped g r = false := by simp [isDropped, hext]
    simp [hext, hd]

theorem oldVal_of_keeps {g : Group} {t : Bool} {r : Nat} {pair : Bool} (h : keeps g t r)
    (hp : pair = true → keeps g t (r + 1)) (i : Nat) :
    oldVal g t r i pair = keptLane g r i + if pair then 2 ^ 32 * keptLane g (r + 1) i else 0 := by
  cases pair
  · simp [oldVal, oldHalf_of_keeps h]
  · simp [oldVal, oldHalf_of_keeps h, oldHalf_of_keeps (hp rfl)]

/-- The values that a fresh vector result holds, lane by lane, before it enters the registers and the latches. -/
def vecVals (x : Issue) (t : Bool) (r : Nat) (pair : Bool) (f : Nat → Nat) : Cells 64 :=
  cellsOf 64 x.g.width (vecLane x.g x.e t r pair x.e.active f)

theorem vecVals_toNat (x : Issue) (t : Bool) (r : Nat) (pair : Bool) (f : Nat → Nat) {i : Nat} (hi : i < x.g.width) :
    (cellGet (vecVals x t r pair f) i).toNat = vecLane x.g x.e t r pair x.e.active f i % 2 ^ 64 := by
  simp [vecVals, cellGet_cellsOf, hi]

/-- A lane of the result: the word's value where it is active, else zero or, in registers that the word reaches, what it held. -/
theorem vecLane_eq {x : Issue} {t : Bool} {r : Nat} {pair : Bool} (hmode : x.e.mode = x.g.mode) (hk : keeps x.g t r)
    (hkp : pair = true → keeps x.g t (r + 1)) (f : Nat → Nat) (i : Nat) :
    vecLane x.g x.e t r pair x.e.active f i =
      if x.e.active.getLsbD i then f i else if zeroFlag x.g.mode then 0
      else keptLane x.g r i + if pair then 2 ^ 32 * keptLane x.g (r + 1) i else 0 := by
  rw [vecLane, hmode, oldVal_of_keeps hk hkp]

theorem vecLatched_vecVals {x : Issue} {t : Bool} {r : Nat} {pair : Bool} {f : Nat → Nat} (hmode : x.e.mode = x.g.mode) :
    VecLatched x (.full true (vecVals x t r pair f), x.g.latch.1, x.g.latch.2.1) t r pair f := by
  refine ⟨_, rfl, fun i hi => ?_⟩
  have hval := vecVals_toNat x t r pair f hi
  by_cases ha : x.e.active.getLsbD i = true
  · rw [if_pos ha, hval]
    simp [vecLane, ha]
  rw [if_neg ha]
  by_cases hz : zeroFlag x.g.mode = true
  · rw [if_pos hz]
    apply BitVec.eq_of_toNat_eq
    simp [hval, vecLane, ha, hz, hmode]
  · rw [if_neg hz]
    intro hk hkp
    have hlo := keptLane_lt x.g r i
    have hhi := keptLane_lt x.g (r + 1) i
    rw [hval, vecLane_eq hmode hk hkp, if_neg ha, if_neg hz]
    apply Nat.mod_eq_of_lt
    split <;> omega

/-- What the registers hold of the result: its low half in the first, its high half in the second of a pair. -/
theorem vWrite_vecVals (x : Issue) (t : Bool) (r : Nat) (pair : Bool) (f : Nat → Nat) {i : Nat} (hi : i < 64)
    (hw : i < x.g.width) :
    let v := vWrite x.g.v r x.g.width pair (fun i => (cellGet (vecVals x t r pair f) i).toNat)
    (cellGet v (r * 64 + i)).toNat = vecLane x.g x.e t r pair x.e.active f i % 2 ^ 32 ∧
      (pair = true → (cellGet v ((r + 1) * 64 + i)).toNat = vecLane x.g x.e t r pair x.e.active f i / 2 ^ 32 % 2 ^ 32) := by
  have hval := vecVals_toNat x t r pair f hw
  refine ⟨?_, fun hp => ?_⟩
  · rw [vWrite_get _ _ _ _ _ _ _ hi, if_pos ⟨hw, rfl⟩, hval]
    omega
  · rw [vWrite_get _ _ _ _ _ _ _ hi, if_neg (by omega), if_pos ⟨hw, hp, rfl⟩, hval]
    omega

theorem vecWritten_vecVals {x : Issue} {t : Bool} {r : Nat} {pair : Bool} {f : Nat → Nat} (hmode : x.e.mode = x.g.mode)
    (hk : t = false → keeps x.g t r ∧ (pair = true → keeps x.g t (r + 1))) :
    VecWritten x (if t then x.g.v else vWrite x.g.v r x.g.width pair (fun i => (cellGet (vecVals x t r pair f) i).toNat))
      t r pair f := by
  unfold VecWritten
  cases t with
  | true => rfl
  | false =>
    obtain ⟨hr, hr1⟩ := hk rfl
    refine ⟨fun i hi hw => ?_, fun k i hi hkr hkp => ?_⟩
    · obtain ⟨hlow, hhigh⟩ := vWrite_vecVals x false r pair f hi hw
      rw [vecLane_eq hmode hr hr1] at hlow hhigh
      by_cases ha : x.e.active.getLsbD i = true
      · rw [if_pos ha] at hlow hhigh ⊢
        exact ⟨hlow, hhigh⟩
      rw [if_neg ha] at hlow hhigh ⊢
      by_cases hz : zeroFlag x.g.mode = true
      · rw [if_pos hz] at hlow hhigh ⊢
        exact ⟨hlow, hhigh⟩
      · rw [if_neg hz] at hlow hhigh ⊢
        have hlo := keptLane_lt x.g r i
        have hhi := keptLane_lt x.g (r + 1) i
        refine ⟨hlow.trans (by split <;> omega), fun hp => (hhigh hp).trans ?_⟩
        rw [if_pos hp]
        omega
    · rw [if_neg Bool.false_ne_true, vWrite_get _ _ _ _ _ _ _ hi, if_neg (fun hc => hkr hc.2), if_neg (fun hc => hkp hc.2)]
      rfl

/-- A clean word whose own work puts a vector result ends in sequence with it, where it reaches the registers it writes. -/
theorem vecResult_of_putVec {i : Instr} {s s0 : State} {plan : Issue → Plan} {places : List Place} {x : Issue}
    {body : Issue → Except Stop Done} {t : Bool} {r : Nat} {pair : Bool} {f : Nat → Nat}
    (h : cleanIssue i s plan places = some x) (hexec : exec i s = runWord i s plan places body)
    (hb : body x = .ok (.ok (putVec s0 x.g x.e t r pair x.e.active f))) (hs : getGroup s0 x.g.id = some x.g)
    (hk : t = false → keeps x.g t r ∧ (pair = true → keeps x.g t (r + 1))) :
    VecResult i s s0 x x.g t r pair f := by
  obtain ⟨-, hmode, htag, hdone, hfirst, -⟩ := cleanIssue_entry h
  rw [putVec_fresh _ _ _ _ _ htag hdone hfirst] at hb
  refine ⟨_, _, ?_, vecWritten_vecVals hmode hk, vecLatched_vecVals hmode⟩
  rw [hexec, runWord_ok body h hb (by rwa [getGroup_afterWriteState]) (by simp) (afterWrite_run x.g t r pair)]
  rfl

/-! ### Scalar results -/

theorem scalarVals_toNat (v : Nat) : (cellGet (cellsOf 64 1 (fun _ => v)) 0).toNat = v % 2 ^ 64 := by
  simp [cellGet_cellsOf]

/-- A clean word whose own work puts a scalar result ends in sequence with it. -/
theorem scalarResult_of_putScalar {i : Instr} {s s0 : State} {plan : Issue → Plan} {places : List Place} {x : Issue}
    {body : Issue → Except Stop Done} {t : Bool} {r v : Nat}
    (h : cleanIssue i s plan places = some x) (hexec : exec i s = runWord i s plan places body)
    (hb : body x = .ok (.ok (putScalar s0 x.g x.e t r v))) (hs : getGroup s0 x.g.id = some x.g) :
    ScalarResult i s s0 x x.g t r v := by
  obtain ⟨-, -, htag, -⟩ := cleanIssue_entry h
  rw [putScalar_fresh _ _ _ htag] at hb
  refine ⟨_, _, hexec.trans (runWord_ok body h hb hs rfl ⟨rfl, rfl, rfl⟩), ?_, _, rfl, scalarVals_toNat v⟩
  unfold ScalarWritten
  cases t
  · simpa using fun k hk => cellGet_cellSet_other _ _ hk
  · simp

/-- A clean word whose own work puts two scalar results ends in sequence with them, the first one also in the latches. -/
theorem twoResults_of_putTwo {i : Instr} {s s0 : State} {plan : Issue → Plan} {places : List Place} {x : Issue}
    {body : Issue → Except Stop Done} {r a b : Nat}
    (h : cleanIssue i s plan places = some x) (hexec : exec i s = runWord i s plan places body)
    (hb : body x = .ok (.ok (putTwo s0 x.g x.e r a b))) (hs : getGroup s0 x.g.id = some x.g) :
    ∃ m l, exec i s = .next (setGroup s0 (sequenced x { x.g with s := m, latch := l })) ∧ ScalarLatched x l a ∧
      (cellGet m r).toNat = a % 2 ^ 64 ∧ (cellGet m (r + 1)).toNat = b % 2 ^ 64 ∧
      ∀ k, k ≠ r → k ≠ r + 1 → cellGet m k = cellGet x.g.s k := by
  obtain ⟨-, -, htag, -⟩ := cleanIssue_entry h
  simp only [putTwo, htag, pushLatch_fresh] at hb
  refine ⟨_, _, hexec.trans (runWord_ok body h hb hs rfl ⟨rfl, rfl, rfl⟩), ⟨_, rfl, scalarVals_toNat a⟩, ?_, ?_, ?_⟩
  · rw [cellGet_cellSet_other _ _ (by omega), cellGet_cellSet_self, BitVec.toNat_ofNat]
  · rw [cellGet_cellSet_self, BitVec.toNat_ofNat]
  · intro k hk hk1
    rw [cellGet_cellSet_other _ _ hk1, cellGet_cellSet_other _ _ hk]

end Sys2Proof.Machine
end

section
/-! The words across the lanes that compute no value: `bcast` and `lidx` (10 R194), `red.cnt` (R196), the votes (R200). -/

namespace Sys2Proof.Machine

/-! ### `bcast` and `lidx` -/

/-- Settles O11: both words put a vector result in registers that they reach, `bcast` the one lane's value, `lidx` the index. -/
theorem broadcastAndIndex : Obligations.BroadcastAndIndex := by
  intro e t d a L s x
  refine ⟨fun h => ?_, fun h => ?_⟩
  · obtain ⟨hs, hi, -, -, hg, -⟩ := cleanIssue_facts h
    obtain ⟨-, hmode, -⟩ := cleanIssue_entry h
    have ht : x.i.form.t = t := by rw [hi]; rfl
    refine vecResult_of_putVec (body := bcastBody L.toNat) h rfl ?_ hg ?_
    · simp only [bcastBody, hmode, hs, ht, isWide]
    · rintro rfl
      have hw : (planScan (freshIssue (.bcast e false d a L) s x.g x.e.word)).writes =
          if isWide x then [destReg x.i.form.d, destReg x.i.form.d + 1] else [destReg x.i.form.d] := by rw [hi]; rfl
      refine ⟨cleanIssue_keeps h ?_, fun hp => cleanIssue_keeps h ?_⟩
      · rw [hw]; split <;> simp
      · rw [hw, if_pos hp]; simp
  · obtain ⟨hs, hi, -, -, hg, -⟩ := cleanIssue_facts h
    have ht : x.i.form.t = t := by rw [hi]; rfl
    refine vecResult_of_putVec (body := lidxBody) h rfl ?_ hg ?_
    · simp only [lidxBody, hs, ht]
    · rintro rfl
      have hw : (planLidx (freshIssue (.lidx e false d) s x.g x.e.word)).writes = [destReg x.i.form.d] := by rw [hi]; rfl
      exact ⟨cleanIssue_keeps h (by simp [hw]), by simp⟩

/-! ### `red.cnt` -/

/-- The kept lanes are the active ones whose element is present (10 R195). -/
theorem filter_laneElem_isSome (x : Issue) (t : Ty) :
    (List.range x.g.width).filter (fun k => (laneElem x t k).isSome) =
      (lanesOf x.e.active x.g.width).filter (fun k => t.present (srcVal x.e x.i.form.a x.e.slotA t k)) := by
  rw [lanesOf, List.filter_filter]
  congr 1
  funext k
  unfold laneElem
  cases x.e.active.getLsbD k <;> cases h : t.present (srcVal x.e x.i.form.a x.e.slotA t k) <;> simp [h]

/-- Settles O13: the word puts the two counts in a pair of scalar registers, the first of them in the latches. -/
theorem countReduction : Obligations.CountReduction := by
  intro e d a s x h
  obtain ⟨hs, -, -, -, hg, -⟩ := cleanIssue_facts h
  obtain ⟨-, hmode, -⟩ := cleanIssue_entry h
  refine twoResults_of_putTwo h rfl ?_ hg
  simp only [redCntBody, hs, hmode, filter_laneElem_isSome, lanesOf]

/-! ### Votes -/

/-- A vote for a condition, whichever of the three words it is: the mask of the active lanes that hold it. -/
theorem scalarResult_of_voteBody {i : Instr} {s : State} {x : Issue} {q : Nat} {c : Cond}
    (h : cleanIssue i s (planVote q) [] = some x) (hexec : exec i s = runWord i s (planVote q) [] (voteBody c)) :
    ∃ v, ScalarResult i s s x x.g i.form.t (destReg x.i.form.d) v ∧ v < 2 ^ 64 ∧ ∀ k, k < 64 → v.testBit k =
      (decide (k < x.g.width) && (activeSet x.g).getLsbD k && condRead (condAt (cellGet x.g.q q) k) == c) := by
  obtain ⟨hs, hi, -, -, hg, -⟩ := cleanIssue_facts h
  obtain ⟨-, -, -, -, -, hactive, hcond⟩ := cleanIssue_entry h
  have hactive : x.e.active = activeSet x.g := hactive
  have hcond : x.e.cond0 = cellGet x.g.q q := hcond
  refine ⟨(laneSet x.g.width (fun k => (activeSet x.g).getLsbD k && condRead (condAt (cellGet x.g.q q) k) == c)).toNat,
    scalarResult_of_putScalar h hexec ?_ hg, BitVec.isLt _, fun k hk => ?_⟩
  · simp only [voteBody, hs, hi, hactive, hcond]
  · rw [BitVec.testBit_toNat, getLsbD_laneSet _ _ hk, Bool.and_assoc]

/-- Settles O16: each of the three words votes for its condition, which is read with 0b11 as unknown. -/
theorem votes : Obligations.Votes := by
  intro e t d q s x
  exact ⟨fun h => scalarResult_of_voteBody h rfl, fun h => scalarResult_of_voteBody h rfl,
    fun h => scalarResult_of_voteBody h rfl⟩

end Sys2Proof.Machine
end
